-- ==== Sys2Proof/Word.lean ====
section
/-! DEFINITION. The word types (R4, R11), the fields every instruction word shares (R312), the operand
forms that have alternatives, and the plain data that device steps carry as operands. -/

namespace Sys2Proof

/-- 8 bits (R4). -/
abbrev Byte := BitVec 8
/-- 32 bits (R4). -/
abbrev Word := BitVec 32
/-- 64 bits (R4): a scalar register, an address, an instruction word. -/
abbrev Dword := BitVec 64
/-- Number of a vector register, v0-v255 (R11). -/
abbrev VReg := BitVec 8
/-- Number of a scalar register, s0-s63 (R11). -/
abbrev SReg := BitVec 6
/-- Number of a predicate, p0-p7 (R11). -/
abbrev PReg := BitVec 3
/-- One bit per lane of a quire (R165). -/
abbrev Lanes := BitVec 32

/-- The common fields of an instruction word but for the opcode (Table 14.1). -/
structure Head where
  b : Bool
  e : Bool
  gn : Bool
  gp : PReg
  deriving DecidableEq, Repr, Inhabited

/-- Second operand of a scalar instruction: a scalar register, or IMM21 (R322). -/
inductive ScalOp where
  | reg (r : SReg)
  | imm (i : BitVec 21)
  deriving DecidableEq, Repr, Inhabited

/-- Lane operand of `xlane`: a vector register, or the 5-bit immediate (Table 17.2). -/
inductive LaneOp where
  | reg (r : VReg)
  | imm (n : BitVec 5)
  deriving DecidableEq, Repr, Inhabited

/-- Group number or block count: a scalar register, or the 6-bit immediate (R383). -/
inductive CountOp where
  | reg (r : SReg)
  | imm (n : BitVec 6)
  deriving DecidableEq, Repr, Inhabited

/-- The format M fields beside VT (Table 14.2). -/
structure MemFields where
  vo : VReg
  sb : SReg
  size : BitVec 3
  space : BitVec 3
  order : BitVec 2
  scope : BitVec 3
  la : BitVec 4
  off : BitVec 14
  deriving DecidableEq, Repr, Inhabited

/-- The format C fields of a copy instruction (Table 14.2, R404). -/
structure CopyFields where
  vs : SReg
  sa : SReg
  sd : SReg
  sl : SReg
  fslot : BitVec 3
  acq : Bool
  rel : Bool
  scope : BitVec 3
  la : BitVec 4
  deriving DecidableEq, Repr, Inhabited

/-- FN and MOD of `cvtf`, `cvti` and `cvtif` (Table 16.8). `sel` holds FN[7:4]: the source float
format of `cvtf`, the integer type of the other two. -/
structure CvtFields where
  ff : BitVec 4
  sel : BitVec 4
  spos : BitVec 3
  rm : BitVec 2
  ftz : Bool
  sat : Bool
  dpos : BitVec 3
  fs : Bool
  fslot : BitVec 3
  deriving DecidableEq, Repr, Inhabited

/-- Second-operand modifiers of the floating-point instructions (Table 16.1). -/
structure FpMod where
  rm : BitVec 2
  ftz : Bool
  na : Bool
  nb : Bool
  nc : Bool
  deriving DecidableEq, Repr, Inhabited

/-- A firmware image as flash or the recovery mailbox holds it (R28, R29). -/
structure Image where
  content : List Byte
  ecdsa : List Byte
  lms : List Byte
  svn : Nat
  deriving DecidableEq, Repr, Inhabited

/-- Alarm events of R32; the third arises within SERVICE_REVERIFY. -/
inductive AlarmKind where
  | glitch
  | tamper
  | reverify
  deriving DecidableEq, Repr, Inhabited

/-- Where a soft error strikes (R24, Table 1.7). `core` numbers cores die * 40 + core. -/
inductive ErrLoc where
  /-- A dirty die-cache line, a home slice line or the cells of a page-table entry: a 128-byte line. -/
  | line (pa : Nat)
  /-- A storage-mode bank word: 64-bit word `w` of `row`. -/
  | bankWord (core bank row w : Nat)
  /-- A compute-mode row group. -/
  | rowGroup (core bank row group : Nat)
  /-- A 64-bit word of a register block of a quire: registers v(2k) and v(2k + 1) of a lane (log entry 54). -/
  | regWord (core slot lane k : Nat)
  /-- A 64-bit word of a clean copy in an L1 data cache, by line. -/
  | l1Copy (core line w : Nat)
  /-- A 64-bit word of a clean copy in an instruction cache. -/
  | codeCopy (core line w : Nat)
  /-- A 64-bit word of a clean copy in a die cache. -/
  | dieCopy (die line w : Nat)
  /-- A queue SRAM slot of a queue. -/
  | queueSlot (q index : Nat)
  /-- The oldest flit on the wire of a directed link. -/
  | flit (link : Nat)
  deriving DecidableEq, Repr, Inhabited

/-- Kinds of request to a home (Table 2.2). -/
inductive ReqKind where
  | read
  | write
  | wmask
  | atom
  | red
  deriving DecidableEq, Repr, Inhabited

/-- A domain request as it arrives on a Hyley port (R38, R52, R54). -/
structure RemoteReq where
  srcDev : Nat
  ctx : Nat
  kind : ReqKind
  va : Nat
  size : Nat
  aop : Nat
  data : List Byte
  mask : List Bool
  tag : Nat
  xdie : Nat
  /-- Die of the other device that asks (SRCDIE). -/
  srcDie : Nat := 0
  deriving DecidableEq, Repr, Inhabited

/-- Who asks for a pre-emption (R122, R158): a dispatcher, or the host through the service firmware. -/
inductive PreemptSrc where
  | dispatcher (die : Nat)
  | firmware (lk : Nat)
  deriving DecidableEq, Repr, Inhabited

/-- Two's-complement reading of a bit pattern. -/
def sgn {w : Nat} (x : BitVec w) : Int := x.toInt

/-- Clamp of R12: `sat(x, lo, hi)`. -/
def clamp (x lo hi : Int) : Int := if x < lo then lo else if hi < x then hi else x

/-- The low n bits of `x` as a bit pattern: wrap of R333. -/
def wrap (n : Nat) (x : Int) : BitVec n := BitVec.ofInt n x

end Sys2Proof
end

