-- ==== Sys2Proof/Syntax.lean ====
section
/-! DEFINITION. The steps of the opcode table, one constructor a row: the instruction words, in the
table's order, then the device steps. An instruction word carries the common fields (R312) and the
fields its description uses. A device step that brings something in from outside carries it as an
operand (cores are numbered die * 40 + core, launches ctx * 2^32 + launch ID, directed links as
Machine/State.lean says); a device step of the part itself happens at the unit that State.here names.
The instruction words and the steps with operands stand first: Lean compiles no more than 244
constructors that hold data. -/

namespace Sys2Proof

/-- One step of the part (spec/opcode_table.json). -/
inductive Instr where
  -- integer, format A (R334-R342)
  | iadd (h : Head) (sgn sat : Bool) (vd va vb : VReg)
  | isub (h : Head) (sgn sat : Bool) (vd va vb : VReg)
  | iaddx (h : Head) (ci : Bool) (pci pco : PReg) (vd va vb : VReg)
  | imul (h : Head) (vd va vb : VReg)
  | imulh (h : Head) (sgn : Bool) (vd va vb : VReg)
  | imad (h : Head) (vd va vb vc : VReg)
  | imadw (h : Head) (sgn : Bool) (vd va vb vc : VReg)
  | imin (h : Head) (sgn : Bool) (vd va vb : VReg)
  | imax (h : Head) (sgn : Bool) (vd va vb : VReg)
  | iabs (h : Head) (sat : Bool) (vd va : VReg)
  | and (h : Head) (vd va vb : VReg)
  | or (h : Head) (vd va vb : VReg)
  | xor (h : Head) (vd va vb : VReg)
  | andn (h : Head) (vd va vb : VReg)
  | orn (h : Head) (vd va vb : VReg)
  | not (h : Head) (vd va : VReg)
  | shl (h : Head) (vd va vb : VReg)
  | shr (h : Head) (vd va vb : VReg)
  | sar (h : Head) (vd va vb : VReg)
  | rotl (h : Head) (vd va vb : VReg)
  | popc (h : Head) (vd va : VReg)
  | clz (h : Head) (vd va : VReg)
  | ctz (h : Head) (vd va : VReg)
  | brev (h : Head) (vd va : VReg)
  | bfe (h : Head) (sgn : Bool) (vd va vb : VReg)
  | bfi (h : Head) (vd va vb vc : VReg)
  | bytex (h : Head) (vd va vb vc : VReg)
  | sel (h : Head) (ng : Bool) (vd : VReg) (pn : PReg) (va vb : VReg)
  | mov (h : Head) (w : Bool) (vd va : VReg)
  | lea (h : Head) (w sgn : Bool) (sh : BitVec 3) (vd va vb : VReg)
  -- integer, format I (R343)
  | iaddImm (h : Head) (vd va : VReg) (imm : Word)
  | isubImm (h : Head) (vd va : VReg) (imm : Word)
  | imulImm (h : Head) (vd va : VReg) (imm : Word)
  | iminImmS (h : Head) (vd va : VReg) (imm : Word)
  | iminImmU (h : Head) (vd va : VReg) (imm : Word)
  | imaxImmS (h : Head) (vd va : VReg) (imm : Word)
  | imaxImmU (h : Head) (vd va : VReg) (imm : Word)
  | andImm (h : Head) (vd va : VReg) (imm : Word)
  | orImm (h : Head) (vd va : VReg) (imm : Word)
  | xorImm (h : Head) (vd va : VReg) (imm : Word)
  | andnImm (h : Head) (vd va : VReg) (imm : Word)
  | ornImm (h : Head) (vd va : VReg) (imm : Word)
  | shlImm (h : Head) (vd va : VReg) (imm : Word)
  | shrImm (h : Head) (vd va : VReg) (imm : Word)
  | sarImm (h : Head) (vd va : VReg) (imm : Word)
  | rotlImm (h : Head) (vd va : VReg) (imm : Word)
  | movi (h : Head) (vd : VReg) (imm : Word)
  | moviB64 (h : Head) (vd : VReg) (imm : Word)
  | leaImm (h : Head) (vd va : VReg) (imm : Word)
  | leaWImm (h : Head) (vd va : VReg) (imm : Word)
  -- compares and predicates (R344, R345)
  | isetp (h : Head) (cond : BitVec 3) (sgn w : Bool) (cmb : BitVec 2) (pd pc : PReg) (va vb : VReg)
  | isetpImm (h : Head) (cond : BitVec 3) (pd : PReg) (va : VReg) (imm : Word)
  | plop (h : Head) (table : BitVec 8) (pd pa pb pc : PReg)
  | p2v (h : Head) (vd : VReg)
  | v2p (h : Head) (mask : BitVec 7) (va : VReg)
  -- scalar (R347-R349)
  | sadd (h : Head) (sd sa : SReg) (op2 : ScalOp)
  | ssub (h : Head) (sd sa : SReg) (op2 : ScalOp)
  | smul (h : Head) (sd sa : SReg) (op2 : ScalOp)
  | sshl (h : Head) (sd sa : SReg) (op2 : ScalOp)
  | sshr (h : Head) (sd sa : SReg) (op2 : ScalOp)
  | sshrS (h : Head) (sd sa : SReg) (op2 : ScalOp)
  | sand (h : Head) (sd sa : SReg) (op2 : ScalOp)
  | sor (h : Head) (sd sa : SReg) (op2 : ScalOp)
  | sxor (h : Head) (sd sa : SReg) (op2 : ScalOp)
  | smov (h : Head) (sd sa : SReg)
  | smovi (h : Head) (sd : SReg) (imm : BitVec 21)
  | sli (h : Head) (sd sa : SReg) (imm : BitVec 21)
  | ssetp (h : Head) (cond : BitVec 4) (pd : PReg) (sa : SReg) (op2 : ScalOp)
  | s2v (h : Head) (part : BitVec 2) (vd : VReg) (sa : SReg)
  | vread (h : Head) (kind : BitVec 2) (sd : SReg) (va : VReg) (sa : SReg)
  -- floating point (R353-R359)
  | fadd (h : Head) (m : FpMod) (vd va vb : VReg)
  | fsub (h : Head) (m : FpMod) (vd va vb : VReg)
  | fmul (h : Head) (m : FpMod) (vd va vb : VReg)
  | ffma (h : Head) (m : FpMod) (vd va vb vc : VReg)
  | fmin (h : Head) (m : FpMod) (x : Bool) (vd va vb : VReg)
  | fmax (h : Head) (m : FpMod) (x : Bool) (vd va vb : VReg)
  | fround (h : Head) (m : FpMod) (x : Bool) (vd va : VReg)
  | fclass (h : Head) (ty : BitVec 2) (hi : Bool) (vd va : VReg)
  | frcp (h : Head) (ftz : Bool) (vd va : VReg)
  | frsq (h : Head) (ftz : Bool) (vd va : VReg)
  | fsqrt (h : Head) (rm : BitVec 2) (ftz : Bool) (vd va : VReg)
  | fex2 (h : Head) (ftz : Bool) (vd va : VReg)
  | flg2 (h : Head) (ftz : Bool) (vd va : VReg)
  | fsin (h : Head) (ftz : Bool) (vd va : VReg)
  | fcos (h : Head) (ftz : Bool) (vd va : VReg)
  | ftanh (h : Head) (ftz : Bool) (vd va : VReg)
  | padd2 (h : Head) (m : FpMod) (x : Bool) (vd va vb : VReg)
  | pmul2 (h : Head) (m : FpMod) (x : Bool) (vd va vb : VReg)
  | pfma2 (h : Head) (m : FpMod) (x : Bool) (vd va vb vc : VReg)
  | pdot2 (h : Head) (m : FpMod) (x : Bool) (vd va vb vc : VReg)
  | dadd (h : Head) (m : FpMod) (vd va vb : VReg)
  | dmul (h : Head) (m : FpMod) (vd va vb : VReg)
  | dfma (h : Head) (m : FpMod) (vd va vb vc : VReg)
  | dmin (h : Head) (m : FpMod) (x : Bool) (vd va vb : VReg)
  | dmax (h : Head) (m : FpMod) (x : Bool) (vd va vb : VReg)
  | drcpa (h : Head) (ftz : Bool) (vd va : VReg)
  -- conversions and block scaling (R361-R367)
  | cvtf (h : Head) (c : CvtFields) (vd va : VReg)
  | cvti (h : Head) (c : CvtFields) (vd va : VReg)
  | cvtif (h : Head) (c : CvtFields) (vd va : VReg)
  | mxpack (h : Head) (dpos : BitVec 3) (hi : Bool) (fslot : BitVec 3) (vd va vb : VReg)
  | mxunpack (h : Head) (fmt : BitVec 4) (rm : BitVec 2) (ftz : Bool) (spos : BitVec 3) (hi : Bool) (vd va vb : VReg)
  | fsetp (h : Head) (cond : BitVec 4) (ftz : Bool) (cmb : BitVec 2) (pd pc : PReg) (va vb : VReg)
  | dsetp (h : Head) (cond : BitVec 4) (ftz : Bool) (cmb : BitVec 2) (pd pc : PReg) (va vb : VReg)
  -- memory (R389-R403)
  | ld (h : Head) (vt : VReg) (m : MemFields)
  | st (h : Head) (vt : VReg) (m : MemFields)
  | ldp (h : Head) (vt : VReg) (m : MemFields)
  | atom (h : Head) (vt : VReg) (m : MemFields)
  | red (h : Head) (vt : VReg) (m : MemFields)
  | fenceAcq (h : Head) (scope : BitVec 3) (la : BitVec 4)
  | fenceRel (h : Head) (scope : BitVec 3) (la : BitVec 4)
  | fenceAr (h : Head) (scope : BitVec 3) (la : BitVec 4)
  | fenceFull (h : Head) (scope : BitVec 3) (la : BitVec 4)
  | prefetch (h : Head) (dc : Bool) (vo : VReg) (sb : SReg) (off : BitVec 14)
  | hflush (h : Head) (la : BitVec 4)
  -- copy and queue (R404-R408)
  | cp (h : Head) (db : Bool) (c : CopyFields)
  | cp2d (h : Head) (db : Bool) (c : CopyFields)
  | cpretile (h : Head) (c : CopyFields)
  | cpkey (h : Head) (c : CopyFields)
  | cpfill (h : Head) (db : Bool) (c : CopyFields)
  | cpbank (h : Head) (db : Bool) (c : CopyFields)
  | qpush (h : Head) (n : BitVec 2) (va : VReg) (rel : Bool) (scope : BitVec 3) (la : BitVec 4)
  | qpop (h : Head) (n : BitVec 2) (vd : VReg) (acq : Bool) (scope : BitVec 3) (la : BitVec 4)
  | qtryPush (h : Head) (n : BitVec 2) (pd : PReg) (va : VReg) (rel : Bool) (scope : BitVec 3) (la : BitVec 4)
  | qtryPop (h : Head) (n : BitVec 2) (pd : PReg) (vd : VReg) (acq : Bool) (scope : BitVec 3) (la : BitVec 4)
  | qstat (h : Head) (n : BitVec 2) (sd : SReg) (la : BitVec 4)
  -- control (R371-R377)
  | bra (h : Head) (hint : BitVec 2) (off : BitVec 24)
  | dbra (h : Head) (hint : BitVec 2) (va : VReg) (off : BitVec 24)
  | brx (h : Head) (hint : BitVec 2) (va : VReg)
  | call (h : Head) (hint : BitVec 2) (va : VReg) (off : BitVec 24)
  | callR (h : Head) (hint : BitVec 2) (va : VReg)
  | ret (h : Head) (hint : BitVec 2) (va : VReg)
  | exit (h : Head)
  | nop (h : Head)
  | sleep (h : Head) (imm : Word)
  | phase (h : Head) (id : BitVec 8) (imm : Word)
  -- exchange (R378-R382)
  | voteAll (h : Head) (ng : Bool) (pd pa : PReg)
  | voteAny (h : Head) (ng : Bool) (pd pa : PReg)
  | voteUni (h : Head) (ng : Bool) (pd pa : PReg)
  | ballot (h : Head) (ng : Bool) (vd : VReg) (pa : PReg)
  | xlaneLane (h : Head) (seg : BitVec 3) (vd va : VReg) (src : LaneOp)
  | xlaneRot (h : Head) (seg : BitVec 3) (vd va : VReg) (src : LaneOp)
  | xlaneXor (h : Head) (seg : BitVec 3) (vd va : VReg) (src : LaneOp)
  | xlaneRev (h : Head) (seg : BitVec 3) (vd va : VReg)
  | redq (h : Head) (op : BitVec 5) (rm : BitVec 2) (ftz : Bool) (vd va : VReg)
  | scanq (h : Head) (op : BitVec 5) (rm : BitVec 2) (ftz : Bool) (vd va : VReg)
  | matchSame (h : Head) (w : Bool) (pd : PReg) (va : VReg)
  | matchPeers (h : Head) (w : Bool) (vd va : VReg)
  | matchLead (h : Head) (w : Bool) (vd va : VReg)
  -- groups, barriers, blocks, special registers (R383-R387)
  | join (h : Head) (vd : VReg) (g : CountOp)
  | leave (h : Head) (vd : VReg) (g : CountOp)
  | gbar (h : Head) (vd : VReg) (g : CountOp)
  | pbar (h : Head) (vd : VReg) (id : BitVec 4) (sn : SReg)
  | regclaim (h : Head) (n : CountOp)
  | regrel (h : Head) (n : CountOp)
  | sget (h : Head) (sel : BitVec 4) (sc clr : Bool) (vd : VReg)
  -- banks (R409-R422)
  | bmode (h : Head) (bank : BitVec 4) (compute : Bool) (la : BitVec 4)
  | bclr (h : Head) (bank : BitVec 4) (what : BitVec 4) (la : BitVec 4)
  | bwait (h : Head) (bank : BitVec 4) (all : Bool) (la : BitVec 4)
  | bkey (h : Head) (bank : BitVec 4) (fslot : BitVec 3) (va : VReg) (kv : BitVec 4) (spos : BitVec 3) (blk : BitVec 5) (la : BitVec 4)
  | bkscale (h : Head) (bank : BitVec 4) (va : VReg) (kv : BitVec 4) (hi : Bool) (l0 b0 : BitVec 5) (la : BitVec 4)
  | bmvm (h : Head) (bank : BitVec 4) (fslot : BitVec 3) (kv : BitVec 4) (g0 ng1 : BitVec 3) (b0 nb1 : BitVec 5) (la : BitVec 4)
  | bexec (h : Head) (bank : BitVec 4) (cx : BitVec 6) (vd va vb : VReg) (la : BitVec 4)
  | bcw (h : Head) (bank : BitVec 4) (sa sb : SReg) (la : BitVec 4)
  | bct (h : Head) (bank : BitVec 4) (sa sb : SReg) (la : BitVec 4)
  | btw (h : Head) (bank : BitVec 4) (sa sb : SReg) (la : BitVec 4)
  | btt (h : Head) (bank : BitVec 4) (sa sb : SReg) (la : BitVec 4)
  | bcnt (h : Head) (bank : BitVec 4) (vd : VReg) (sa sb : SReg) (la : BitVec 4)
  | bfirst (h : Head) (bank : BitVec 4) (vd : VReg) (sa sb : SReg) (la : BitVec 4)
  | bacc (h : Head) (bank : BitVec 4) (fslot : BitVec 3) (vd : VReg) (w : BitVec 3) (clr : Bool) (la : BitVec 4)
  | bcodex (h : Head) (cx : BitVec 6) (sa sb : SReg) (la : BitVec 4)
  -- system and Binder (R423-R430)
  | sysrd (h : Head) (sd : SReg) (num : BitVec 12)
  | syswr (h : Head) (num : BitVec 12) (sa : SReg)
  | trap (h : Head) (imm : BitVec 16)
  | eret (h : Head)
  | eretNext (h : Head)
  | brk (h : Head) (imm : BitVec 16)
  | bunbind (h : Head)
  | bindnow (h : Head) (off : BitVec 21)
  -- device steps that carry an input of the host, the board, a link partner or another device
  | recoveryImage (service : Bool) (img : Image)
  | thermalThrottle (die mhz : Nat)
  | islandFreqChange (island mhz : Nat)
  | trustAlarm (kind : AlarmKind)
  | serviceReverify (img : Image)
  | versionAdvance (service : Bool) (sig : List Byte)
  | getCertificate (off len : Nat)
  | challenge (nonce : List Byte)
  | getMeasurements (idx : Nat)
  | spdmUnsupported (code : Nat)
  | softError (loc : ErrLoc) (correctable : Bool)
  | expanderFailure (port : Nat)
  | ack (link e : Nat)
  | nak (link e : Nat)
  | allow (link sid n : Nat)
  | retrainComplete (link : Nat) (lowOk highOk : Bool)
  | remoteRequest (r : RemoteReq)
  | errArrive (req status : Nat)
  | hostWindowWrite (off : Nat) (bytes : List Byte)
  | sweepWrite (v : Dword)
  | tlbinvPage (writer page ctx : Nat)
  | tlbinvAll (writer ctx : Nat)
  | leasecfgWrite (v : Dword)
  | registerWrite (off : Nat) (v : Dword)
  | migrationStart (eng ctx va : Nat) (leaf : Dword)
  | mdieRetire (m chans : Nat)
  | wayresWrite (die n ctx : Nat) (v : Dword)
  | racvaWrite (core : Nat) (v : Dword)
  | bindctlWrite (core : Nat) (v : Dword)
  | contextCreate (ctx : Nat) (v : Dword)
  | contextKill (ctx : Nat) (v : Dword)
  | contextConfig (ctx : Nat) (v : Dword)
  | notifyStore (ctx : Nat) (recptr argptr : Dword)
  | hnotify (ctx : Nat) (v : Dword)
  | query (ctx : Nat) (v : Dword)
  | presp (ctx : Nat) (v : Dword)
  | preemptRequest (src : PreemptSrc)
  | queueEnable (q : Nat) (v : Dword)
  | queueDisable (q : Nat) (v : Dword)
  -- device steps of the part itself: State.here names the unit
  | packageReset
  | hotReset
  | functionLevelReset
  | thermalTrip
  | islandPauseEnd
  | timeCompare
  | getVersion
  | getCapabilities
  | negotiateAlgorithms
  | getDigests
  | patrolScrub
  | flitSend
  | flitReceive
  | ackTimer
  | replayTimeout
  | retraining
  | bridgeReqTimeout
  | remoteReqTimeout
  | readHome
  | writeHome
  | wmaskHome
  | atomHome
  | redHome
  | dataArrive
  | doneArrive
  | walkComplete
  | sweep
  | tlbinvComplete
  | migrationSwitch
  | migrationTimeout
  | notifyWaitRelease
  | notifyEffect
  | hnotifyEffect
  | recordCheck
  | residencyCheck
  | pageRequestWrite
  | layoutCheck
  | launchRetire
  | groupPlace
  | dispatchSteal
  | reservation
  | collect
  | engineStopAck
  | drainComplete
  | saveComplete
  | restore
  | shareClearDone
  | blockClearDone
  | claimGrant
  | runArbitration
  | promotion
  | lateFault
  | launchFatal
  | phaseExpiry
  | sleepExpiry
  | pbarArrival
  | bankConversionStart
  | bankConversionComplete
  | bankItemBegin
  | passEnd
  | bexecStart
  | mpEnd
  | mpCap
  | bcodexAccept
  | codexWriteComplete
  | buildStart
  | buildComplete
  | folioResidency
  | folioIterationStart
  | folioIterationRetire
  | folioExit
  | sliceEnd
  | chunkStart
  | chunkComplete
  | engineSteal
  | commandComplete
  | queueSlotArrive
  | queueRefillComplete
  | arrivalTrigger
  | gwctReached
  | backInvalidateResponse
  | hostReadCompletion
  | stealComplete
  deriving DecidableEq, Repr

end Sys2Proof
end

