-- ==== Sys2Proof/WellFormed.lean ====
section
/-! DEFINITION. Which instruction words are legal by their own fields: items 3, 7 and 8 of R323.
Items 4 to 6 are Decode's; items 1, 2 and 9 depend on the state and are Machine's. -/

namespace Sys2Proof

/-- The common fields of an instruction word; a device step has none. -/
def Instr.head : Instr → Option Head
  | .iadd h .. | .isub h .. | .iaddx h .. | .imul h .. | .imulh h .. | .imad h .. | .imadw h ..
  | .imin h .. | .imax h .. | .iabs h .. | .and h .. | .or h .. | .xor h .. | .andn h .. | .orn h ..
  | .not h .. | .shl h .. | .shr h .. | .sar h .. | .rotl h .. | .popc h .. | .clz h .. | .ctz h ..
  | .brev h .. | .bfe h .. | .bfi h .. | .bytex h .. | .sel h .. | .mov h .. | .lea h ..
  | .iaddImm h .. | .isubImm h .. | .imulImm h .. | .iminImmS h .. | .iminImmU h .. | .imaxImmS h ..
  | .imaxImmU h .. | .andImm h .. | .orImm h .. | .xorImm h .. | .andnImm h .. | .ornImm h ..
  | .shlImm h .. | .shrImm h .. | .sarImm h .. | .rotlImm h .. | .movi h .. | .moviB64 h ..
  | .leaImm h .. | .leaWImm h .. | .isetp h .. | .isetpImm h .. | .plop h .. | .p2v h .. | .v2p h ..
  | .sadd h .. | .ssub h .. | .smul h .. | .sshl h .. | .sshr h .. | .sshrS h .. | .sand h ..
  | .sor h .. | .sxor h .. | .smov h .. | .smovi h .. | .sli h .. | .ssetp h .. | .s2v h ..
  | .vread h .. | .fadd h .. | .fsub h .. | .fmul h .. | .ffma h .. | .fmin h .. | .fmax h ..
  | .fround h .. | .fclass h .. | .frcp h .. | .frsq h .. | .fsqrt h .. | .fex2 h .. | .flg2 h ..
  | .fsin h .. | .fcos h .. | .ftanh h .. | .padd2 h .. | .pmul2 h .. | .pfma2 h .. | .pdot2 h ..
  | .dadd h .. | .dmul h .. | .dfma h .. | .dmin h .. | .dmax h .. | .drcpa h .. | .cvtf h ..
  | .cvti h .. | .cvtif h .. | .mxpack h .. | .mxunpack h .. | .fsetp h .. | .dsetp h ..
  | .ld h .. | .st h .. | .ldp h .. | .atom h .. | .red h .. | .fenceAcq h .. | .fenceRel h ..
  | .fenceAr h .. | .fenceFull h .. | .prefetch h .. | .hflush h .. | .cp h .. | .cp2d h ..
  | .cpretile h .. | .cpkey h .. | .cpfill h .. | .cpbank h .. | .qpush h .. | .qpop h ..
  | .qtryPush h .. | .qtryPop h .. | .qstat h .. | .bra h .. | .dbra h .. | .brx h .. | .call h ..
  | .callR h .. | .ret h .. | .exit h .. | .nop h .. | .sleep h .. | .phase h .. | .voteAll h ..
  | .voteAny h .. | .voteUni h .. | .ballot h .. | .xlaneLane h .. | .xlaneRot h .. | .xlaneXor h ..
  | .xlaneRev h .. | .redq h .. | .scanq h .. | .matchSame h .. | .matchPeers h .. | .matchLead h ..
  | .join h .. | .leave h .. | .gbar h .. | .pbar h .. | .regclaim h .. | .regrel h .. | .sget h ..
  | .bmode h .. | .bclr h .. | .bwait h .. | .bkey h .. | .bkscale h .. | .bmvm h .. | .bexec h ..
  | .bcw h .. | .bct h .. | .btw h .. | .btt h .. | .bcnt h .. | .bfirst h .. | .bacc h ..
  | .bcodex h .. | .sysrd h .. | .syswr h .. | .trap h .. | .eret h .. | .eretNext h .. | .brk h ..
  | .bunbind h .. | .bindnow h .. => some h
  | _ => none

/-- Whether a step is a word of the instruction set. -/
def Instr.isWord (i : Instr) : Bool := i.head.isSome

/-- Run-ending instructions (R314). -/
def Instr.runEnding : Instr → Bool
  | .bra .. | .dbra .. | .brx .. | .call .. | .callR .. | .ret .. | .exit .. | .eret ..
  | .eretNext .. | .sleep .. | .join .. | .gbar .. | .pbar .. | .regclaim .. | .qpush .. | .qpop .. => true
  | _ => false

/-- First register of a pair (R319). -/
def even (r : VReg) : Bool := r.toNat % 2 == 0

/-- Bits of an element format code (Table 13.1); 0 for a code that is no format. -/
def fmtBits (ef : Nat) : Nat :=
  if ef = 4 then 4 else if ef = 0 ∨ ef = 9 ∨ ef = 2 ∨ ef = 3 then 8
  else if ef = 5 ∨ ef = 6 then 16 else if ef = 7 then 32 else if ef = 8 then 64 else 0

/-- The float formats a conversion may name: EF codes 2-8 (Table 16.8). -/
def isFloatFmt (ef : Nat) : Bool := decide (2 ≤ ef) && decide (ef ≤ 8)

/-- Bits of an integer type code (Table 16.8). -/
def intBits (it : Nat) : Nat := if it < 2 then 8 else if it < 4 then 16 else if it < 6 then 32 else 64

/-- Position limits of R361. -/
def posOk (bits pos : Nat) : Bool :=
  if bits = 4 then decide (pos < 8) else if bits = 8 then decide (pos < 4)
  else if bits = 16 then decide (pos < 2) else pos == 0

/-- A register that holds a value of `bits` bits: the first of a pair for 64. -/
def regOk (bits : Nat) (r : VReg) : Bool := bits != 64 || even r

/-- Bytes of a size code (Table 14.3). -/
def sizeBytes (c : Nat) : Nat :=
  if c = 0 ∨ c = 6 then 1 else if c = 1 ∨ c = 7 then 2 else if c = 2 then 4 else if c = 3 then 8
  else if c = 4 then 16 else 32

/-- Alignment of a register group that holds `n` bytes (R319). -/
def groupOk (n : Nat) (r : VReg) : Bool := r.toNat % (if n ≤ 4 then 1 else n / 4) == 0

/-- Scope codes 0-4, and 0 when there is no order (R193, R389). -/
def scopeOk (ordered : Bool) (scope : BitVec 3) : Bool :=
  decide (scope.toNat ≤ 4) && (ordered || scope == 0)

/-- Table 18.4: which sizes an operation takes. -/
def aopSizeOk (aop size : Nat) : Bool :=
  if aop ≤ 7 then size == 2 || size == 3
  else if aop = 8 ∨ aop = 9 then size == 2 || size == 3 || size == 4
  else if aop = 0x0A ∨ aop = 0x0C ∨ aop = 0x0D then size == 2 || size == 3
  else if aop = 0x0B then size == 2 else false

/-- Operation of an atomic: OFF14[13:8] (Table 18.1). -/
def MemFields.aop (m : MemFields) : Nat := (m.off.extractLsb' 8 6).toNat

/-- Bytes of registers an atomic takes from VT (R399). -/
def MemFields.atomRegBytes (m : MemFields) : Nat :=
  sizeBytes m.size.toNat * (if m.aop = 9 then 2 else 1)

/-- System registers of Table 19.6. -/
def sysListed (n : Nat) : Bool :=
  decide (n ≤ 6) || (decide (0x10 ≤ n) && decide (n ≤ 0x17)) || (decide (0x100 ≤ n) && decide (n ≤ 0x107))

/-- Special registers whose vector destination is a pair (Table 17.6). -/
def sgetPair (sel : Nat) : Bool := sel == 0 || sel == 7 || sel == 8 || sel == 9 || sel == 10 || sel == 12

/-- Special registers that `sget.s` may read (Table 17.6). -/
def sgetScalarOk (sel : Nat) : Bool := (decide (2 ≤ sel) && decide (sel ≤ 7)) || sel == 12

/-- Combine field of the compares (R344). -/
def cmbOk (cmb : BitVec 2) (pc : PReg) : Bool := cmb != 3 && (cmb != 0 || pc == 0)

/-- Fields of a load, store or `ldp`: space, order, scope and the register group (Table 18.1). -/
def memOk (vt : VReg) (m : MemFields) (maxSize : Nat) (orders : List (BitVec 2)) : Bool :=
  decide (m.space.toNat ≤ 3) && decide (m.size.toNat ≤ maxSize) && orders.contains m.order
    && scopeOk (m.order != 0) m.scope && groupOk (sizeBytes m.size.toNat) vt

/-- Fields of `atom` and `red` (Tables 18.1 and 18.4, R399). -/
def atomOk (vt : VReg) (m : MemFields) (orders : List (BitVec 2)) : Bool :=
  decide (m.space.toNat ≤ 3) && aopSizeOk m.aop m.size.toNat && orders.contains m.order
    && scopeOk (m.order != 0) m.scope && groupOk m.atomRegBytes vt

/-- Flags and scope of a copy (R404). -/
def copyOk (c : CopyFields) : Bool := scopeOk (c.acq || c.rel) c.scope

/-- Registers and modifiers of a three-register FP64 instruction (R351). -/
def pairs3 (a b c : VReg) : Bool := even a && even b && even c

/-- Item 7 of R323: the restrictions each description puts on its field values. -/
def Instr.fieldsOk : Instr → Bool
  | .iaddx _ ci pci .. => ci || pci == 0
  | .imadw _ _ vd _ _ vc => even vd && even vc
  | .mov _ w vd va => !w || (even vd && even va)
  | .lea _ w sg _ vd va _ => if w then even vd && even va else !sg
  | .moviB64 _ vd _ => even vd
  | .leaWImm _ vd va _ => even vd && even va
  | .isetp _ cond _ w cmb _ pc va vb =>
    decide (cond.toNat < 6) && cmbOk cmb pc && (!w || (even va && even vb))
  | .ssetp _ cond .. => decide (cond.toNat < 10)
  | .s2v _ part vd _ => part != 3 && (part != 2 || even vd)
  | .vread _ kind _ va _ => kind != 3 && (kind != 2 || even va)
  | .fadd _ m .. | .fsub _ m .. | .fmul _ m .. | .padd2 _ m .. | .pmul2 _ m .. => !m.nc
  | .fmin _ m .. | .fmax _ m .. => m.rm == 0 && !m.nc
  | .fround _ m .. => !m.na && !m.nb && !m.nc
  | .fclass _ ty hi _ va => (decide (2 ≤ ty.toNat) || !hi) && (ty != 1 || even va)
  | .dadd _ m vd va vb | .dmul _ m vd va vb => !m.nc && pairs3 vd va vb
  | .dfma _ _ vd va vb vc => pairs3 vd va vb && even vc
  | .dmin _ m _ vd va vb | .dmax _ m _ vd va vb => m.rm == 0 && !m.nc && pairs3 vd va vb
  | .drcpa _ _ vd va => even vd && even va
  | .cvtf _ c vd va =>
    isFloatFmt c.ff.toNat && isFloatFmt c.sel.toNat && posOk (fmtBits c.sel.toNat) c.spos.toNat
      && posOk (fmtBits c.ff.toNat) c.dpos.toNat && regOk (fmtBits c.ff.toNat) vd
      && regOk (fmtBits c.sel.toNat) va && (if c.fs then c.rm == 0 && !c.sat else c.fslot == 0)
  | .cvti _ c vd va =>
    isFloatFmt c.ff.toNat && decide (c.sel.toNat < 8) && !c.sat && posOk (fmtBits c.ff.toNat) c.spos.toNat
      && posOk (intBits c.sel.toNat) c.dpos.toNat && regOk (intBits c.sel.toNat) vd
      && regOk (fmtBits c.ff.toNat) va && (if c.fs then c.rm == 0 else c.fslot == 0)
  | .cvtif _ c vd va =>
    isFloatFmt c.ff.toNat && decide (c.sel.toNat < 8) && posOk (intBits c.sel.toNat) c.spos.toNat
      && posOk (fmtBits c.ff.toNat) c.dpos.toNat && regOk (fmtBits c.ff.toNat) vd
      && regOk (intBits c.sel.toNat) va && (if c.fs then c.rm == 0 && !c.sat else c.fslot == 0)
  | .mxunpack _ fmt _ _ spos .. =>
    (fmt == 0 || fmt == 2 || fmt == 3 || fmt == 4) && posOk (fmtBits fmt.toNat) spos.toNat
  | .fsetp _ cond _ cmb _ pc .. => decide (cond.toNat < 12) && cmbOk cmb pc
  | .dsetp _ cond _ cmb _ pc va vb => decide (cond.toNat < 12) && cmbOk cmb pc && even va && even vb
  | .ld _ vt m => memOk vt m 7 [0, 1]
  | .st _ vt m => memOk vt m 5 [0, 2]
  | .ldp _ vt m => m.space == 0 && memOk vt m 7 [0] && decide (m.sb.toNat < 4)
  | .atom _ vt m => atomOk vt m [0, 1, 2, 3]
  | .red _ vt m => atomOk vt m [0, 2] && m.aop != 8 && m.aop != 9
  | .fenceAcq _ scope _ | .fenceRel _ scope _ | .fenceAr _ scope _ | .fenceFull _ scope _ => scopeOk true scope
  | .cp _ _ c | .cpfill _ _ c | .cpbank _ _ c => copyOk c && c.fslot == 0
  | .cp2d _ _ c => copyOk c && c.fslot == 0 && c.sl != 0 && c.sl != 63
  | .cpretile _ c | .cpkey _ c => copyOk c
  | .qpush _ _ _ f scope _ | .qpop _ _ _ f scope _ => scopeOk f scope
  | .qtryPush _ _ _ _ f scope _ | .qtryPop _ _ _ _ f scope _ => scopeOk f scope
  | .brx _ _ va | .call _ _ va _ | .callR _ _ va | .ret _ _ va => even va
  | .xlaneLane _ seg .. | .xlaneRot _ seg .. | .xlaneXor _ seg .. | .xlaneRev _ seg .. => decide (seg.toNat ≤ 5)
  | .redq _ op rm ftz .. | .scanq _ op rm ftz .. =>
    decide (op.toNat ≤ 11) && (op == 9 || rm == 0) && (decide (9 ≤ op.toNat) || !ftz)
  | .matchSame _ w _ va | .matchPeers _ w _ va | .matchLead _ w _ va => !w || even va
  | .sget _ k s clr vd =>
    decide (k.toNat ≤ 12) && (!clr || (k == 11 && !s))
      && (if s then sgetScalarOk k.toNat && decide (vd.toNat < 64) else !sgetPair k.toNat || even vd)
  | .bclr _ _ what _ => what != 0
  | .bwait _ bank all _ => !all || bank == 0
  | .bkscale _ _ _ kv .. => decide (kv.toNat ≤ 11)
  | .bmvm _ _ _ _ g0 ng1 b0 nb1 _ =>
    decide (g0.toNat + ng1.toNat + 1 ≤ 8) && decide (b0.toNat + nb1.toNat + 1 ≤ 32)
  | .bexec _ _ _ _ _ vb _ => vb == 255 || even vb
  | .bacc _ _ _ _ w .. => decide (w.toNat ≤ 5)
  | .bcodex _ cx .. => decide (32 ≤ cx.toNat)
  | .sysrd _ _ n => sysListed n.toNat
  | .syswr _ n _ => sysListed n.toNat
  | _ => true

/-- Legal by its own fields: R323 items 3, 7 and 8. A device step has no encoding and no such rule. -/
def Instr.wf (i : Instr) : Bool :=
  match i.head with
  | none => true
  | some h => !(h.gn && h.gp == 7) && i.fieldsOk && (!i.runEnding || h.b)

end Sys2Proof
end

