-- ==== Sys2Proof/Decode.lean ====
section
/-! DEFINITION. Instruction words: the seven formats (Table 14.2), the opcode map (Table 14.6) and the
sub-functions of each opcode; a total decoder that rejects by name, and after it the encoder. -/

namespace Sys2Proof

/-- Why bits are no instruction: items 4 to 8 of R323, and too few bytes. -/
inductive DecodeError where
  | tooShort
  | reservedOpcode
  | reservedFunction
  | nonzeroReserved
  | badValue
  deriving DecidableEq, Repr, Inhabited

/-- Format A. -/
structure FmtA where
  vd : BitVec 8
  va : BitVec 8
  vb : BitVec 8
  vc : BitVec 8
  fn : BitVec 11
  mod : BitVec 8
  deriving DecidableEq, Repr

/-- Format I. -/
structure FmtI where
  vd : BitVec 8
  va : BitVec 8
  fn : BitVec 3
  imm : BitVec 32
  deriving DecidableEq, Repr

/-- Format M. -/
structure FmtM where
  vt : BitVec 8
  m : MemFields
  deriving DecidableEq, Repr

/-- Format B; the reserved field stands as a field so that it can be checked. -/
structure FmtB where
  hint : BitVec 2
  fn : BitVec 4
  va : BitVec 8
  rsvd : BitVec 13
  off : BitVec 24
  deriving DecidableEq, Repr

/-- Format K. -/
structure FmtK where
  bank : BitVec 4
  fslot : BitVec 3
  va : BitVec 8
  vb : BitVec 8
  vd : BitVec 8
  p8 : BitVec 8
  la : BitVec 4
  fn : BitVec 8
  deriving DecidableEq, Repr

/-- Format C. -/
structure FmtC where
  c : CopyFields
  fn : BitVec 5
  imm : BitVec 8
  rsvd : BitVec 2
  deriving DecidableEq, Repr

/-- Format S. -/
structure FmtS where
  sd : BitVec 6
  sa : BitVec 6
  sb : BitVec 6
  sys : BitVec 12
  fnimm : BitVec 21
  deriving DecidableEq, Repr

/-- Bits [50:0] of a word. -/
inductive Body where
  | a (f : FmtA)
  | i (f : FmtI)
  | m (f : FmtM)
  | b (f : FmtB)
  | k (f : FmtK)
  | c (f : FmtC)
  | s (f : FmtS)
  deriving DecidableEq, Repr

/-- Fields of `w` by position. -/
def FmtA.unpack (w : BitVec 51) : FmtA :=
  { vd := w.extractLsb' 43 8, va := w.extractLsb' 35 8, vb := w.extractLsb' 27 8,
    vc := w.extractLsb' 19 8, fn := w.extractLsb' 8 11, mod := w.extractLsb' 0 8 }
/-- Table 14.2, format A. -/
def FmtA.pack (f : FmtA) : BitVec 51 := f.vd ++ f.va ++ f.vb ++ f.vc ++ f.fn ++ f.mod

/-- Fields of `w` by position. -/
def FmtI.unpack (w : BitVec 51) : FmtI :=
  { vd := w.extractLsb' 43 8, va := w.extractLsb' 35 8, fn := w.extractLsb' 32 3,
    imm := w.extractLsb' 0 32 }
/-- Table 14.2, format I. -/
def FmtI.pack (f : FmtI) : BitVec 51 := f.vd ++ f.va ++ f.fn ++ f.imm

/-- Fields of `w` by position. -/
def FmtM.unpack (w : BitVec 51) : FmtM :=
  { vt := w.extractLsb' 43 8,
    m := { vo := w.extractLsb' 35 8, sb := w.extractLsb' 29 6, size := w.extractLsb' 26 3,
           space := w.extractLsb' 23 3, order := w.extractLsb' 21 2, scope := w.extractLsb' 18 3,
           la := w.extractLsb' 14 4, off := w.extractLsb' 0 14 } }
/-- Table 14.2, format M. -/
def FmtM.pack (f : FmtM) : BitVec 51 :=
  f.vt ++ f.m.vo ++ f.m.sb ++ f.m.size ++ f.m.space ++ f.m.order ++ f.m.scope ++ f.m.la ++ f.m.off

/-- Fields of `w` by position. -/
def FmtB.unpack (w : BitVec 51) : FmtB :=
  { hint := w.extractLsb' 49 2, fn := w.extractLsb' 45 4, va := w.extractLsb' 37 8,
    rsvd := w.extractLsb' 24 13, off := w.extractLsb' 0 24 }
/-- Table 14.2, format B. -/
def FmtB.pack (f : FmtB) : BitVec 51 := f.hint ++ f.fn ++ f.va ++ f.rsvd ++ f.off

/-- Fields of `w` by position. -/
def FmtK.unpack (w : BitVec 51) : FmtK :=
  { bank := w.extractLsb' 47 4, fslot := w.extractLsb' 44 3, va := w.extractLsb' 36 8,
    vb := w.extractLsb' 28 8, vd := w.extractLsb' 20 8, p8 := w.extractLsb' 12 8,
    la := w.extractLsb' 8 4, fn := w.extractLsb' 0 8 }
/-- Table 14.2, format K. -/
def FmtK.pack (f : FmtK) : BitVec 51 :=
  f.bank ++ f.fslot ++ f.va ++ f.vb ++ f.vd ++ f.p8 ++ f.la ++ f.fn

/-- Fields of `w` by position. -/
def FmtC.unpack (w : BitVec 51) : FmtC :=
  { c := { vs := w.extractLsb' 45 6, sa := w.extractLsb' 39 6, sd := w.extractLsb' 33 6,
           sl := w.extractLsb' 27 6, fslot := w.extractLsb' 24 3, acq := w.getLsbD 23,
           rel := w.getLsbD 22, scope := w.extractLsb' 19 3, la := w.extractLsb' 15 4 },
    fn := w.extractLsb' 10 5, imm := w.extractLsb' 2 8, rsvd := w.extractLsb' 0 2 }
/-- Table 14.2, format C. -/
def FmtC.pack (f : FmtC) : BitVec 51 :=
  f.c.vs ++ f.c.sa ++ f.c.sd ++ f.c.sl ++ f.c.fslot ++ BitVec.ofBool f.c.acq ++ BitVec.ofBool f.c.rel
    ++ f.c.scope ++ f.c.la ++ f.fn ++ f.imm ++ f.rsvd

/-- Fields of `w` by position. -/
def FmtS.unpack (w : BitVec 51) : FmtS :=
  { sd := w.extractLsb' 45 6, sa := w.extractLsb' 39 6, sb := w.extractLsb' 33 6,
    sys := w.extractLsb' 21 12, fnimm := w.extractLsb' 0 21 }
/-- Table 14.2, format S. -/
def FmtS.pack (f : FmtS) : BitVec 51 := f.sd ++ f.sa ++ f.sb ++ f.sys ++ f.fnimm

/-- Bits [50:0] of a word, by format. -/
def Body.pack : Body → BitVec 51
  | .a f => f.pack
  | .i f => f.pack
  | .m f => f.pack
  | .b f => f.pack
  | .k f => f.pack
  | .c f => f.pack
  | .s f => f.pack

/-- A predicate in a register field (R319). -/
def fromP (p : PReg) : BitVec 8 := 0#5 ++ p
/-- A scalar register in a register field (R319). -/
def fromS (s : SReg) : BitVec 8 := 0#2 ++ s
/-- The predicate a register field names. -/
def toP (x : BitVec 8) : PReg := x.extractLsb' 0 3
/-- The scalar register a register field names. -/
def toS (x : BitVec 8) : SReg := x.extractLsb' 0 6

/-- A.MOD of the arithmetic opcodes (Table 16.1). -/
def FpMod.bits (m : FpMod) (x : Bool) : BitVec 8 :=
  BitVec.ofBool m.nc ++ BitVec.ofBool m.nb ++ BitVec.ofBool m.na ++ BitVec.ofBool x ++ 0#1
    ++ BitVec.ofBool m.ftz ++ m.rm
/-- The modifiers in A.MOD (Table 16.1). -/
def FpMod.ofBits (x : BitVec 8) : FpMod :=
  { rm := x.extractLsb' 0 2, ftz := x.getLsbD 2, na := x.getLsbD 5, nb := x.getLsbD 6, nc := x.getLsbD 7 }

/-- A.FN of the conversions (Table 16.8). -/
def CvtFields.fn (c : CvtFields) : BitVec 11 := c.spos ++ c.sel ++ c.ff
/-- A.MOD of the conversions (Table 16.8). -/
def CvtFields.mod (c : CvtFields) : BitVec 8 :=
  BitVec.ofBool c.fs ++ c.dpos ++ BitVec.ofBool c.sat ++ BitVec.ofBool c.ftz ++ c.rm
/-- The conversion fields in A.FN, A.MOD and A.VC (Table 16.8). -/
def CvtFields.ofFmt (f : FmtA) : CvtFields :=
  { ff := f.fn.extractLsb' 0 4, sel := f.fn.extractLsb' 4 4, spos := f.fn.extractLsb' 8 3,
    rm := f.mod.extractLsb' 0 2, ftz := f.mod.getLsbD 2, sat := f.mod.getLsbD 3,
    dpos := f.mod.extractLsb' 4 3, fs := f.mod.getLsbD 7, fslot := f.vc.extractLsb' 0 3 }

/-- S.SYSREG of a scalar instruction: IMM and SFN[10:0] (R322). -/
def ScalOp.sfn (o : ScalOp) (fn : BitVec 11) : BitVec 12 :=
  match o with
  | .reg _ => 0#1 ++ fn
  | .imm _ => 1#1 ++ fn
/-- S.SB of a second operand. -/
def ScalOp.sb : ScalOp → BitVec 6
  | .reg r => r
  | .imm _ => 0
/-- S.FNIMM of a second operand. -/
def ScalOp.imm21 : ScalOp → BitVec 21
  | .reg _ => 0
  | .imm i => i
/-- The second operand of a scalar word (R322). -/
def ScalOp.ofFmt (f : FmtS) : ScalOp := if f.sys.getLsbD 11 then .imm f.fnimm else .reg f.sb

/-- VB and MOD of `xlane` (Table 17.2). -/
def LaneOp.vb : LaneOp → BitVec 8
  | .reg r => r
  | .imm _ => 0
/-- MOD of `xlane` (Table 17.2). -/
def LaneOp.mod : LaneOp → BitVec 8
  | .reg _ => 0
  | .imm n => 4#3 ++ n
/-- The lane operand of `xlane`. -/
def LaneOp.ofFmt (f : FmtA) : LaneOp := if f.mod.getLsbD 7 then .imm (f.mod.extractLsb' 0 5) else .reg f.vb

/-- VA of a number operand (R383). -/
def CountOp.va : CountOp → BitVec 8
  | .reg r => fromS r
  | .imm _ => 0
/-- MOD of a number operand (R383). -/
def CountOp.mod : CountOp → BitVec 8
  | .reg _ => 0
  | .imm n => 2#2 ++ n
/-- The number operand of a group or block word (R383). -/
def CountOp.ofFmt (f : FmtA) : CountOp :=
  if f.mod.getLsbD 7 then .imm (f.mod.extractLsb' 0 6) else .reg (toS f.va)

/-- Format A instructions by opcode and sub-function. -/
def ofA (h : Head) (op : Nat) (f : FmtA) : Option Instr :=
  let m := f.mod
  let fm := FpMod.ofBits m
  let x := m.getLsbD 4
  match op, f.fn.toNat with
  | 0x00, 0 => some (.iadd h (m.getLsbD 0) (m.getLsbD 1) f.vd f.va f.vb)
  | 0x00, 1 => some (.isub h (m.getLsbD 0) (m.getLsbD 1) f.vd f.va f.vb)
  | 0x00, 2 => some (.iaddx h (m.getLsbD 3) (toP f.vc) (m.extractLsb' 4 3) f.vd f.va f.vb)
  | 0x01, 0 => some (.imul h f.vd f.va f.vb)
  | 0x01, 1 => some (.imulh h (m.getLsbD 0) f.vd f.va f.vb)
  | 0x02, 0 => some (.imad h f.vd f.va f.vb f.vc)
  | 0x02, 1 => some (.imadw h (m.getLsbD 0) f.vd f.va f.vb f.vc)
  | 0x03, 0 => some (.imin h (m.getLsbD 0) f.vd f.va f.vb)
  | 0x03, 1 => some (.imax h (m.getLsbD 0) f.vd f.va f.vb)
  | 0x03, 2 => some (.iabs h (m.getLsbD 1) f.vd f.va)
  | 0x04, 0 => some (.and h f.vd f.va f.vb)
  | 0x04, 1 => some (.or h f.vd f.va f.vb)
  | 0x04, 2 => some (.xor h f.vd f.va f.vb)
  | 0x04, 3 => some (.andn h f.vd f.va f.vb)
  | 0x04, 4 => some (.orn h f.vd f.va f.vb)
  | 0x04, 5 => some (.not h f.vd f.va)
  | 0x05, 0 => some (.shl h f.vd f.va f.vb)
  | 0x05, 1 => some (.shr h f.vd f.va f.vb)
  | 0x05, 2 => some (.sar h f.vd f.va f.vb)
  | 0x05, 3 => some (.rotl h f.vd f.va f.vb)
  | 0x06, 0 => some (.popc h f.vd f.va)
  | 0x06, 1 => some (.clz h f.vd f.va)
  | 0x06, 2 => some (.ctz h f.vd f.va)
  | 0x06, 3 => some (.brev h f.vd f.va)
  | 0x07, 0 => some (.bfe h (m.getLsbD 0) f.vd f.va f.vb)
  | 0x07, 1 => some (.bfi h f.vd f.va f.vb f.vc)
  | 0x08, 0 => some (.bytex h f.vd f.va f.vb f.vc)
  | 0x09, 0 => some (.sel h (m.getLsbD 0) f.vd (toP f.vc) f.va f.vb)
  | 0x0A, 0 => some (.mov h (m.getLsbD 3) f.vd f.va)
  | 0x0B, 0 => some (.lea h (m.getLsbD 3) (m.getLsbD 4) (m.extractLsb' 0 3) f.vd f.va f.vb)
  | 0x20, 0 => some (.fadd h fm f.vd f.va f.vb)
  | 0x20, 1 => some (.fsub h fm f.vd f.va f.vb)
  | 0x21, 0 => some (.fmul h fm f.vd f.va f.vb)
  | 0x22, 0 => some (.ffma h fm f.vd f.va f.vb f.vc)
  | 0x23, 0 => some (.fmin h fm x f.vd f.va f.vb)
  | 0x23, 1 => some (.fmax h fm x f.vd f.va f.vb)
  | 0x24, 0 => some (.fround h fm x f.vd f.va)
  | 0x25, 0 => some (.fclass h (m.extractLsb' 4 2) (m.getLsbD 6) f.vd f.va)
  | 0x26, 0 => some (.frcp h (m.getLsbD 2) f.vd f.va)
  | 0x26, 1 => some (.frsq h (m.getLsbD 2) f.vd f.va)
  | 0x26, 2 => some (.fsqrt h (m.extractLsb' 0 2) (m.getLsbD 2) f.vd f.va)
  | 0x26, 3 => some (.fex2 h (m.getLsbD 2) f.vd f.va)
  | 0x26, 4 => some (.flg2 h (m.getLsbD 2) f.vd f.va)
  | 0x26, 5 => some (.fsin h (m.getLsbD 2) f.vd f.va)
  | 0x26, 6 => some (.fcos h (m.getLsbD 2) f.vd f.va)
  | 0x26, 7 => some (.ftanh h (m.getLsbD 2) f.vd f.va)
  | 0x27, 0 => some (.padd2 h fm x f.vd f.va f.vb)
  | 0x27, 1 => some (.pmul2 h fm x f.vd f.va f.vb)
  | 0x27, 2 => some (.pfma2 h fm x f.vd f.va f.vb f.vc)
  | 0x27, 3 => some (.pdot2 h fm x f.vd f.va f.vb f.vc)
  | 0x28, 0 => some (.dadd h fm f.vd f.va f.vb)
  | 0x29, 0 => some (.dmul h fm f.vd f.va f.vb)
  | 0x2A, 0 => some (.dfma h fm f.vd f.va f.vb f.vc)
  | 0x2B, 0 => some (.dmin h fm x f.vd f.va f.vb)
  | 0x2B, 1 => some (.dmax h fm x f.vd f.va f.vb)
  | 0x2C, 0 => some (.drcpa h (m.getLsbD 2) f.vd f.va)
  | 0x30, _ => some (.cvtf h (CvtFields.ofFmt f) f.vd f.va)
  | 0x31, _ => some (.cvti h (CvtFields.ofFmt f) f.vd f.va)
  | 0x32, _ => some (.cvtif h (CvtFields.ofFmt f) f.vd f.va)
  | 0x33, 0 => some (.mxpack h (m.extractLsb' 4 3) (m.getLsbD 7) (f.vc.extractLsb' 0 3) f.vd f.va f.vb)
  | 0x34, _ => some (.mxunpack h (f.fn.extractLsb' 0 4) (m.extractLsb' 0 2) (m.getLsbD 2)
      (f.fn.extractLsb' 8 3) (m.getLsbD 7) f.vd f.va f.vb)
  | 0x38, n => if n < 6 then some (.isetp h (f.fn.extractLsb' 0 3) (m.getLsbD 0) (m.getLsbD 3)
      (m.extractLsb' 4 2) (toP f.vd) (toP f.vc) f.va f.vb) else none
  | 0x3A, n => if n < 12 then some (.fsetp h (f.fn.extractLsb' 0 4) (m.getLsbD 2) (m.extractLsb' 4 2)
      (toP f.vd) (toP f.vc) f.va f.vb) else none
  | 0x3B, n => if n < 12 then some (.dsetp h (f.fn.extractLsb' 0 4) (m.getLsbD 2) (m.extractLsb' 4 2)
      (toP f.vd) (toP f.vc) f.va f.vb) else none
  | 0x3C, 0 => some (.plop h m (toP f.vd) (toP f.va) (toP f.vb) (toP f.vc))
  | 0x3D, 0 => some (.p2v h f.vd)
  | 0x3E, 0 => some (.v2p h (m.extractLsb' 0 7) f.va)
  | 0x60, 0 => some (.voteAll h (m.getLsbD 0) (toP f.vd) (toP f.va))
  | 0x60, 1 => some (.voteAny h (m.getLsbD 0) (toP f.vd) (toP f.va))
  | 0x60, 2 => some (.voteUni h (m.getLsbD 0) (toP f.vd) (toP f.va))
  | 0x60, 3 => some (.ballot h (m.getLsbD 0) f.vd (toP f.va))
  | 0x61, 0 => some (.xlaneLane h (toP f.vc) f.vd f.va (LaneOp.ofFmt f))
  | 0x61, 1 => some (.xlaneRot h (toP f.vc) f.vd f.va (LaneOp.ofFmt f))
  | 0x61, 2 => some (.xlaneXor h (toP f.vc) f.vd f.va (LaneOp.ofFmt f))
  | 0x61, 3 => some (.xlaneRev h (toP f.vc) f.vd f.va)
  | 0x62, n => if n % 32 < 12 ∧ n < 64 then
      (if f.fn.getLsbD 5 then some (.scanq h (f.fn.extractLsb' 0 5) (m.extractLsb' 0 2) (m.getLsbD 2) f.vd f.va)
       else some (.redq h (f.fn.extractLsb' 0 5) (m.extractLsb' 0 2) (m.getLsbD 2) f.vd f.va)) else none
  | 0x63, 0 => some (.matchSame h (m.getLsbD 3) (toP f.vd) f.va)
  | 0x63, 1 => some (.matchPeers h (m.getLsbD 3) f.vd f.va)
  | 0x63, 2 => some (.matchLead h (m.getLsbD 3) f.vd f.va)
  | 0x64, 0 => some (.join h f.vd (CountOp.ofFmt f))
  | 0x64, 1 => some (.leave h f.vd (CountOp.ofFmt f))
  | 0x65, 0 => some (.gbar h f.vd (CountOp.ofFmt f))
  | 0x65, 1 => some (.pbar h f.vd (m.extractLsb' 0 4) (toS f.va))
  | 0x66, 0 => some (.regclaim h (CountOp.ofFmt f))
  | 0x66, 1 => some (.regrel h (CountOp.ofFmt f))
  | 0x67, n => if n < 13 then some (.sget h (f.fn.extractLsb' 0 4) (m.getLsbD 0) (m.getLsbD 1) f.vd) else none
  | _, _ => none

/-- Format I instructions by opcode and sub-function. -/
def ofI (h : Head) (op : Nat) (f : FmtI) : Option Instr :=
  match op, f.fn.toNat with
  | 0x10, 0 => some (.iaddImm h f.vd f.va f.imm)
  | 0x10, 1 => some (.isubImm h f.vd f.va f.imm)
  | 0x10, 2 => some (.imulImm h f.vd f.va f.imm)
  | 0x10, 3 => some (.iminImmS h f.vd f.va f.imm)
  | 0x10, 4 => some (.iminImmU h f.vd f.va f.imm)
  | 0x10, 5 => some (.imaxImmS h f.vd f.va f.imm)
  | 0x10, 6 => some (.imaxImmU h f.vd f.va f.imm)
  | 0x11, 0 => some (.andImm h f.vd f.va f.imm)
  | 0x11, 1 => some (.orImm h f.vd f.va f.imm)
  | 0x11, 2 => some (.xorImm h f.vd f.va f.imm)
  | 0x11, 3 => some (.andnImm h f.vd f.va f.imm)
  | 0x11, 4 => some (.ornImm h f.vd f.va f.imm)
  | 0x12, 0 => some (.shlImm h f.vd f.va f.imm)
  | 0x12, 1 => some (.shrImm h f.vd f.va f.imm)
  | 0x12, 2 => some (.sarImm h f.vd f.va f.imm)
  | 0x12, 3 => some (.rotlImm h f.vd f.va f.imm)
  | 0x13, 0 => some (.movi h f.vd f.imm)
  | 0x13, 1 => some (.moviB64 h f.vd f.imm)
  | 0x14, 0 => some (.leaImm h f.vd f.va f.imm)
  | 0x14, 1 => some (.leaWImm h f.vd f.va f.imm)
  | 0x39, _ => some (.isetpImm h f.fn (toP f.vd) f.va f.imm)
  | 0x5F, 0 => some (.sleep h f.imm)
  | 0x5F, 1 => some (.phase h f.vd f.imm)
  | _, _ => none

/-- Format M instructions by opcode; `fence` by ORDER and SIZE (R401). -/
def ofM (h : Head) (op : Nat) (f : FmtM) : Option Instr :=
  match op with
  | 0x40 => some (.ld h f.vt f.m)
  | 0x41 => some (.st h f.vt f.m)
  | 0x42 => some (.ldp h f.vt f.m)
  | 0x43 => some (.atom h f.vt f.m)
  | 0x44 => some (.red h f.vt f.m)
  | 0x45 =>
    match f.m.order.toNat, f.m.size.toNat with
    | 1, _ => some (.fenceAcq h f.m.scope f.m.la)
    | 2, _ => some (.fenceRel h f.m.scope f.m.la)
    | 3, 0 => some (.fenceAr h f.m.scope f.m.la)
    | 3, 1 => some (.fenceFull h f.m.scope f.m.la)
    | _, _ => none
  | 0x46 => some (.prefetch h (f.m.size == 1) f.m.vo f.m.sb f.m.off)
  | 0x47 => some (.hflush h f.m.la)
  | _ => none

/-- Format B instructions (Table 17.1). -/
def ofB (h : Head) (op : Nat) (f : FmtB) : Option Instr :=
  match op, f.fn.toNat with
  | 0x58, 0 => some (.bra h f.hint f.off)
  | 0x59, 0 => some (.dbra h f.hint f.va f.off)
  | 0x5A, 0 => some (.brx h f.hint f.va)
  | 0x5B, 0 => some (.call h f.hint f.va f.off)
  | 0x5B, 1 => some (.callR h f.hint f.va)
  | 0x5C, 0 => some (.ret h f.hint f.va)
  | 0x5D, 0 => some (.exit h)
  | 0x5E, 0 => some (.nop h)
  | _, _ => none

/-- Format K instructions (Table 19.1). -/
def ofK (h : Head) (op : Nat) (f : FmtK) : Option Instr :=
  match op, f.fn.toNat with
  | 0x68, 0 => some (.bmode h f.bank (f.p8.getLsbD 0) f.la)
  | 0x68, 1 => some (.bclr h f.bank (f.p8.extractLsb' 0 4) f.la)
  | 0x68, 2 => some (.bwait h f.bank (f.p8.getLsbD 0) f.la)
  | 0x69, 0 => some (.bkey h f.bank f.fslot f.va (f.vb.extractLsb' 0 4) (f.vb.extractLsb' 4 3)
      (f.p8.extractLsb' 0 5) f.la)
  | 0x69, 1 => some (.bkscale h f.bank f.va (f.vb.extractLsb' 0 4) (f.vb.getLsbD 4)
      (f.vd.extractLsb' 0 5) (f.p8.extractLsb' 0 5) f.la)
  | 0x6A, 0 => some (.bmvm h f.bank f.fslot (f.vd.extractLsb' 0 4) (f.p8.extractLsb' 5 3)
      (f.vb.extractLsb' 5 3) (f.p8.extractLsb' 0 5) (f.vb.extractLsb' 0 5) f.la)
  | 0x6B, 0 => some (.bexec h f.bank (f.p8.extractLsb' 0 6) f.vd f.va f.vb f.la)
  | 0x6C, 0 => some (.bcw h f.bank (toS f.va) (toS f.vb) f.la)
  | 0x6C, 1 => some (.bct h f.bank (toS f.va) (toS f.vb) f.la)
  | 0x6C, 2 => some (.btw h f.bank (toS f.va) (toS f.vb) f.la)
  | 0x6C, 3 => some (.btt h f.bank (toS f.va) (toS f.vb) f.la)
  | 0x6C, 4 => some (.bcnt h f.bank f.vd (toS f.va) (toS f.vb) f.la)
  | 0x6C, 5 => some (.bfirst h f.bank f.vd (toS f.va) (toS f.vb) f.la)
  | 0x6D, 0 => some (.bacc h f.bank f.fslot f.vd (f.p8.extractLsb' 0 3) (f.p8.getLsbD 3) f.la)
  | 0x6E, 0 => some (.bcodex h (f.p8.extractLsb' 0 6) (toS f.va) (toS f.vb) f.la)
  | _, _ => none

/-- Format C instructions (Tables 18.5 and 18.6). -/
def ofC (h : Head) (op : Nat) (f : FmtC) : Option Instr :=
  let n := f.fn.extractLsb' 0 2
  match op, (f.fn.extractLsb' 2 3).toNat with
  | 0x50, 0 => if n.getLsbD 0 then some (.cp2d h (n.getLsbD 1) f.c) else some (.cp h (n.getLsbD 1) f.c)
  | 0x51, 0 => if n == 0 then some (.cpretile h f.c) else none
  | 0x52, 0 => if n == 0 then some (.cpkey h f.c) else none
  | 0x53, 0 => if n.getLsbD 0 then none else some (.cpfill h (n.getLsbD 1) f.c)
  | 0x54, 0 => if n.getLsbD 0 then none else some (.cpbank h (n.getLsbD 1) f.c)
  | 0x55, 0 => some (.qpush h n f.imm f.c.rel f.c.scope f.c.la)
  | 0x56, 0 => some (.qpop h n f.imm f.c.acq f.c.scope f.c.la)
  | 0x57, 0 => some (.qtryPush h n (f.c.sd.extractLsb' 0 3) f.imm f.c.rel f.c.scope f.c.la)
  | 0x57, 1 => some (.qtryPop h n (f.c.sd.extractLsb' 0 3) f.imm f.c.acq f.c.scope f.c.la)
  | 0x57, 2 => some (.qstat h n f.c.sd f.c.la)
  | _, _ => none

/-- Format S instructions (Tables 15.3 and 19.5). -/
def ofS (h : Head) (op : Nat) (f : FmtS) : Option Instr :=
  let o := ScalOp.ofFmt f
  let imm := f.sys.getLsbD 11
  match op, (f.sys.extractLsb' 0 11).toNat with
  | 0x70, 0 => some (.sadd h f.sd f.sa o)
  | 0x70, 1 => some (.ssub h f.sd f.sa o)
  | 0x70, 2 => some (.smul h f.sd f.sa o)
  | 0x71, 0 => some (.sshl h f.sd f.sa o)
  | 0x71, 1 => some (.sshr h f.sd f.sa o)
  | 0x71, 2 => some (.sshrS h f.sd f.sa o)
  | 0x72, 0 => some (.sand h f.sd f.sa o)
  | 0x72, 1 => some (.sor h f.sd f.sa o)
  | 0x72, 2 => some (.sxor h f.sd f.sa o)
  | 0x73, 0 => if imm then none else some (.smov h f.sd f.sa)
  | 0x73, 1 => if imm then some (.smovi h f.sd f.fnimm) else none
  | 0x73, 2 => if imm then some (.sli h f.sd f.sa f.fnimm) else none
  | 0x74, n => if n < 10 then some (.ssetp h (f.sys.extractLsb' 0 4) (f.sd.extractLsb' 0 3) f.sa o) else none
  | 0x75, n => if imm && decide (n < 3) then
      some (.s2v h (f.sys.extractLsb' 0 2) (f.fnimm.extractLsb' 0 8) f.sa) else none
  | 0x76, n => if imm && decide (n < 3) then
      some (.vread h (f.sys.extractLsb' 0 2) f.sd (f.fnimm.extractLsb' 0 8) f.sa) else none
  | 0x78, _ => some (.sysrd h f.sd f.sys)
  | 0x79, _ => some (.syswr h f.sys f.sa)
  | 0x7A, _ => some (.trap h (f.fnimm.extractLsb' 0 16))
  | 0x7B, _ => if f.fnimm.getLsbD 0 then some (.eretNext h) else some (.eret h)
  | 0x7C, _ => some (.brk h (f.fnimm.extractLsb' 0 16))
  | 0x7D, _ => some (.bunbind h)
  | 0x7E, _ => some (.bindnow h f.fnimm)
  | _, _ => none

/-- Opcodes that Table 14.6 does not mark reserved. -/
def opListed (op : Nat) : Bool :=
  decide (op ≤ 0x0B) || (decide (0x10 ≤ op) && decide (op ≤ 0x14)) || (decide (0x20 ≤ op) && decide (op ≤ 0x2C))
    || (decide (0x30 ≤ op) && decide (op ≤ 0x34)) || (decide (0x38 ≤ op) && decide (op ≤ 0x3E))
    || (decide (0x40 ≤ op) && decide (op ≤ 0x47)) || (decide (0x50 ≤ op) && decide (op ≤ 0x6E))
    || (decide (0x70 ≤ op) && decide (op ≤ 0x76)) || (decide (0x78 ≤ op) && decide (op ≤ 0x7E))

/-- The instruction an opcode and its body name, before unused fields are checked. -/
def ofBody (h : Head) (op : Nat) (x : BitVec 51) : Option Instr :=
  if op = 0x10 ∨ op = 0x11 ∨ op = 0x12 ∨ op = 0x13 ∨ op = 0x14 ∨ op = 0x39 ∨ op = 0x5F then
    ofI h op (FmtI.unpack x)
  else if op < 0x40 then ofA h op (FmtA.unpack x)
  else if op < 0x48 then ofM h op (FmtM.unpack x)
  else if op < 0x58 then ofC h op (FmtC.unpack x)
  else if op < 0x5F then ofB h op (FmtB.unpack x)
  else if op < 0x68 then ofA h op (FmtA.unpack x)
  else if op < 0x70 then ofK h op (FmtK.unpack x)
  else ofS h op (FmtS.unpack x)

/-- B, the last word of its run (Table 14.1). -/
def wordB (w : Dword) : Bool := w.getLsbD 63
/-- E, the first word of an idempotent region (Table 14.1). -/
def wordE (w : Dword) : Bool := w.getLsbD 62
/-- OP (Table 14.1). -/
def wordOp (w : Dword) : Nat := (w.extractLsb' 51 7).toNat
/-- The common fields (Table 14.1). -/
def wordHead (w : Dword) : Head :=
  { b := wordB w, e := wordE w, gn := w.getLsbD 61, gp := w.extractLsb' 58 3 }

/-- Solo words issue on path A only (Table 5.2): `bmvm`, `bexec`, 0x50-0x57 and 0x78-0x7E. -/
def soloOp (op : Nat) : Bool :=
  op == 0x6A || op == 0x6B || (decide (0x50 ≤ op) && decide (op ≤ 0x57)) || (decide (0x78 ≤ op) && decide (op ≤ 0x7E))

/-- Opcode and body of an instruction word; none for a device step. -/
def Instr.body : Instr → Option (BitVec 7 × Body)
  | .iadd _ sg sa vd va vb => some (0x00, .a ⟨vd, va, vb, 0, 0, 0#6 ++ BitVec.ofBool sa ++ BitVec.ofBool sg⟩)
  | .isub _ sg sa vd va vb => some (0x00, .a ⟨vd, va, vb, 0, 1, 0#6 ++ BitVec.ofBool sa ++ BitVec.ofBool sg⟩)
  | .iaddx _ ci pci pco vd va vb =>
    some (0x00, .a ⟨vd, va, vb, fromP pci, 2, 0#1 ++ pco ++ BitVec.ofBool ci ++ 0#3⟩)
  | .imul _ vd va vb => some (0x01, .a ⟨vd, va, vb, 0, 0, 0⟩)
  | .imulh _ sg vd va vb => some (0x01, .a ⟨vd, va, vb, 0, 1, 0#7 ++ BitVec.ofBool sg⟩)
  | .imad _ vd va vb vc => some (0x02, .a ⟨vd, va, vb, vc, 0, 0⟩)
  | .imadw _ sg vd va vb vc => some (0x02, .a ⟨vd, va, vb, vc, 1, 0#7 ++ BitVec.ofBool sg⟩)
  | .imin _ sg vd va vb => some (0x03, .a ⟨vd, va, vb, 0, 0, 0#7 ++ BitVec.ofBool sg⟩)
  | .imax _ sg vd va vb => some (0x03, .a ⟨vd, va, vb, 0, 1, 0#7 ++ BitVec.ofBool sg⟩)
  | .iabs _ sa vd va => some (0x03, .a ⟨vd, va, 0, 0, 2, 0#6 ++ BitVec.ofBool sa ++ 1#1⟩)
  | .and _ vd va vb => some (0x04, .a ⟨vd, va, vb, 0, 0, 0⟩)
  | .or _ vd va vb => some (0x04, .a ⟨vd, va, vb, 0, 1, 0⟩)
  | .xor _ vd va vb => some (0x04, .a ⟨vd, va, vb, 0, 2, 0⟩)
  | .andn _ vd va vb => some (0x04, .a ⟨vd, va, vb, 0, 3, 0⟩)
  | .orn _ vd va vb => some (0x04, .a ⟨vd, va, vb, 0, 4, 0⟩)
  | .not _ vd va => some (0x04, .a ⟨vd, va, 0, 0, 5, 0⟩)
  | .shl _ vd va vb => some (0x05, .a ⟨vd, va, vb, 0, 0, 0⟩)
  | .shr _ vd va vb => some (0x05, .a ⟨vd, va, vb, 0, 1, 0⟩)
  | .sar _ vd va vb => some (0x05, .a ⟨vd, va, vb, 0, 2, 0⟩)
  | .rotl _ vd va vb => some (0x05, .a ⟨vd, va, vb, 0, 3, 0⟩)
  | .popc _ vd va => some (0x06, .a ⟨vd, va, 0, 0, 0, 0⟩)
  | .clz _ vd va => some (0x06, .a ⟨vd, va, 0, 0, 1, 0⟩)
  | .ctz _ vd va => some (0x06, .a ⟨vd, va, 0, 0, 2, 0⟩)
  | .brev _ vd va => some (0x06, .a ⟨vd, va, 0, 0, 3, 0⟩)
  | .bfe _ sg vd va vb => some (0x07, .a ⟨vd, va, vb, 0, 0, 0#7 ++ BitVec.ofBool sg⟩)
  | .bfi _ vd va vb vc => some (0x07, .a ⟨vd, va, vb, vc, 1, 0⟩)
  | .bytex _ vd va vb vc => some (0x08, .a ⟨vd, va, vb, vc, 0, 0⟩)
  | .sel _ ng vd pn va vb => some (0x09, .a ⟨vd, va, vb, fromP pn, 0, 0#7 ++ BitVec.ofBool ng⟩)
  | .mov _ w vd va => some (0x0A, .a ⟨vd, va, 0, 0, 0, 0#4 ++ BitVec.ofBool w ++ 0#3⟩)
  | .lea _ w sg sh vd va vb =>
    some (0x0B, .a ⟨vd, va, vb, 0, 0, 0#3 ++ BitVec.ofBool sg ++ BitVec.ofBool w ++ sh⟩)
  | .iaddImm _ vd va imm => some (0x10, .i ⟨vd, va, 0, imm⟩)
  | .isubImm _ vd va imm => some (0x10, .i ⟨vd, va, 1, imm⟩)
  | .imulImm _ vd va imm => some (0x10, .i ⟨vd, va, 2, imm⟩)
  | .iminImmS _ vd va imm => some (0x10, .i ⟨vd, va, 3, imm⟩)
  | .iminImmU _ vd va imm => some (0x10, .i ⟨vd, va, 4, imm⟩)
  | .imaxImmS _ vd va imm => some (0x10, .i ⟨vd, va, 5, imm⟩)
  | .imaxImmU _ vd va imm => some (0x10, .i ⟨vd, va, 6, imm⟩)
  | .andImm _ vd va imm => some (0x11, .i ⟨vd, va, 0, imm⟩)
  | .orImm _ vd va imm => some (0x11, .i ⟨vd, va, 1, imm⟩)
  | .xorImm _ vd va imm => some (0x11, .i ⟨vd, va, 2, imm⟩)
  | .andnImm _ vd va imm => some (0x11, .i ⟨vd, va, 3, imm⟩)
  | .ornImm _ vd va imm => some (0x11, .i ⟨vd, va, 4, imm⟩)
  | .shlImm _ vd va imm => some (0x12, .i ⟨vd, va, 0, imm⟩)
  | .shrImm _ vd va imm => some (0x12, .i ⟨vd, va, 1, imm⟩)
  | .sarImm _ vd va imm => some (0x12, .i ⟨vd, va, 2, imm⟩)
  | .rotlImm _ vd va imm => some (0x12, .i ⟨vd, va, 3, imm⟩)
  | .movi _ vd imm => some (0x13, .i ⟨vd, 0, 0, imm⟩)
  | .moviB64 _ vd imm => some (0x13, .i ⟨vd, 0, 1, imm⟩)
  | .leaImm _ vd va imm => some (0x14, .i ⟨vd, va, 0, imm⟩)
  | .leaWImm _ vd va imm => some (0x14, .i ⟨vd, va, 1, imm⟩)
  | .isetp _ cond sg w cmb pd pc va vb =>
    some (0x38, .a ⟨fromP pd, va, vb, fromP pc, 0#8 ++ cond,
      0#2 ++ cmb ++ BitVec.ofBool w ++ 0#2 ++ BitVec.ofBool sg⟩)
  | .isetpImm _ cond pd va imm => some (0x39, .i ⟨fromP pd, va, cond, imm⟩)
  | .plop _ table pd pa pb pc => some (0x3C, .a ⟨fromP pd, fromP pa, fromP pb, fromP pc, 0, table⟩)
  | .p2v _ vd => some (0x3D, .a ⟨vd, 0, 0, 0, 0, 0⟩)
  | .v2p _ mask va => some (0x3E, .a ⟨0, va, 0, 0, 0, 0#1 ++ mask⟩)
  | .sadd _ sd sa o => some (0x70, .s ⟨sd, sa, o.sb, o.sfn 0, o.imm21⟩)
  | .ssub _ sd sa o => some (0x70, .s ⟨sd, sa, o.sb, o.sfn 1, o.imm21⟩)
  | .smul _ sd sa o => some (0x70, .s ⟨sd, sa, o.sb, o.sfn 2, o.imm21⟩)
  | .sshl _ sd sa o => some (0x71, .s ⟨sd, sa, o.sb, o.sfn 0, o.imm21⟩)
  | .sshr _ sd sa o => some (0x71, .s ⟨sd, sa, o.sb, o.sfn 1, o.imm21⟩)
  | .sshrS _ sd sa o => some (0x71, .s ⟨sd, sa, o.sb, o.sfn 2, o.imm21⟩)
  | .sand _ sd sa o => some (0x72, .s ⟨sd, sa, o.sb, o.sfn 0, o.imm21⟩)
  | .sor _ sd sa o => some (0x72, .s ⟨sd, sa, o.sb, o.sfn 1, o.imm21⟩)
  | .sxor _ sd sa o => some (0x72, .s ⟨sd, sa, o.sb, o.sfn 2, o.imm21⟩)
  | .smov _ sd sa => some (0x73, .s ⟨sd, sa, 0, 0#1 ++ 0#11, 0⟩)
  | .smovi _ sd imm => some (0x73, .s ⟨sd, 0, 0, 1#1 ++ 1#11, imm⟩)
  | .sli _ sd sa imm => some (0x73, .s ⟨sd, sa, 0, 1#1 ++ 2#11, imm⟩)
  | .ssetp _ cond pd sa o => some (0x74, .s ⟨0#3 ++ pd, sa, o.sb, o.sfn (0#7 ++ cond), o.imm21⟩)
  | .s2v _ part vd sa => some (0x75, .s ⟨0, sa, 0, 1#1 ++ (0#9 ++ part), 0#13 ++ vd⟩)
  | .vread _ kind sd va sa => some (0x76, .s ⟨sd, sa, 0, 1#1 ++ (0#9 ++ kind), 0#13 ++ va⟩)
  | .fadd _ m vd va vb => some (0x20, .a ⟨vd, va, vb, 0, 0, m.bits false⟩)
  | .fsub _ m vd va vb => some (0x20, .a ⟨vd, va, vb, 0, 1, m.bits false⟩)
  | .fmul _ m vd va vb => some (0x21, .a ⟨vd, va, vb, 0, 0, m.bits false⟩)
  | .ffma _ m vd va vb vc => some (0x22, .a ⟨vd, va, vb, vc, 0, m.bits false⟩)
  | .fmin _ m x vd va vb => some (0x23, .a ⟨vd, va, vb, 0, 0, m.bits x⟩)
  | .fmax _ m x vd va vb => some (0x23, .a ⟨vd, va, vb, 0, 1, m.bits x⟩)
  | .fround _ m x vd va => some (0x24, .a ⟨vd, va, 0, 0, 0, m.bits x⟩)
  | .fclass _ ty hi vd va => some (0x25, .a ⟨vd, va, 0, 0, 0, 0#1 ++ BitVec.ofBool hi ++ ty ++ 0#4⟩)
  | .frcp _ z vd va => some (0x26, .a ⟨vd, va, 0, 0, 0, 0#5 ++ BitVec.ofBool z ++ 0#2⟩)
  | .frsq _ z vd va => some (0x26, .a ⟨vd, va, 0, 0, 1, 0#5 ++ BitVec.ofBool z ++ 0#2⟩)
  | .fsqrt _ rm z vd va => some (0x26, .a ⟨vd, va, 0, 0, 2, 0#5 ++ BitVec.ofBool z ++ rm⟩)
  | .fex2 _ z vd va => some (0x26, .a ⟨vd, va, 0, 0, 3, 0#5 ++ BitVec.ofBool z ++ 0#2⟩)
  | .flg2 _ z vd va => some (0x26, .a ⟨vd, va, 0, 0, 4, 0#5 ++ BitVec.ofBool z ++ 0#2⟩)
  | .fsin _ z vd va => some (0x26, .a ⟨vd, va, 0, 0, 5, 0#5 ++ BitVec.ofBool z ++ 0#2⟩)
  | .fcos _ z vd va => some (0x26, .a ⟨vd, va, 0, 0, 6, 0#5 ++ BitVec.ofBool z ++ 0#2⟩)
  | .ftanh _ z vd va => some (0x26, .a ⟨vd, va, 0, 0, 7, 0#5 ++ BitVec.ofBool z ++ 0#2⟩)
  | .padd2 _ m x vd va vb => some (0x27, .a ⟨vd, va, vb, 0, 0, m.bits x⟩)
  | .pmul2 _ m x vd va vb => some (0x27, .a ⟨vd, va, vb, 0, 1, m.bits x⟩)
  | .pfma2 _ m x vd va vb vc => some (0x27, .a ⟨vd, va, vb, vc, 2, m.bits x⟩)
  | .pdot2 _ m x vd va vb vc => some (0x27, .a ⟨vd, va, vb, vc, 3, m.bits x⟩)
  | .dadd _ m vd va vb => some (0x28, .a ⟨vd, va, vb, 0, 0, m.bits false⟩)
  | .dmul _ m vd va vb => some (0x29, .a ⟨vd, va, vb, 0, 0, m.bits false⟩)
  | .dfma _ m vd va vb vc => some (0x2A, .a ⟨vd, va, vb, vc, 0, m.bits false⟩)
  | .dmin _ m x vd va vb => some (0x2B, .a ⟨vd, va, vb, 0, 0, m.bits x⟩)
  | .dmax _ m x vd va vb => some (0x2B, .a ⟨vd, va, vb, 0, 1, m.bits x⟩)
  | .drcpa _ z vd va => some (0x2C, .a ⟨vd, va, 0, 0, 0, 0#5 ++ BitVec.ofBool z ++ 0#2⟩)
  | .cvtf _ c vd va => some (0x30, .a ⟨vd, va, 0, 0#5 ++ c.fslot, c.fn, c.mod⟩)
  | .cvti _ c vd va => some (0x31, .a ⟨vd, va, 0, 0#5 ++ c.fslot, c.fn, c.mod⟩)
  | .cvtif _ c vd va => some (0x32, .a ⟨vd, va, 0, 0#5 ++ c.fslot, c.fn, c.mod⟩)
  | .mxpack _ dpos hi fs vd va vb =>
    some (0x33, .a ⟨vd, va, vb, 0#5 ++ fs, 0, BitVec.ofBool hi ++ dpos ++ 0#4⟩)
  | .mxunpack _ fmt rm z spos hi vd va vb =>
    some (0x34, .a ⟨vd, va, vb, 0, spos ++ 0#4 ++ fmt, BitVec.ofBool hi ++ 0#4 ++ BitVec.ofBool z ++ rm⟩)
  | .fsetp _ cond z cmb pd pc va vb =>
    some (0x3A, .a ⟨fromP pd, va, vb, fromP pc, 0#7 ++ cond, 0#2 ++ cmb ++ 0#1 ++ BitVec.ofBool z ++ 0#2⟩)
  | .dsetp _ cond z cmb pd pc va vb =>
    some (0x3B, .a ⟨fromP pd, va, vb, fromP pc, 0#7 ++ cond, 0#2 ++ cmb ++ 0#1 ++ BitVec.ofBool z ++ 0#2⟩)
  | .ld _ vt m => some (0x40, .m ⟨vt, m⟩)
  | .st _ vt m => some (0x41, .m ⟨vt, m⟩)
  | .ldp _ vt m => some (0x42, .m ⟨vt, m⟩)
  | .atom _ vt m => some (0x43, .m ⟨vt, m⟩)
  | .red _ vt m => some (0x44, .m ⟨vt, m⟩)
  | .fenceAcq _ sc la => some (0x45, .m ⟨0, ⟨0, 0, 0, 0, 1, sc, la, 0⟩⟩)
  | .fenceRel _ sc la => some (0x45, .m ⟨0, ⟨0, 0, 0, 0, 2, sc, la, 0⟩⟩)
  | .fenceAr _ sc la => some (0x45, .m ⟨0, ⟨0, 0, 0, 0, 3, sc, la, 0⟩⟩)
  | .fenceFull _ sc la => some (0x45, .m ⟨0, ⟨0, 0, 1, 0, 3, sc, la, 0⟩⟩)
  | .prefetch _ dc vo sb off => some (0x46, .m ⟨0, ⟨vo, sb, 0#2 ++ BitVec.ofBool dc, 0, 0, 0, 0, off⟩⟩)
  | .hflush _ la => some (0x47, .m ⟨0, ⟨0, 0, 0, 0, 0, 0, la, 0⟩⟩)
  | .cp _ db c => some (0x50, .c ⟨c, 0#3 ++ BitVec.ofBool db ++ 0#1, 0, 0⟩)
  | .cp2d _ db c => some (0x50, .c ⟨c, 0#3 ++ BitVec.ofBool db ++ 1#1, 0, 0⟩)
  | .cpretile _ c => some (0x51, .c ⟨c, 0, 0, 0⟩)
  | .cpkey _ c => some (0x52, .c ⟨c, 0, 0, 0⟩)
  | .cpfill _ db c => some (0x53, .c ⟨c, 0#3 ++ BitVec.ofBool db ++ 0#1, 0, 0⟩)
  | .cpbank _ db c => some (0x54, .c ⟨c, 0#3 ++ BitVec.ofBool db ++ 0#1, 0, 0⟩)
  | .qpush _ n va r sc la => some (0x55, .c ⟨⟨0, 0, 0, 0, 0, false, r, sc, la⟩, 0#3 ++ n, va, 0⟩)
  | .qpop _ n vd a sc la => some (0x56, .c ⟨⟨0, 0, 0, 0, 0, a, false, sc, la⟩, 0#3 ++ n, vd, 0⟩)
  | .qtryPush _ n pd va r sc la =>
    some (0x57, .c ⟨⟨0, 0, 0#3 ++ pd, 0, 0, false, r, sc, la⟩, 0#3 ++ n, va, 0⟩)
  | .qtryPop _ n pd vd a sc la =>
    some (0x57, .c ⟨⟨0, 0, 0#3 ++ pd, 0, 0, a, false, sc, la⟩, 1#3 ++ n, vd, 0⟩)
  | .qstat _ n sd la => some (0x57, .c ⟨⟨0, 0, sd, 0, 0, false, false, 0, la⟩, 2#3 ++ n, 0, 0⟩)
  | .bra _ hint off => some (0x58, .b ⟨hint, 0, 0, 0, off⟩)
  | .dbra _ hint va off => some (0x59, .b ⟨hint, 0, va, 0, off⟩)
  | .brx _ hint va => some (0x5A, .b ⟨hint, 0, va, 0, 0⟩)
  | .call _ hint va off => some (0x5B, .b ⟨hint, 0, va, 0, off⟩)
  | .callR _ hint va => some (0x5B, .b ⟨hint, 1, va, 0, 0⟩)
  | .ret _ hint va => some (0x5C, .b ⟨hint, 0, va, 0, 0⟩)
  | .exit _ => some (0x5D, .b ⟨0, 0, 0, 0, 0⟩)
  | .nop _ => some (0x5E, .b ⟨0, 0, 0, 0, 0⟩)
  | .sleep _ imm => some (0x5F, .i ⟨0, 0, 0, imm⟩)
  | .phase _ id imm => some (0x5F, .i ⟨id, 0, 1, imm⟩)
  | .voteAll _ ng pd pa => some (0x60, .a ⟨fromP pd, fromP pa, 0, 0, 0, 0#7 ++ BitVec.ofBool ng⟩)
  | .voteAny _ ng pd pa => some (0x60, .a ⟨fromP pd, fromP pa, 0, 0, 1, 0#7 ++ BitVec.ofBool ng⟩)
  | .voteUni _ ng pd pa => some (0x60, .a ⟨fromP pd, fromP pa, 0, 0, 2, 0#7 ++ BitVec.ofBool ng⟩)
  | .ballot _ ng vd pa => some (0x60, .a ⟨vd, fromP pa, 0, 0, 3, 0#7 ++ BitVec.ofBool ng⟩)
  | .xlaneLane _ sg vd va l => some (0x61, .a ⟨vd, va, l.vb, fromP sg, 0, l.mod⟩)
  | .xlaneRot _ sg vd va l => some (0x61, .a ⟨vd, va, l.vb, fromP sg, 1, l.mod⟩)
  | .xlaneXor _ sg vd va l => some (0x61, .a ⟨vd, va, l.vb, fromP sg, 2, l.mod⟩)
  | .xlaneRev _ sg vd va => some (0x61, .a ⟨vd, va, 0, fromP sg, 3, 0⟩)
  | .redq _ o rm z vd va => some (0x62, .a ⟨vd, va, 0, 0, 0#6 ++ o, 0#5 ++ BitVec.ofBool z ++ rm⟩)
  | .scanq _ o rm z vd va => some (0x62, .a ⟨vd, va, 0, 0, 1#6 ++ o, 0#5 ++ BitVec.ofBool z ++ rm⟩)
  | .matchSame _ w pd va => some (0x63, .a ⟨fromP pd, va, 0, 0, 0, 0#4 ++ BitVec.ofBool w ++ 0#3⟩)
  | .matchPeers _ w vd va => some (0x63, .a ⟨vd, va, 0, 0, 1, 0#4 ++ BitVec.ofBool w ++ 0#3⟩)
  | .matchLead _ w vd va => some (0x63, .a ⟨vd, va, 0, 0, 2, 0#4 ++ BitVec.ofBool w ++ 0#3⟩)
  | .join _ vd g => some (0x64, .a ⟨vd, g.va, 0, 0, 0, g.mod⟩)
  | .leave _ vd g => some (0x64, .a ⟨vd, g.va, 0, 0, 1, g.mod⟩)
  | .gbar _ vd g => some (0x65, .a ⟨vd, g.va, 0, 0, 0, g.mod⟩)
  | .pbar _ vd id sn => some (0x65, .a ⟨vd, fromS sn, 0, 0, 1, 0#4 ++ id⟩)
  | .regclaim _ n => some (0x66, .a ⟨0, n.va, 0, 0, 0, n.mod⟩)
  | .regrel _ n => some (0x66, .a ⟨0, n.va, 0, 0, 1, n.mod⟩)
  | .sget _ k s clr vd => some (0x67, .a ⟨vd, 0, 0, 0, 0#7 ++ k, 0#6 ++ BitVec.ofBool clr ++ BitVec.ofBool s⟩)
  | .bmode _ bank c la => some (0x68, .k ⟨bank, 0, 0, 0, 0, 0#7 ++ BitVec.ofBool c, la, 0⟩)
  | .bclr _ bank what la => some (0x68, .k ⟨bank, 0, 0, 0, 0, 0#4 ++ what, la, 1⟩)
  | .bwait _ bank a la => some (0x68, .k ⟨bank, 0, 0, 0, 0, 0#7 ++ BitVec.ofBool a, la, 2⟩)
  | .bkey _ bank fs va kv spos blk la => some (0x69, .k ⟨bank, fs, va, 0#1 ++ spos ++ kv, 0, 0#3 ++ blk, la, 0⟩)
  | .bkscale _ bank va kv hi l0 b0 la =>
    some (0x69, .k ⟨bank, 0, va, 0#3 ++ BitVec.ofBool hi ++ kv, 0#3 ++ l0, 0#3 ++ b0, la, 1⟩)
  | .bmvm _ bank fs kv g0 ng1 b0 nb1 la => some (0x6A, .k ⟨bank, fs, 0, ng1 ++ nb1, 0#4 ++ kv, g0 ++ b0, la, 0⟩)
  | .bexec _ bank cx vd va vb la => some (0x6B, .k ⟨bank, 0, va, vb, vd, 0#2 ++ cx, la, 0⟩)
  | .bcw _ bank sa sb la => some (0x6C, .k ⟨bank, 0, fromS sa, fromS sb, 0, 0, la, 0⟩)
  | .bct _ bank sa sb la => some (0x6C, .k ⟨bank, 0, fromS sa, fromS sb, 0, 0, la, 1⟩)
  | .btw _ bank sa sb la => some (0x6C, .k ⟨bank, 0, fromS sa, fromS sb, 0, 0, la, 2⟩)
  | .btt _ bank sa sb la => some (0x6C, .k ⟨bank, 0, fromS sa, fromS sb, 0, 0, la, 3⟩)
  | .bcnt _ bank vd sa sb la => some (0x6C, .k ⟨bank, 0, fromS sa, fromS sb, vd, 0, la, 4⟩)
  | .bfirst _ bank vd sa sb la => some (0x6C, .k ⟨bank, 0, fromS sa, fromS sb, vd, 0, la, 5⟩)
  | .bacc _ bank fs vd w clr la => some (0x6D, .k ⟨bank, fs, 0, 0, vd, 0#4 ++ BitVec.ofBool clr ++ w, la, 0⟩)
  | .bcodex _ cx sa sb la => some (0x6E, .k ⟨0, 0, fromS sa, fromS sb, 0, 0#2 ++ cx, la, 0⟩)
  | .sysrd _ sd num => some (0x78, .s ⟨sd, 0, 0, num, 0⟩)
  | .syswr _ num sa => some (0x79, .s ⟨0, sa, 0, num, 0⟩)
  | .trap _ imm => some (0x7A, .s ⟨0, 0, 0, 0, 0#5 ++ imm⟩)
  | .eret _ => some (0x7B, .s ⟨0, 0, 0, 0, 0⟩)
  | .eretNext _ => some (0x7B, .s ⟨0, 0, 0, 0, 1⟩)
  | .brk _ imm => some (0x7C, .s ⟨0, 0, 0, 0, 0#5 ++ imm⟩)
  | .bunbind _ => some (0x7D, .s ⟨0, 0, 0, 0, 0⟩)
  | .bindnow _ off => some (0x7E, .s ⟨0, 0, 0, 0, off⟩)
  | _ => none

/-- The word of a head, an opcode and a body (Table 14.1). -/
def packWord (h : Head) (op : BitVec 7) (x : BitVec 51) : Dword :=
  BitVec.ofBool h.b ++ BitVec.ofBool h.e ++ BitVec.ofBool h.gn ++ h.gp ++ op ++ x

/-- The words of an instruction; a device step has none. -/
def encode (i : Instr) : List Dword :=
  match i.head, i.body with
  | some h, some (op, y) => [packWord h op y.pack]
  | _, _ => []

/-- The instruction of a word, or the first item of R323 that makes it illegal. -/
def decodeWord (w : Dword) : Except DecodeError Instr :=
  if opListed (wordOp w) then
    match ofBody (wordHead w) (wordOp w) (w.extractLsb' 0 51) with
    | none => .error .reservedFunction
    | some i =>
      if encode i = [w] then (if i.wf then .ok i else .error .badValue) else .error .nonzeroReserved
  else .error .reservedOpcode

/-- The 64-bit word at the head of eight bytes, little-endian (R3, R312). -/
def wordOfBytes : List Byte → Dword
  | [] => 0
  | x :: xs => (wordOfBytes xs <<< 8) ||| x.zeroExtend 64

/-- The bytes of a word, little-endian. -/
def bytesOfWord (w : Dword) : List Byte :=
  [w.extractLsb' 0 8, w.extractLsb' 8 8, w.extractLsb' 16 8, w.extractLsb' 24 8,
   w.extractLsb' 32 8, w.extractLsb' 40 8, w.extractLsb' 48 8, w.extractLsb' 56 8]

/-- Decodes the instruction at the head of a list of bytes and gives the rest. -/
def decode (bs : List Byte) : Except DecodeError (Instr × List Byte) :=
  if bs.length < 8 then .error .tooShort
  else match decodeWord (wordOfBytes (bs.take 8)) with
    | .ok i => .ok (i, bs.drop 8)
    | .error e => .error e

/-- The instruction the decoder reads from a word of the opcode table's numbering, laid out as stored. -/
def decodeTableWord (_nbits w : Nat) : Option Instr :=
  match decode (bytesOfWord (BitVec.ofNat 64 w)) with
  | .ok (i, _) => some i
  | .error _ => none

end Sys2Proof
end

