-- ==== Sys2Proof/Config.lean ====
section
/-! DEFINITION. What an implementation fixes and the spec leaves open: free values, uninterpreted.
Nothing can evaluate them, so a claim holds whatever they are (notes/assumptions). -/

namespace Sys2Proof.Config

/-- Silicon stepping CAPDEV.STEP (Table 19.7 gives no value). UNVERIFIED, log entry 5. -/
opaque step : BitVec 4
/-- An undefined value of R9, fresh at each count. DESIGN CHOICE, log entry 8. -/
opaque undef : Nat → Dword
/-- Which of the results inside the bound of Table 16.4 an approximating instruction returns, a fixed
function of the instruction and of the operand's bits (R357). DESIGN CHOICE, log entry 7. -/
opaque approx : Nat → Word → Nat
/-- The same for `drcpa` (R358). DESIGN CHOICE, log entry 7. -/
opaque drcpa : Dword → Nat
/-- SHA-384 (R29, R30). DESIGN CHOICE, log entry 9. -/
opaque sha384 : List Byte → BitVec 384
/-- ECDSA P-384 verification of a digest by a signature (R29). DESIGN CHOICE, log entry 9. -/
opaque ecdsaOk : BitVec 384 → List Byte → Bool
/-- LMS verification of an image by a signature (R29). DESIGN CHOICE, log entry 9. -/
opaque lmsOk : List Byte → List Byte → Bool
/-- ECDSA P-384 signature made with the identity key of a boot's fuse secret (R31). Log entry 9. -/
opaque sign : List Byte → List Byte
/-- The certificate chain of the identity key (R31). DESIGN CHOICE, log entry 9. -/
opaque certificate : List Byte
/-- The boot ROM's identity, measured at index 1 (Table 1.8). DESIGN CHOICE, log entry 9. -/
opaque romIdentity : List Byte
/-- The digest of the fused versions and fuse configuration, index 4 (Table 1.8). Log entry 9. -/
opaque fuseDigest : Nat → Nat → Bool → BitVec 384
/-- An answer of the SPDM responder whose content the spec leaves to SPDM 1.3 (R31). Log entry 9. -/
opaque spdmBody : Nat → List Byte
/-- The self-test of the boot ROM on X-die 0 passes (R27), by power cycle. Log entry 9. -/
opaque selfTest : Nat → Bool
/-- The hash of domain address [51:7] that picks a Hyley port (R54). DESIGN CHOICE, log entry 10. -/
opaque portHash : Nat → Nat
/-- Receive-buffer capacity of a link for a class, in flits (R37, R48). DESIGN CHOICE, log entry 10. -/
opaque rxCapacity : Nat → Nat → Nat

/-- The lanes of a half of a bridge module, or of a Hyley port, pass a training (R46), by count of trainings.
Log entry 8. -/
opaque halfOk : Nat → Nat → Bool
/-- Annex ports whose expander works at a boot (R79), by power cycle. DESIGN CHOICE, log entry 10. -/
opaque annexAt : Nat → BitVec 8
/-- DOMID.DEV and DOMID.VALID that the service firmware sets at a boot (R53), by power cycle. Log entry 10. -/
opaque domainAt : Nat → BitVec 11 × Bool
/-- Usable Hyley ports of each device ID, as the service firmware holds them (R54). Log entry 10. -/
opaque portsAt : Nat → List (Nat × List Nat)
/-- The frequency to which the service firmware lowers a compute island for a package power limit in watts (R22).
DESIGN CHOICE, log entry 10. -/
opaque limitMhz : Nat → Nat → Nat
/-- Deviation of a die's NOW from X-die 0 that a comparison finds (R20), by count. Log entry 8. -/
opaque deviation : Nat → Int

end Sys2Proof.Config
end

