-- ==== Sys2Proof/Machine/Tab.lean ====
section
/-! DEFINITION. Tables with a default: a list of keys and values, keys rising, an unlisted key holding
the default. The state holds register files, bank cells and unit arrays in this form, as plain data. -/

namespace Sys2Proof.Machine

/-- A table from numbers to values; a key that is not listed holds the reader's default. -/
abbrev Tab (α : Type) := List (Nat × α)

/-- Value at a key. -/
def Tab.get {α : Type} (d : α) : Tab α → Nat → α
  | [], _ => d
  | (k, v) :: t, j => if j = k then v else if j < k then d else Tab.get d t j

/-- The table with one key set. -/
def Tab.set {α : Type} : Tab α → Nat → α → Tab α
  | [], j, x => [(j, x)]
  | (k, v) :: t, j, x =>
    if j = k then (j, x) :: t else if j < k then (j, x) :: (k, v) :: t else (k, v) :: Tab.set t j x

/-- The entry at a key, if it is listed. -/
def Tab.find {α : Type} : Tab α → Nat → Option α
  | [], _ => none
  | (k, v) :: t, j => if j = k then some v else if j < k then none else Tab.find t j

/-- The table without a key. -/
def Tab.del {α : Type} (m : Tab α) (j : Nat) : Tab α := m.filter (fun e => e.1 ≠ j)

/-- The table with the value at one key changed. -/
def Tab.upd {α : Type} (d : α) (m : Tab α) (j : Nat) (f : α → α) : Tab α := m.set j (f (m.get d j))

/-- The values listed. -/
def Tab.vals {α : Type} (m : Tab α) : List α := m.map Prod.snd

/-- Writes a run of values from a key on. -/
def Tab.setMany {α : Type} (m : Tab α) (j : Nat) : List α → Tab α
  | [] => m
  | x :: xs => (m.set j x).setMany (j + 1) xs

/-- Reads `n` values from a key on. -/
def Tab.getMany {α : Type} (d : α) (m : Tab α) (j n : Nat) : List α :=
  (List.range n).map (fun k => m.get d (j + k))

/-- A list with one more entry, before the first that it is not behind. -/
def insertBy {α : Type} (le : α → α → Bool) (x : α) : List α → List α
  | [] => [x]
  | y :: ys => if le x y then x :: y :: ys else y :: insertBy le x ys

/-- A list in order; equals keep their places. -/
def sortBy {α : Type} (le : α → α → Bool) : List α → List α
  | [] => []
  | x :: xs => insertBy le x (sortBy le xs)

/-- Numbers in ascending order. -/
def sortNat : List Nat → List Nat := sortBy (fun a b => decide (a ≤ b))

end Sys2Proof.Machine
end

