-- ==== Sys2Proof/Machine/State.lean ====
section
/-! DEFINITION. The state of the part, as plain data, and the state after package reset. Unit arrays
are tables that list what differs from reset. Cores are numbered die * 40 + core (0-639), launches
ctx * 2^32 + launch ID, lines of memory by physical address div 128. A directed link is numbered
source die * 32 + destination die for a bridge, 1024 + 2 * port + (0 outgoing, 1 incoming) for a
Hyley port. -/

namespace Sys2Proof.Machine

/-- Reasons of a step that stops the part. -/
inductive Fault where
  /-- Raised by `step` once the thermal trip has removed power from all islands (R22). Safe: without
  power the part takes no step. -/
  | powerOff
  deriving DecidableEq, Repr

/-- Reasons of a step without a meaning. -/
inductive Refusal where
  /-- Raised by an arm of `exec` that has no meaning yet. Safe: nothing is claimed of it. -/
  | notModelled (mnemonic : String)
  deriving DecidableEq, Repr

/-- The unit a device step happens at: the unit, what of it, and which item of that. -/
structure Here where
  unit : Nat := 0
  sub : Nat := 0
  item : Nat := 0
  deriving DecidableEq, Repr, Inhabited

/-- A step that is due at a tick of NOW. The model's own: it orders the agents' steps (log entry 1). -/
structure Due where
  tick : Nat
  here : Here
  what : Instr
  deriving DecidableEq, Repr

/-- Stall reasons (Table 5.1). -/
inductive Stall where
  | none | mem | copy | engq | qfull | qempty | gbar | claim | bank | sleep | pbar | folio | restore
  deriving DecidableEq, Repr, Inhabited

/-- Causes (Table 6.1). -/
inductive Cause where
  | illegal | priv | bankbound | bankmode | param | align | lease | perm | phase | quota
  | barbroken | engine | ecc | user | claim | codex | link
  deriving DecidableEq, Repr, Inhabited

/-- A long-latency instruction of a thread that is outstanding (R318). -/
structure Outst where
  /-- The instruction: a key of State.ins. -/
  id : Nat := 0
  /-- Its place in the count of words the thread has issued. -/
  idx : Nat := 0
  la : Nat := 0
  reason : Stall := .mem
  /-- Whether it has passed its fault point (R140). -/
  fpDone : Bool := false
  /-- Vector registers whose result has not arrived (R130). -/
  regs : List Nat := []
  /-- Later memory accesses wait for it (R196). -/
  acq : Bool := false
  /-- A `bcodex`: later `bexec` and `bcodex` of the thread wait for its write (R248); `past`: it has been accepted, and is
  outstanding no more (R140, R318). -/
  codex : Bool := false
  past : Bool := false
  /-- A `bwait`: the physical banks it waits for (R415), and its address (R153). -/
  banks : List Nat := []
  pc : Dword := 0
  deriving DecidableEq, Repr, Inhabited

/-- What a thread waits for under a long-latency reason, besides its outstanding instructions. -/
structure TWait where
  reason : Stall := .none
  pc : Dword := 0
  deadline : Nat := 0
  since : Nat := 0
  deriving DecidableEq, Repr, Inhabited

/-- A fault that reaches a thread at its next run start (R142, R153). -/
structure Pend where
  cause : Cause := .illegal
  deliv : Nat := 0
  np : Bool := false
  fpc : Dword := 0
  mask : Lanes := 0
  addr : Nat := 0
  detail : Nat := 0
  deriving DecidableEq, Repr, Inhabited

/-- A thread (R165). -/
structure Thread where
  pc : Dword := 0
  repc : Dword := 0
  fpc : Dword := 0
  cause : Dword := 0
  handler : Bool := false
  v : Tab Word := []
  /-- p0-p6; p7 reads true (R11). -/
  p : BitVec 7 := 0
  fpsr : Word := 0
  lfsr : Word := 1
  starve : Nat := 0
  exited : Bool := false
  wait : Option TWait := none
  /-- Faults found late that the thread has not taken, oldest first; none is taken inside its handler (R142, R143). -/
  pends : List Pend := []
  outst : List Outst := []
  /-- Words issued, the model's own count for covers (R318). -/
  issued : Nat := 0
  /-- Its 64-bit register words with wrong check bits: k for v(2k) and v(2k + 1) (R24). -/
  badV : List Nat := []
  deriving DecidableEq, Repr, Inhabited

/-- What a whole quire waits for (Table 5.1: GBAR, CLAIM, PBAR). -/
inductive QWaitKind where
  | gbar (g : Nat)
  | join (g : Nat)
  | claim (n : Nat)
  /-- A claim of path B behind one of path A: it is checked and queued once that is granted (R180). -/
  | reclaim (n : Nat)
  | pbar (id : Nat)
  deriving DecidableEq, Repr, Inhabited

/-- A quire-wide wait, with the lanes and the register that take its status (R370). -/
structure QWait where
  kind : QWaitKind := .claim 0
  lanes : Lanes := 0
  /-- Lanes of the path that issued it. -/
  path : Lanes := 0
  vd : Nat := 0
  pc : Dword := 0
  /-- The arrival counts, or stands in its queue, already: its release is done (R174, R385). -/
  counted : Bool := false
  /-- The count an arrival at a package barrier brings (R385). -/
  count : Nat := 0
  since : Nat := 0
  deriving DecidableEq, Repr, Inhabited

/-- Phase timer (R152). -/
structure PhaseTimer where
  armed : Bool := false
  phid : BitVec 8 := 0
  budget : Word := 0
  /-- COUNT as it stood at tick `asOf`. -/
  count : Nat := 0
  asOf : Nat := 0
  margin : Nat := 0
  deriving DecidableEq, Repr, Inhabited

/-- Results on their way to a quire's registers (R130, R350, R368, R388). -/
structure OnWay where
  /-- What arrives some cycles after its word, in which lanes, and the moment: vector registers from 0, predicates from
  256, scalar registers from 512. -/
  late : List (Nat × Lanes × Nat) := []
  /-- Registers of an outstanding instruction that a later word has written, in which lanes: instruction and register. -/
  stale : List (Nat × Nat × Lanes) := []
  deriving DecidableEq, Repr, Inhabited

/-- A quire in a quire slot (R167, Tables 6.8 and 7.4). -/
structure Quire where
  live : Bool := false
  lk : Nat := 0
  qid : Nat := 0
  gid : Nat := 0
  /-- Share-local number of its initial group (R169). -/
  grp : Nat := 0
  share : Nat := 0
  blocks : Nat := 1
  threads : Tab Thread := []
  /-- s1-s63; s0 reads zero (R11). -/
  sr : Tab Dword := []
  /-- Scalar registers that a copy command will write (R278). -/
  pend : List Nat := []
  atD : Nat := 0
  atP : Nat := 0
  timer : PhaseTimer := {}
  groups : List Nat := []
  waits : List QWait := []
  active : Bool := false
  /-- Order in which it entered the active set (R128). -/
  entered : Nat := 0
  stamp : Nat := 0
  ready : Bool := false
  /-- Stall reason it was last found to hold (R126). -/
  stall : Stall := .none
  /-- The reason it waits for, a resident folio apart, and the cycle in which that wait began (R127). -/
  waitFor : Stall := .none
  waitAt : Nat := 0
  /-- Stopped for pre-emption, and the reason it held then (R159). -/
  stopped : Option Stall := none
  restoring : Bool := false
  /-- Results on their way to its registers (R130). -/
  arriving : OnWay := {}
  deriving DecidableEq, Repr, Inhabited

/-- One path of a run (R131). -/
structure PathRun where
  lanes : Lanes := 0
  pc : Dword := 0
  /-- Words of the run already issued on this path. -/
  pos : Nat := 0
  done : Bool := false
  /-- Moment before which its next word does not issue (R368). -/
  next : Nat := 0
  deriving DecidableEq, Repr, Inhabited

/-- A run in progress (R129, R130). -/
structure Run where
  slot : Nat := 0
  /-- Register blocks its words may name: those the quire had at its start and has kept (R384). -/
  blocks : Nat := 32
  a : PathRun := {}
  b : PathRun := { done := true }
  /-- Path B issues the next word. -/
  turn : Bool := false
  /-- That word of path B shares the cycle of path A's last word (R130, R133). -/
  paired : Bool := false
  /-- The quire as it stood before the cycle (R133, R380). -/
  shadow : Quire := {}
  /-- Scalar registers that path A wrote in this cycle; the vector registers it writes from then on, and in which
  lanes (R133). -/
  aWrote : List Nat := []
  aRegs : List Nat := []
  aLanes : Lanes := 0
  /-- Bank that path A's word of this cycle went to (R133). -/
  aBank : Option Nat := none
  /-- The port stalls since this event (R130, R316). -/
  stalled : Option Nat := none
  deriving DecidableEq, Repr, Inhabited

/-- Share of a launch on a core (R119). -/
structure Share where
  lk : Nat := 0
  /-- Physical bank of each share bank index. -/
  banks : List Nat := []
  clearing : Bool := false
  deriving DecidableEq, Repr, Inhabited

/-- Group record (R169). `share * 64 + number` is its key. -/
structure Group where
  members : Nat := 0
  arrived : Nat := 0
  gph : Nat := 0
  /-- Slots waiting in `join`, in arrival order. -/
  joinq : List Nat := []
  deriving DecidableEq, Repr, Inhabited

/-- Bank states (R214). -/
inductive BMode where
  | storage | toComp | compute | toStor
  deriving DecidableEq, Repr, Inhabited

/-- Work of a bank's order (R230). -/
inductive Work where
  /-- The lane accesses of one instruction, in ascending lane order (R390). -/
  | access (reqs : List Nat)
  | bclr (what : BitVec 4)
  /-- Element, 24-bit draw, participation of each lane (R416). -/
  | bkey (fs : Dword) (kv blk : Nat) (elems : List (Nat × Nat × Bool))
  /-- Block and scale of each participant in range (R417). -/
  | bkscale (kv : Nat) (vals : List (Nat × BitVec 10))
  | bmvm (fs : Dword) (kv g0 ng b0 nb : Nat)
  | bexec (cx : Nat) (cp : List Nat) (lc0 lc1 : Nat) (lt : List Nat) (vd : Nat)
  | micro (w : Dword) (cp : List Nat) (vd : Option Nat)
  | bacc (fs : Dword) (win : Nat) (clr : Bool) (vd : Nat)
  | conv (compute : Bool)
  /-- A chunk of a copy command that writes the bank: bytes, or elements with their scales. -/
  | chunkW (core cmd chunk : Nat) (data : List Byte) (vals : List Nat)
  /-- A chunk of a copy command that reads the bank. -/
  | chunkR (core cmd chunk : Nat)
  deriving DecidableEq, Repr, Inhabited

/-- One item of a bank's order. -/
structure Item where
  work : Work := .bclr 0
  slot : Nat := 0
  lanes : Lanes := 0
  pathLanes : Lanes := 0
  pc : Dword := 0
  lk : Nat := 0
  /-- The instruction, a key of State.ins; 0 when none is outstanding. -/
  ins : Nat := 0
  /-- Moment at which it reached the bank. -/
  since : Nat := 0
  deriving DecidableEq, Repr, Inhabited

/-- Registers of a running microprogram (Table 10.1) and the copy it runs on. -/
structure Micro where
  words : List Dword := []
  cx : Nat := 0
  /-- Which of the slot's copies it runs on (R248). -/
  second : Bool := false
  cp : List Nat := [0, 0, 0, 0]
  bp : List Nat := [0, 0, 0, 0]
  lc : List Nat := [0, 0]
  lr : List Nat := [0, 0]
  rv : List Nat := [0, 0, 0, 0]
  lt : List Nat := []
  ix : Nat := 0
  xc : Nat := 0
  /-- Its last micro-operation is counted and END (false) or CAP (true) is due. -/
  ending : Option Bool := none
  deriving DecidableEq, Repr, Inhabited

/-- One bank (R211, R214, R223-R225, R235, R237). -/
structure Bank where
  mode : BMode := .storage
  /-- Byte 128 * row + byte of the row. -/
  cells : Tab Byte := []
  tags : Tab (BitVec 4) := []
  acc : Tab Word := []
  /-- Scale file, entry 192 b + n (Table 9.4). -/
  scale : Tab (BitVec 16) := []
  /-- Key-scale file, entry 32 v + b (Table 9.3). -/
  kscale : Tab Word := []
  /-- Storage words with wrong check bits: 16 * row + word (R24, R218). -/
  badW : List Nat := []
  /-- Row groups with wrong parity: 8 * row + group (R218). -/
  badG : List Nat := []
  /-- Items not yet performed, oldest first; the head runs when `busy`. -/
  queue : List Item := []
  busy : Bool := false
  /-- Moment up to which its work so far occupies the bank (Table 9.8, R229). -/
  freeAt : Nat := 0
  /-- That item was a pass, whose scale stage the count stage of a next pass overlaps (R229). -/
  lastPass : Bool := false
  micro : Option Micro := none
  /-- Being cleared after its share ended (R119). -/
  clearing : Bool := false
  deriving DecidableEq, Repr, Inhabited

/-- One copy of a Codex user slot. -/
structure Copy where
  words : List Dword := []
  bad : Bool := true
  deriving DecidableEq, Repr, Inhabited

/-- Codex user slot (R247, R248). -/
structure CxSlot where
  owner : Option Nat := none
  first : Copy := {}
  second : Copy := {}
  /-- The second copy is the current one. -/
  cur2 : Bool := false
  /-- Microwords being read or written into the spare copy, and for which instruction. -/
  writing : Option (List Dword × Nat) := none
  deriving DecidableEq, Repr, Inhabited

/-- Heat-entry states (Table 11.2). -/
inductive HeatState where
  | empty | counting | building | bound | unbindable
  deriving DecidableEq, Repr, Inhabited

/-- Heat-table entry (R254, Table 11.2). -/
structure Heat where
  state : HeatState := .empty
  share : Nat := 0
  lk : Nat := 0
  header : Dword := 0
  /-- The latch, once a branch or a search found it. -/
  latch : Option Dword := none
  count : Nat := 0
  reason : Nat := 0
  folio : Nat := 0
  ii : Nat := 0
  nops : Nat := 0
  nmem : Nat := 0
  requested : Bool := false
  /-- When it was last raised (R254). -/
  raised : Nat := 0
  /-- 64 KiB pages whose walk failed for its build (R260). -/
  badPages : List Nat := []
  deriving DecidableEq, Repr, Inhabited

/-- Folio of the folio store (R263). -/
structure Folio where
  entry : Nat := 0
  header : Dword := 0
  latch : Dword := 0
  words : List Dword := []
  share : Nat := 0
  lk : Nat := 0
  ii : Nat := 1
  /-- The iteration depth D (R262). -/
  depth : Nat := 0
  valid : Bool := true
  lastResident : Nat := 0
  deriving DecidableEq, Repr, Inhabited

/-- An iteration of a folio under way beside the one whose words issue: its thread, the thread as its last retired iteration
left it, and its run, none once its words have all issued (R265). -/
structure Flight where
  slot : Nat
  lane : Nat
  snap : Thread
  run : Option Run := none
  deriving DecidableEq, Repr, Inhabited

/-- The resident folio (R264-R267). -/
structure Resident where
  folio : Nat := 0
  /-- Threads in the folio: slot and lane. -/
  threads : List (Nat × Nat) := []
  /-- The thread whose iteration runs, as its last retired iteration left it (R265, R269). -/
  cur : Option (Nat × Nat × Thread) := none
  /-- The other iterations under way, of other threads (R265). -/
  flight : List Flight := []
  /-- Moments from which each thread, by 32 * slot + lane, may start another iteration and has decided the exits of its last
  one (R262, R265). -/
  starts : Tab (Nat × Nat) := []
  /-- The thread that started an iteration last, as 32 * slot + lane (R265). -/
  last : Nat := 2047
  /-- Cycles of the slice spent at tick `asOf` (R267). -/
  cycles : Nat := 0
  asOf : Nat := 0
  /-- No iteration starts any more (R267, R270). -/
  draining : Bool := false
  /-- It yields at the end of its slice (R134). -/
  yields : Bool := false
  deriving DecidableEq, Repr, Inhabited

/-- Copy commands (Table 12.1). -/
inductive CmdKind where
  | cp | cp2d | cpbank | cpfill | cpretile | cpkey
  deriving DecidableEq, Repr, Inhabited

/-- A command of a copy engine (R272-R277). -/
structure Cmd where
  id : Nat := 0
  kind : CmdKind := .cp
  db : Bool := false
  sa : Dword := 0
  sd : Dword := 0
  sl : Dword := 0
  sl1 : Dword := 0
  fs : Dword := 0
  vs : Nat := 0
  acq : Bool := false
  rel : Bool := false
  scope : Nat := 0
  lk : Nat := 0
  slot : Nat := 0
  qid : Nat := 0
  gid : Nat := 0
  share : Nat := 0
  pc : Dword := 0
  lanes : Lanes := 0
  /-- Commands of the launch the engine accepted before (R300). -/
  number : Nat := 0
  atD : Nat := 0
  atP : Nat := 0
  /-- Its acquire has been performed. -/
  ready : Bool := true
  nchunks : Nat := 0
  /-- Unstarted chunks of the owner. -/
  todo : List Nat := []
  /-- Unstarted chunks that other engines of the die stole: core and chunk (R276). -/
  stolen : List (Nat × Nat) := []
  /-- Chunks in flight: the core whose engine performs each, and the chunk. -/
  flying : List (Nat × Nat) := []
  /-- Chunks performed. -/
  finished : List Nat := []
  failed : Option Cause := none
  addr : Nat := 0
  /-- Chunks that failed, and the stream bytes each had written (R277). -/
  part : List (Nat × Nat) := []
  /-- DATA, DIM0, DIM1, STRIDE1 and SCALES of the shape record (R279). -/
  shape : List Nat := []
  /-- LAYOUT.TAG as read at the start (R280). -/
  layoutTag : Dword := 0
  /-- Largest GWCT of its writes (R204). -/
  gwct : Nat := 0
  /-- The release of R204 is under way or done. -/
  releasing : Bool := false
  /-- Pages whose walk failed for a chunk: chunk, 64 KiB page, cause (R66). -/
  walkBad : List (Nat × Nat × Cause) := []
  /-- Bytes that chunks have read from a bank and not yet written. -/
  got : Tab (List Byte) := []
  deriving DecidableEq, Repr, Inhabited

/-- A cached line with its lease (R186). -/
structure Line where
  data : List Byte := []
  g : Nat := 0
  x : Nat := 0
  f : Nat := 0
  /-- Its 64-bit words that hold an uncorrectable error (R24, Table 1.7). -/
  bad : List Nat := []
  /-- Order in which the homes served the fills, so that an older fill is told from a newer one (R186). The model's own (log
  entry 6). -/
  serial : Nat := 0
  deriving DecidableEq, Repr, Inhabited

/-- A TLB entry (R65). -/
structure TlbEntry where
  ctx : Nat := 0
  va : Nat := 0
  /-- log2 of the page size. -/
  lg : Nat := 16
  leaf : Dword := 0
  /-- Physical address of the leaf entry. -/
  entryPa : Nat := 0
  aged : Bool := false
  deriving DecidableEq, Repr, Inhabited

/-- One core (R13, R124, R176). -/
structure Core where
  quires : Tab Quire := []
  run : Option Run := none
  /-- The run that issues next gives way to arbitration bookkeeping (R128). -/
  promo : Nat := 0
  enterCount : Nat := 0
  freeBlocks : Nat := 512
  /-- Blocks being cleared, and the instructions whose results they wait for (R166, R177). -/
  clearing : List (Nat × List Nat) := []
  /-- Slots with a queued claim, in order (R179). -/
  claims : List Nat := []
  shares : Tab Share := []
  groups : Tab Group := []
  banks : Tab Bank := []
  codex : Tab CxSlot := []
  heatReg : BitVec 16 := 4096
  bindSel : BitVec 4 := 0
  heat : Tab Heat := []
  building : Option Nat := none
  folios : Tab Folio := []
  resident : Option Resident := none
  /-- Slots that must issue a run before a folio may become resident again (R134). -/
  bar : List Nat := []
  /-- A folio has just yielded: the bar is yet to lose the quires that are not ready (R134). -/
  yielded : Bool := false
  cmds : List Cmd := []
  /-- Commands accepted for each launch (R300). -/
  accepted : Tab Nat := []
  racva : BitVec 52 := 0
  l1 : Tab Line := []
  icache : Tab Line := []
  tlb : List TlbEntry := []
  /-- Reserved by a dispatcher for a launch (R121). -/
  reserved : Option Nat := none
  /-- Reserved by X-die 0 for the shares of a launch that it restores (R123). -/
  restoreFor : Option Nat := none
  deriving DecidableEq, Repr, Inhabited

/-- WAYRES register (Table 3.13). -/
structure WayRes where
  base : Nat := 0
  size : Nat := 0
  ways : Nat := 0
  k : Nat := 0
  ctx : Nat := 0
  deriving DecidableEq, Repr, Inhabited

/-- One C-die: die cache, TLB, dispatcher, collector (R13, R65, R118-R122, R158). -/
structure Die where
  cache : Tab Line := []
  /-- Lines of each set of the die cache, most recently used first, and the WAYRES register that retains each (R81). -/
  sets : Tab (List (Nat × Option Nat)) := []
  tlb : List TlbEntry := []
  wayres : Tab WayRes := []
  /-- Largest GWCT answered for the stores and atomics it forwarded (R194). -/
  gwctMax : Nat := 0
  /-- Last core each launch was placed on (R118). -/
  lastCore : Tab Nat := []
  lastPlace : Nat := 0
  /-- The reserved core, the launch it waits for and since when (R121). -/
  resv : Option (Nat × Nat × Nat) := none
  /-- A steal under way: launch, victim die, group indices (R120). -/
  stealing : Option (Nat × Nat × List Nat) := none
  preemptAsked : Option Nat := none
  /-- Deviation of NOW from X-die 0 that it slews to, where it slews from, and since when (R19, R20). -/
  dev : Int := 0
  devFrom : Int := 0
  devAt : Nat := 0
  /-- Failed by its time base (R20). -/
  failed : Bool := false
  deriving DecidableEq, Repr, Inhabited

/-- Where a request stands. -/
inductive Stage where
  /-- Behind an earlier release or `hflush` of its thread (R195, R403). -/
  | hold
  /-- Waiting for a page walk (R66). -/
  | walk
  /-- On its way to its home, or in it. -/
  | home
  /-- In the work order of a bank. -/
  | bank
  /-- Held by a migration (R74). -/
  | held
  /-- Waiting for the host's answer to a snoop (R86). -/
  | snoop
  /-- Waiting for a read of host memory (R185). -/
  | host
  /-- Sent to another device (R54). -/
  | remote
  /-- Answered: the response is on its way. -/
  | resp
  deriving DecidableEq, Repr, Inhabited

/-- Who makes a request. -/
inductive Agent where
  | thread
  /-- The fetch of an instruction word. -/
  | fetch
  /-- A chunk of a copy command: the core that owns the command, the command, the chunk (R275). -/
  | chunk (owner cmd chunk : Nat)
  /-- A spill or a refill of a stream queue (R287). -/
  | queue (q : Nat) (refill : Bool)
  /-- X-die 0's own logic (R89, R111). -/
  | logic
  /-- The host, in its window (R86). -/
  | host
  deriving DecidableEq, Repr, Inhabited

/-- A request to a home, one for each lane and line of an access (R190, R191, R202). -/
structure Req where
  agent : Agent := .thread
  stage : Stage := .home
  kind : ReqKind := .read
  /-- Core and slot and lane of the thread; core 640 and above: no core. -/
  core : Nat := 640
  slot : Nat := 0
  lane : Nat := 0
  /-- Die whose NOW and counters govern it (R71). -/
  die : Nat := 0
  lk : Nat := 0
  /-- The quire that issued it, as its records name it (R147). -/
  qid : Nat := 0
  gid : Nat := 0
  ctx : Nat := 0
  /-- Physical bank of a bank access (R206). -/
  bank : Nat := 0
  /-- The instruction, a key of State.ins. -/
  ins : Nat := 0
  pc : Dword := 0
  space : Nat := 0
  va : Nat := 0
  pa : Nat := 0
  /-- What its translation found against it, while other accesses of its instruction are being translated (R392). -/
  fails : Option Cause := none
  /-- Bytes of this piece, and its place in the access. -/
  size : Nat := 0
  off : Nat := 0
  data : List Byte := []
  mask : List Bool := []
  aop : Nat := 0
  order : Nat := 0
  scope : Nat := 0
  q : Nat := 0
  g : Nat := 0
  x : Nat := 0
  /-- Place of its service among the fills (R186). The model's own (log entry 6). -/
  serial : Nat := 0
  gwct : Nat := 0
  lclass : Nat := 0
  /-- Old value or read data of the response; status (Table 2.3). -/
  answer : List Byte := []
  status : Nat := 0
  issued : Nat := 0
  /-- A store passed the L1, or the die cache, since it left (R189). -/
  passedL1 : Bool := false
  passedDie : Bool := false
  prefetch : Bool := false
  dieOnly : Bool := false
  notify : Bool := false
  /-- Source device of a request that came in on a Hyley port. -/
  srcDev : Option Nat := none
  /-- Timed out or answered with ERR (R194). -/
  lost : Bool := false
  /-- Order of arrival at a home that made it wait; 0: it did not wait. The model's own (log entry 6). -/
  ticket : Nat := 0
  /-- Tag of a request of another device, and the die of it that asks (R38). -/
  tag : Nat := 0
  farDie : Nat := 0
  /-- Ticks that a miss in its home slice adds to its response (Table 3.1). -/
  miss : Nat := 0
  deriving DecidableEq, Repr, Inhabited

/-- What a load, atomic, or bank instruction does with its result. -/
inductive Result where
  | discard
  /-- Size code, destination group (R390). -/
  | load (size vt : Nat)
  /-- Microwords of a `bcodex`: slot and number (R421). -/
  | codex (cx n : Nat)
  deriving DecidableEq, Repr, Inhabited

/-- An instruction whose accesses are under way: one issue of one path. -/
structure Ins where
  core : Nat := 0
  slot : Nat := 0
  /-- Lanes of the path that issued it, and participants. -/
  path : Lanes := 0
  lanes : Lanes := 0
  pc : Dword := 0
  result : Result := .discard
  /-- Accesses not yet answered. -/
  left : Nat := 0
  /-- Bytes that arrived: key lane * 64 + byte. -/
  buf : Tab Byte := []
  bad : Lanes := 0
  cause : Cause := .ecc
  addr : Nat := 0
  detail : Nat := 0
  acq : Bool := false
  scope : Nat := 0
  /-- Lanes of an `ldp` with bytes beyond the window (R396). -/
  pbnd : Lanes := 0
  /-- NOW at which a bank's data or result is written (R213, R412). -/
  arrives : Nat := 0
  /-- The launch and the quire that issued it (R147). -/
  lk : Nat := 0
  qid : Nat := 0
  gid : Nat := 0
  /-- How many words each thread of its path had issued before it (R137). -/
  marks : List (Nat × Nat) := []
  deriving DecidableEq, Repr, Inhabited

/-- Fields of a fault record (Table 6.4) but for VALID, INHDL's quire fields included. -/
structure FaultRec where
  cause : Cause := .link
  deliv : Nat := 0
  isFatal : Bool := true
  exited : Bool := false
  inHdl : Bool := false
  die : Nat := 0
  core : Nat := 63
  mask : Lanes := 0
  lid : Nat := 0
  slot : Nat := 0
  stall : Nat := 0
  phid : Nat := 0
  qid : Nat := 0
  gid : Nat := 0
  fpc : Dword := 0
  repc : Dword := 0
  addr : Nat := 0
  time : Nat := 0
  detail : Nat := 0
  deriving DecidableEq, Repr, Inhabited

/-- What happens when a wait on completion times is over (R194-R197, R204). -/
inductive Goal where
  /-- A request of a thread with release order may be sent; later ones of the thread wait for it. -/
  | send (core slot lane req : Nat)
  /-- A fence of a thread is performed; `acq`: it ends with an acquire. -/
  | fence (core slot lane ins : Nat) (acq : Bool) (scope : Nat)
  /-- The acquire of a fence, which waits for earlier loads alone. -/
  | acquire (core slot lane ins scope : Nat)
  /-- A group-barrier arrival counts (R174). -/
  | gbar (core slot g : Nat)
  /-- A package-barrier arrival is sent (R385). -/
  | pbar (core slot id : Nat)
  /-- The acquire of a copy command (R204). -/
  | cmdAcq (core cmd : Nat)
  /-- The release of a copy command (R204). -/
  | cmdRel (core cmd : Nat)
  /-- A push with release (R289). -/
  | push (core slot : Nat)
  /-- The drain of a pre-emption (R160). -/
  | drain (lk : Nat)
  /-- Step 1 of retirement (R111). -/
  | retire (lk : Nat)
  /-- `hflush` of a thread (R403). -/
  | hflush (core slot lane ins : Nat)
  /-- The response to a request of another device (R208). -/
  | remote (req : Nat)
  /-- The completion of a host-window write to the host (R86). -/
  | hostWrite (line : Nat)
  /-- A chunk of a copy command looks again whether it may go on (R74, R185, R189). -/
  | chunk (core cmd chunk : Nat)
  /-- The retire add of a launch has been answered; `ok`: its home has applied it (R111). -/
  | added (lk : Nat) (ok : Bool)
  /-- The release before the add of an HNOTIFY value (R89). -/
  | hadd (ctx : Nat) (v : Dword)
  deriving DecidableEq, Repr, Inhabited

/-- A wait for responses and for a completion time. -/
structure Wait where
  goal : Goal := .drain 0
  /-- Requests that have not been sent, and requests whose response is missing. -/
  sends : List Nat := []
  reqs : List Nat := []
  /-- Their largest GWCT so far. -/
  need : Nat := 0
  die : Nat := 0
  /-- The quire it is of: launch, QID and GID. Another quire may have its slot by now (R166). -/
  owner : Option (Nat × Nat × Nat) := none
  deriving DecidableEq, Repr, Inhabited

/-- Launch states (Table 4.7). -/
inductive LState where
  | queued | waiting | leasing | checking | ready | running | preempted | done
  | fRecord | fPageReq | fLayout | fFault | fKilled
  deriving DecidableEq, Repr, Inhabited

/-- Fields of a launch record (Table 4.8). -/
structure Record where
  code : Dword := 0
  entry : Nat := 0
  handler : Nat := 0xFFFFFFFF
  groups : Nat := 1
  qpg : Nat := 1
  blocks : Nat := 1
  nbank : Nat := 0
  prio : Nat := 0
  failAdd : Bool := false
  bmode : Nat := 0
  bindThr : Nat := 0
  phMargin : Nat := 0
  ndep : Nat := 0
  fslot : List Dword := []
  pwBase : List Dword := []
  pwSize : List Nat := []
  rangeCnt : Nat := 0
  layCnt : Nat := 0
  layPtr : Dword := 0
  /-- Bindings: queue number and end, for those in use. -/
  binds : List (Option (Nat × Bool)) := []
  retPtr : Dword := 0
  retAdd : Dword := 0
  deps : List (Dword × Dword) := []
  deriving DecidableEq, Repr, Inhabited

/-- Declared range (Table 4.10). -/
structure Range where
  base : Nat := 0
  npage : Nat := 0
  lclass : Nat := 0
  rd : Bool := false
  wr : Bool := false
  ex : Bool := false
  deriving DecidableEq, Repr, Inhabited

/-- Required layout (R108). -/
structure Layout where
  shape : Dword := 0
  rkind : Nat := 0
  rform : Nat := 0
  deriving DecidableEq, Repr, Inhabited

/-- Package barrier (R385). -/
structure PBar where
  n : Option Nat := none
  arrived : Nat := 0
  phase : Nat := 0
  /-- Quires counted and not released: core and slot. -/
  waiters : List (Nat × Nat) := []
  deriving DecidableEq, Repr, Inhabited

/-- Saved share of a pre-empted launch (R161, R163). -/
structure SavedShare where
  core : Nat := 0
  share : Nat := 0
  quires : Tab Quire := []
  groups : Tab Group := []
  banks : List Bank := []
  codex : Tab CxSlot := []
  cmds : List Cmd := []
  /-- Commands the launch's share had accepted (R300). -/
  accepted : Nat := 0
  claims : List Nat := []
  /-- Physical banks it had, by share bank index. -/
  phys : List Nat := []
  deriving DecidableEq, Repr, Inhabited

/-- A launch (R93-R113). -/
structure Launch where
  ctx : Nat := 0
  lid : Nat := 0
  state : LState := .queued
  cause : Option Cause := none
  /-- Acceptance order (R115). -/
  order : Nat := 0
  recPtr : Dword := 0
  argPtr : Dword := 0
  rcd : Record := {}
  ranges : List Range := []
  layouts : List Layout := []
  /-- The record was read and its retire fields may be used (R111). -/
  recOk : Bool := false
  /-- Dependences seen satisfied (R110). -/
  depsMet : List Nat := []
  /-- Page requests open: sequence number, first unit, units, permissions (R103, R104). -/
  requests : List (Nat × Nat × Nat × Nat) := []
  /-- Page requests not yet written: first unit, units, permissions (R103). -/
  asks : List (Nat × Nat × Nat) := []
  /-- Unplaced initial groups of each die (R116). -/
  unplaced : Tab (List Nat) := []
  readyAt : Nat := 0
  /-- When stolen groups came to a die that had none of its own (R121). -/
  dieAt : Tab Nat := []
  quires : Nat := 0
  pbars : Tab PBar := []
  stopping : Bool := false
  /-- Dies that COLLECT has reached (R158). -/
  collecting : List Nat := []
  /-- Die collectors that acknowledged (R158). -/
  acked : List Nat := []
  drained : Bool := false
  saved : List SavedShare := []
  /-- Queue whose watermark started it (R113). -/
  arrival : Option Nat := none
  /-- Ended by a fatal cause: retirement goes on with this state. -/
  ending : Option LState := none
  /-- Step 1 of retirement is under way. -/
  retiring : Bool := false
  deriving DecidableEq, Repr, Inhabited

/-- A notify or HNOTIFY store that has not taken effect. -/
structure Notify where
  recPtr : Dword := 0
  argPtr : Dword := 0
  /-- Request of the device store that waits with it (R395). -/
  req : Option Nat := none
  deriving DecidableEq, Repr, Inhabited

/-- A context: its table entry and its launch page (Tables 4.4 and 4.5). -/
structure Ctx where
  v : Bool := false
  gen : BitVec 8 := 0
  pmax : BitVec 2 := 0
  pvic : Bool := false
  vec : BitVec 6 := 0
  root : BitVec 32 := 0
  frbase : Dword := 0
  frLog2 : BitVec 5 := 0
  frTail : BitVec 16 := 0
  frLost : BitVec 16 := 0
  lid : Word := 0
  query : Word := 0
  ndrop : Bool := false
  pdrop : Bool := false
  nextLid : Nat := 1
  /-- Notify stores behind 64 held launches, in arrival order (R93). -/
  waiting : List Notify := []
  /-- HNOTIFY values that have not taken effect, oldest first (R89). -/
  hnotify : List Dword := []
  /-- States of the 256 most recent launch IDs: STATE and CAUSE codes, newest first (R95). -/
  kept : List (Nat × Nat × Nat) := []
  /-- Next page-request sequence number (R103). -/
  seq : Nat := 0
  /-- RIDs issued in this generation: sequence number and launch ID. -/
  rids : List (Nat × Nat) := []
  /-- Resident-range cache: first unit, units, permissions (R102). -/
  resident : List (Nat × Nat × Nat) := []
  deriving DecidableEq, Repr, Inhabited

/-- A stream-queue slot that a push has had accepted and that has not been written at the consumer end. -/
structure Slot where
  bytes : List Byte := []
  /-- The release that holds it, 0 for none (R289). -/
  hold : Nat := 0
  /-- 0: not sent; 1: on its route; 2: at the consumer end. -/
  stage : Nat := 0
  /-- Names its flits. -/
  tok : Nat := 0
  /-- The push it came from: address, launch, slot, quire, group and lanes, for a fault record (R146). -/
  pc : Dword := 0
  lk : Nat := 0
  slot : Nat := 0
  qid : Nat := 0
  gid : Nat := 0
  lanes : Lanes := 0
  /-- The lowest lane of the push was in its handler. -/
  inHdl : Bool := false
  deriving DecidableEq, Repr, Inhabited

/-- A stream queue: descriptor (Table 12.2) and content (R286, R287). -/
structure Queue where
  v : Bool := false
  err : Bool := false
  ctx : Nat := 0
  pdie : Nat := 0
  cdie : Nat := 0
  ccore : Nat := 0
  sbase : Nat := 0
  nslot : Nat := 0
  allow : Nat := 0
  ring : Dword := 0
  quota : Nat := 0
  alrec : Dword := 0
  wmark : Nat := 0
  arm : Bool := false
  binds : Nat := 0
  /-- A launch binds the consumer end. -/
  consumer : Option Nat := none
  /-- Accepted slots on their way, oldest first. -/
  flying : List Slot := []
  /-- Slots in queue SRAM, oldest first, and whether each holds an uncorrectable error (R24). -/
  sram : List (List Byte × Bool) := []
  /-- Ring positions: index of the head and slots held (SPILLED). -/
  ringHead : Nat := 0
  spilled : Nat := 0
  /-- The pushes of the slots in the ring, oldest first, without their bytes (R146). -/
  pushed : List Slot := []
  /-- A refill from the ring is in flight. -/
  refilling : Bool := false
  /-- A walk for a ring slot has failed, and the failed die it needed, if it was for that (R66, R283). -/
  walkBad : Option (Option Nat) := none
  /-- Offsets above 0 whose last write while V = 0 had a nonzero reserved field (R283). -/
  resBad : List Nat := []
  frozen : Bool := false
  /-- The arrival launch that is live (R290). -/
  alive : Option Nat := none
  /-- Stream slot bound on each link of the route: link and slot (R283). -/
  streams : List (Nat × Nat) := []
  deriving DecidableEq, Repr, Inhabited

/-- A flit on a link: class, type, sequence number, stream, length, payload, and the CRC-32C it carries (R36, Tables 2.1,
2.3). -/
structure Flit where
  seq : Nat := 0
  cls : Nat := 0
  typ : Nat := 0
  sid : Nat := 0
  len : Nat := 0
  payload : List Byte := []
  crc : Nat := 0
  /-- The message it is part of: a request, or a queue slot's token. The model's own (log entry 6), as the next four. -/
  msg : Nat := 0
  /-- The final flit of its message. -/
  last : Bool := true
  /-- Die the message goes to; 32 + p: out of Hyley port p. -/
  dst : Nat := 0
  /-- Link and stream slot it came by, whose allowance it holds (R49). -/
  up : Option (Nat × Nat) := none
  /-- What a CTRL message makes due where it arrives. -/
  ctrl : Option (Here × Instr) := none
  deriving DecidableEq, Repr

/-- One direction of a bridge or Hyley port: its sender and its receiver (R41-R49). -/
structure Link where
  /-- 64, 32, or 0 for down (R46). -/
  lanes : Nat := 64
  training : Bool := false
  -- sender
  nextSeq : Nat := 0
  retry : List Flit := []
  /-- Flits that wait to be sent, and LINK flits. -/
  txq : List Flit := []
  linkq : List Flit := []
  /-- Flits to send again, oldest first (R42). -/
  resend : List Flit := []
  rot : Nat := 0
  lastSid : Nat := 0
  lastHeard : Nat := 0
  /-- Tick in which it last sent, and flits sent in it (R35). -/
  burst : Nat × Nat := (0, 0)
  /-- Allowance and unreturned flits of the stream slots (R49). -/
  allow : Tab (Nat × Nat) := []
  -- wire and receiver
  wire : List Flit := []
  expected : Nat := 0
  recovering : Bool := false
  naks : List Nat := []
  unacked : Nat := 0
  lastAck : Nat := 0
  rx : List Flit := []
  /-- Messages, by class and number, of which a flit was discarded (R40). -/
  drop : List (Nat × Nat) := []
  deriving DecidableEq, Repr, Inhabited

/-- TLBINV instance of one writer (Table 3.8). -/
structure TlbInv where
  page : Nat := 0
  ctx : Nat := 0
  all : Bool := false
  ign : Bool := false
  pend : Bool := false
  deriving DecidableEq, Repr, Inhabited

/-- A page move of a migration engine (R74). -/
structure Move where
  ctx : Nat := 0
  va : Nat := 0
  lg : Nat := 16
  entryPa : Nat := 0
  old : Dword := 0
  new : Dword := 0
  start : Nat := 0
  /-- Switched; the invalidation is awaited. -/
  switched : Bool := false
  /-- Held requests in arrival order. -/
  held : List Nat := []
  deriving DecidableEq, Repr, Inhabited

/-- Remote-access record (Table 3.9). -/
structure Rac where
  loc : BitVec 24 := 0
  rem : BitVec 24 := 0
  last : BitVec 5 := 0
  deriving DecidableEq, Repr, Inhabited

/-- Trust processor, service firmware and fuses (R26-R33). -/
structure Trust where
  /-- 0: the unit on X-die 0; 1: the spare (R27). -/
  active : Nat := 0
  booted : Bool := false
  /-- Waits for a recovery image of a class (R28): 0 trusted, 1 service. -/
  awaiting : Option Nat := some 0
  flashTrusted : Option Image := none
  flashService : Option Image := none
  fuseTrusted : Nat := 0
  fuseService : Nat := 0
  /-- Fuse-held alarm policy: Record instead of Erase (R32). -/
  record : Bool := false
  /-- The service firmware image that runs (R32). -/
  service : Option Image := none
  meas : Tab (BitVec 384) := []
  /-- The volatile key store holds the keys of this boot (R31-R33). -/
  keys : Bool := false
  erased : Bool := false
  cycles : Nat := 0
  telemetry : Nat := 0
  deriving DecidableEq, Repr, Inhabited

/-- The boot ROM starts: its self-test picks the trust processor, which measures the ROM with that choice and the fused
values (R27, R30, Table 1.8). -/
def Trust.start (t : Trust) : Trust :=
  let t := { t with active := if Config.selfTest t.cycles then 0 else 1 }
  { t with meas := [(1, Config.sha384 (Config.romIdentity ++ [BitVec.ofNat 8 t.active])),
                    (4, Config.fuseDigest t.fuseTrusted t.fuseService t.record)] }

/-- A message of the device to the host (R31, R84, R40, R78). -/
inductive Message where
  | msix (vector : Nat)
  | doe (kind : Nat) (body : List Byte)
  | ras (code unit : Nat)
  /-- A relocation request: context, virtual address, kind (R78). -/
  | relocate (ctx va kind : Nat)
  /-- A back-invalidate snoop (R86), a read of host memory (R185). -/
  | snoop (line : Nat)
  /-- The CXL completion of a host-window write (R86). -/
  | completion (line : Nat)
  /-- A flit that leaves by a Hyley port (R36, R52). -/
  | flit (port : Nat) (bytes : List Byte)
  deriving DecidableEq, Repr, Inhabited

/-- The part. -/
structure State where
  power : Bool
  /-- NOW of X-die 0 in ticks (R19). -/
  now : Nat
  /-- Parts of the present tick that have gone, of `tickParts`: the model's own (log entry 3). -/
  frac : Nat
  /-- Steps that are due: the model's own (log entry 1). -/
  agenda : List Due
  here : Here
  /-- Core whose port moves next: the model's own (log entry 1). -/
  focus : Nat
  /-- Steps taken other than issued words: the model's own (log entry 1). -/
  events : Nat
  /-- Numbers given out: the model's own (log entry 6). -/
  fresh : Nat
  /-- Undefined values given out: the model's own (log entry 6). -/
  undefs : Nat
  mem : List Host.Cell
  poison : List Nat
  /-- Bit errors that a correction will remove, as ErrLoc (R24, R25). -/
  latent : List ErrLoc
  cores : Tab Core
  dies : Tab Die
  launches : Tab Launch
  ctxs : Tab Ctx
  reqs : Tab Req
  ins : Tab Ins
  waits : Tab Wait
  /-- Latest expiry granted on each line (R190). -/
  lease : Tab Nat
  /-- Lines of each set of the home slices, most recently used first, and the eviction mark of each set (R190); the
  sets of M-die m begin at m * 32,768. -/
  slices : Tab (List Nat)
  marks : Tab Nat
  /-- HLX (R89). -/
  hlx : Nat
  /-- Host-window lines the host may cache (R86). -/
  hostCached : List Nat
  queues : Tab Queue
  links : Tab Link
  rac : Tab Rac
  moves : Tab Move
  tlbinv : Tab TlbInv
  /-- Walks in progress: die, context and 64 KiB page, oldest first (R66). -/
  walks : List (Nat × Nat × Nat)
  trust : Trust
  ready : Bool
  bridgeDown : Bool
  hostLinkDown : Bool
  outbox : List Message
  /-- MHZ of the islands (Table 1.3). -/
  mhz : Tab Nat
  paused : List Nat
  /-- Package power limit in watts, as the host has set it (R22). -/
  powerLimit : Nat
  sweepPeriod : Word
  /-- MSI-X table, by 64-bit word (Table 4.1). -/
  msixTable : Tab Dword
  /-- MSI-X pending-bit array (Table 4.1). -/
  pba : BitVec 64
  geomMdie : BitVec 8
  geomAnnex : BitVec 8
  geomGen : BitVec 16
  /-- Channels in service of each M-die (R71). -/
  channels : Tab Nat
  domDev : BitVec 11
  domValid : Bool
  domUp : BitVec 6
  /-- Usable Hyley ports of each device ID (R54). -/
  ports : Tab (List Nat)
  leaseCap : BitVec 2
  /-- The CAP that Lmax keeps, and until when (R187). -/
  leaseOld : BitVec 2
  leaseUntil : Nat
  margin : BitVec 16
  prqBase : BitVec 35
  prqLog2 : BitVec 5
  prqHead : BitVec 16
  prqTail : BitVec 16
  acceptCount : Nat
  /-- Launch that X-die 0 restores (R123). -/
  restoring : Option Nat
  /-- Fatal faults on their way to X-die 0, oldest first: launch and record (R148, R150). -/
  fatal : List (Nat × FaultRec)
  /-- Fault records that wait for the lines of their slots, oldest first: context and record (R151, R185). -/
  records : List (Nat × FaultRec)
  deriving DecidableEq, Repr

/-- The state after package reset (R33): the values the spec states, and those that
notes/assumptions/2.md names where it states none. -/
def State.reset : State :=
  { power := true, now := 0, frac := 0,
    agenda := [{ tick := 40, here := {}, what := .timeCompare }, { tick := 1000000, here := {}, what := .sweep },
      { tick := 100000000, here := {}, what := .patrolScrub }], here := {}, focus := 0, events := 0, fresh := 1,
    undefs := 0, mem := [], poison := [], latent := [], cores := [], dies := [], launches := [],
    ctxs := [], reqs := [], ins := [], waits := [], lease := [], slices := [], marks := [], hlx := 0, hostCached := [],
    queues := [], links := [], rac := [], moves := [], tlbinv := [], walks := [], trust := Trust.start {},
    ready := false, bridgeDown := false, hostLinkDown := false, outbox := [], mhz := [], paused := [], powerLimit := 2800,
    sweepPeriod := 1000, msixTable := [], pba := 0, geomMdie := 0xFF, geomAnnex := 0, geomGen := 0,
    channels := [], domDev := 0, domValid := false, domUp := 0, ports := [], leaseCap := 2,
    leaseOld := 2, leaseUntil := 0, margin := 8, prqBase := 0, prqLog2 := 0, prqHead := 0, prqTail := 0,
    acceptCount := 0, restoring := none, fatal := [], records := [] }

end Sys2Proof.Machine
end

