-- ==== Sys2Proof/Machine/Ops.lean ====
section
/-! DEFINITION. Named operations over the state: memory by physical address, unit accessors, the agenda,
numbers given out, taking a fault and returning from one, fault records, the end of a launch. -/

namespace Sys2Proof.Machine

-- ## Bytes

/-- Little-endian number of a list of bytes (R3). -/
def leNat : List Byte → Nat
  | [] => 0
  | x :: xs => x.toNat + 256 * leNat xs

/-- `n` bytes of a number, little-endian (R3). -/
def toLe : Nat → Nat → List Byte
  | 0, _ => []
  | n + 1, x => BitVec.ofNat 8 x :: toLe n (x / 256)

/-- Bits [lo + n - 1 : lo] of a number. -/
def bitsOf (x lo n : Nat) : Nat := x / 2 ^ lo % 2 ^ n

/-- `n` bytes from place `k` of a list, zero beyond its end. -/
def slice (bs : List Byte) (k n : Nat) : List Byte := (List.range n).map (fun j => bs.getD (k + j) 0)

/-- A list with its entries from place `k` on replaced by `new`. -/
def splice {α : Type} (xs : List α) (k : Nat) (new : List α) : List α :=
  xs.take k ++ new ++ xs.drop (k + new.length)

-- ## Memory (R57): canonical, addresses rising, no entry zero

/-- The byte at an address; one that is not listed reads zero (log entry 4). -/
def memGet : List Host.Cell → Nat → Byte
  | [], _ => 0
  | (k, v) :: t, a => if a = k then v else if a < k then 0 else memGet t a

/-- The cells above an address. -/
def memAbove (a : Nat) : List Host.Cell → List Host.Cell
  | [] => []
  | (k, v) :: t => if k ≤ a then memAbove a t else (k, v) :: t

/-- The memory with one byte written. -/
def memPut : List Host.Cell → Nat → Byte → List Host.Cell
  | [], a, b => if b = 0 then [] else [(a, b)]
  | (k, v) :: t, a, b =>
    if a < k then (if b = 0 then (k, v) :: t else (a, b) :: (k, v) :: t)
    else if a = k then (if b = 0 then memAbove a t else (a, b) :: t)
    else (k, v) :: memPut t a b

/-- The canonical form: addresses strictly rising, no listed byte zero. -/
def Memory.wf : List Host.Cell → Bool
  | [] => true
  | [(_, v)] => v != 0
  | (k, v) :: (k', v') :: t => v != 0 && decide (k < k') && Memory.wf ((k', v') :: t)

/-- Writes bytes from an address on. -/
def memPuts : List Host.Cell → Nat → List Byte → List Host.Cell
  | m, _, [] => m
  | m, a, b :: bs => memPuts (memPut m a b) (a + 1) bs

/-- One byte of memory. -/
def State.byte (s : State) (a : Nat) : Byte := memGet s.mem a
/-- `n` bytes of memory. -/
def State.bytes (s : State) (a n : Nat) : List Byte := (List.range n).map (fun k => s.byte (a + k))
/-- Memory with bytes written. -/
def State.setBytes (s : State) (a : Nat) (bs : List Byte) : State := { s with mem := memPuts s.mem a bs }
/-- The little-endian number of `n` bytes of memory. -/
def State.num (s : State) (a n : Nat) : Nat := leNat (s.bytes a n)

-- ## Units

/-- A core. -/
def State.core (s : State) (c : Nat) : Core := s.cores.get {} c
/-- The state with a core replaced. -/
def State.setCore (s : State) (c : Nat) (k : Core) : State := { s with cores := s.cores.set c k }
/-- A die. -/
def State.die (s : State) (d : Nat) : Die := s.dies.get {} d
/-- The state with a die replaced. -/
def State.setDie (s : State) (d : Nat) (k : Die) : State := { s with dies := s.dies.set d k }
/-- A launch by its key. -/
def State.launch (s : State) (lk : Nat) : Launch := s.launches.get {} lk
/-- The state with a launch replaced. -/
def State.setLaunch (s : State) (lk : Nat) (l : Launch) : State := { s with launches := s.launches.set lk l }
/-- A context. -/
def State.ctx (s : State) (n : Nat) : Ctx := s.ctxs.get {} n
/-- The state with a context replaced. -/
def State.setCtx (s : State) (n : Nat) (x : Ctx) : State := { s with ctxs := s.ctxs.set n x }
/-- A queue. -/
def State.queue (s : State) (n : Nat) : Queue := s.queues.get {} n
/-- The state with a queue replaced. -/
def State.setQueue (s : State) (n : Nat) (x : Queue) : State := { s with queues := s.queues.set n x }
/-- A directed link. -/
def State.link (s : State) (n : Nat) : Link := s.links.get {} n
/-- The state with a link replaced. -/
def State.setLink (s : State) (n : Nat) (x : Link) : State := { s with links := s.links.set n x }
/-- A request. -/
def State.req (s : State) (n : Nat) : Req := s.reqs.get {} n
/-- The state with a request replaced. -/
def State.setReq (s : State) (n : Nat) (r : Req) : State := { s with reqs := s.reqs.set n r }
/-- The state without a request. -/
def State.dropReq (s : State) (n : Nat) : State := { s with reqs := s.reqs.del n }

/-- A quire of a core. -/
def Core.quire (k : Core) (j : Nat) : Quire := k.quires.get {} j
/-- The core with a quire replaced. -/
def Core.setQuire (k : Core) (j : Nat) (q : Quire) : Core := { k with quires := k.quires.set j q }
/-- A bank of a core. -/
def Core.bank (k : Core) (b : Nat) : Bank := k.banks.get {} b
/-- The core with a bank replaced. -/
def Core.setBank (k : Core) (b : Nat) (x : Bank) : Core := { k with banks := k.banks.set b x }
/-- A quire by core and slot. -/
def State.quire (s : State) (c j : Nat) : Quire := (s.core c).quire j
/-- The state with a quire replaced. -/
def State.setQuire (s : State) (c j : Nat) (q : Quire) : State := s.setCore c ((s.core c).setQuire j q)
/-- A bank by core and number. -/
def State.bank (s : State) (c b : Nat) : Bank := (s.core c).bank b
/-- The state with a bank replaced. -/
def State.setBank (s : State) (c b : Nat) (x : Bank) : State := s.setCore c ((s.core c).setBank b x)
/-- A group record of a core (R169). -/
def Core.group (k : Core) (share g : Nat) : Group := k.groups.get {} (share * 64 + g)

/-- A thread of a quire. -/
def Quire.th (q : Quire) (i : Nat) : Thread := q.threads.get {} i
/-- The quire with a thread replaced. -/
def Quire.setTh (q : Quire) (i : Nat) (t : Thread) : Quire := { q with threads := q.threads.set i t }
/-- A vector register of a lane. -/
def Quire.v (q : Quire) (i r : Nat) : Word := (q.th i).v.get 0 r
/-- A scalar register; s0 reads zero (R346). -/
def Quire.s (q : Quire) (r : Nat) : Dword := if r = 0 then 0 else q.sr.get 0 r
/-- The quire with a scalar register written; a write to s0 is discarded (R346). -/
def Quire.setS (q : Quire) (r : Nat) (x : Dword) : Quire := if r = 0 then q else { q with sr := q.sr.set r x }

/-- A vector register of a thread. -/
def Thread.reg (t : Thread) (r : Nat) : Word := t.v.get 0 r
/-- The thread with a vector register written. -/
def Thread.setReg (t : Thread) (r : Nat) (x : Word) : Thread := { t with v := t.v.set r x }
/-- A predicate; p7 reads true (R11). -/
def Thread.pred (t : Thread) (k : Nat) : Bool := if k = 7 then true else t.p.getLsbD k
/-- The predicates with bit `k` set to `b`. -/
def putBit (p : BitVec 7) (k : Nat) (b : Bool) : BitVec 7 :=
  if b then p ||| (1#7 <<< k) else p &&& ~~~(1#7 <<< k)
/-- A register of the thread lies in a word with wrong check bits (R24). -/
def Thread.badReg (t : Thread) (r : Nat) : Bool := t.badV.contains (r / 2)
/-- Registers have been written together: a word of them all of whose bytes were written is right again (R24). -/
def Thread.heal (t : Thread) (rs : List Nat) : Thread :=
  if t.badV.isEmpty then t else { t with badV := t.badV.filter (fun k => !(rs.contains (2 * k) && rs.contains (2 * k + 1))) }
/-- The thread with a list of registers written. -/
def Thread.setRegs (t : Thread) (l : List (Nat × Word)) : Thread :=
  (l.foldl (fun t e => t.setReg e.1 e.2) t).heal (l.map Prod.fst)
/-- The thread with a predicate written; a write to p7 is ignored (R11). -/
def Thread.setPred (t : Thread) (k : Nat) (b : Bool) : Thread :=
  if k = 7 then t else { t with p := putBit t.p k b }
/-- The thread with flags raised (R307: sticky). -/
def Thread.raise (t : Thread) (fl : Word) : Thread := { t with fpsr := t.fpsr ||| fl }

/-- Lanes of a mask, ascending. -/
def lanesOf (m : Lanes) : List Nat := (List.range 32).filter (fun i => m.getLsbD i)
/-- The mask of a list of lanes. -/
def maskOf (l : List Nat) : Lanes := l.foldl (fun m i => m ||| (1#32 <<< i)) 0
/-- The quire with a function applied to the threads of some lanes. -/
def Quire.mapLanes (q : Quire) (ls : List Nat) (f : Nat → Thread → Thread) : Quire :=
  ls.foldl (fun q i => q.setTh i (f i (q.th i))) q

/-- Die of a core number. -/
def dieOf (c : Nat) : Nat := c / 40
/-- Launch key of a context and a launch ID. -/
def lkOf (ctx lid : Nat) : Nat := ctx * 2 ^ 32 + lid

-- ## Time (R19)

/-- Deviation of a die: from what the last comparison found it is corrected to 0, and then drifts to `dev`; it changes by one
tick in 64 at most (R20). -/
def Die.devNow (d : Die) (now : Nat) : Int :=
  let k : Int := (now - d.devAt : Nat) / 64
  let toward (a b n : Int) : Int := if a ≤ b then min b (a + n) else max b (a - n)
  let back : Int := d.devFrom.natAbs
  if k ≤ back then toward d.devFrom 0 k else toward 0 d.dev (k - back)

/-- NOW as a die reads it; its deviation from X-die 0 is at most 2 ticks (R19, R20). -/
def State.nowAt (s : State) (d : Nat) : Nat := (Int.ofNat s.now + (s.die d).devNow s.now).toNat
/-- Island of a core (Table 1.4). -/
def islandOf (c : Nat) : Nat := 2 * (c / 40) + c % 40 / 20
/-- Clock of an island in MHz (Table 1.3). -/
def State.islandMhz (s : State) (i : Nat) : Nat := s.mhz.get 4000 i
/-- Parts of a tick that cycles are counted in: the least number that the periods of all frequencies of R16 (800 to 4,000
MHz, by 100) divide. -/
def tickParts : Nat := 5342931457063200
/-- Parts that `n` cycles of a core's island take (R6). -/
def State.parts (s : State) (c n : Nat) : Nat := n * (1000 * tickParts / max 1 (s.islandMhz (islandOf c)))
/-- The present moment, in parts of a tick (R125). -/
def State.cycle (s : State) : Nat := s.now * tickParts + s.frac
/-- Ticks from now to a moment, rounded up. -/
def State.ticksTo (s : State) (m : Nat) : Nat := (m + (tickParts - 1)) / tickParts - s.now
/-- NOW and the part of a tick after `n` cycles of a core's island (R6). -/
def State.spend (s : State) (c n : Nat) : State :=
  let f := s.frac + s.parts c n
  { s with now := s.now + f / tickParts, frac := f % tickParts }

-- ## Agenda (log entry 1)

/-- Puts a step behind those due no later. -/
def insertDue (d : Due) : List Due → List Due
  | [] => [d]
  | e :: es => if e.tick ≤ d.tick then e :: insertDue d es else d :: e :: es

/-- Makes a step due at a tick. -/
def State.dueAt (s : State) (t : Nat) (h : Here) (i : Instr) : State :=
  { s with agenda := insertDue { tick := t, here := h, what := i } s.agenda }
/-- Makes a step due some ticks from now. -/
def State.due (s : State) (n : Nat) (h : Here) (i : Instr) : State := s.dueAt (s.now + n) h i
/-- Makes a step due unless the same step is due already. -/
def State.dueOnce (s : State) (n : Nat) (h : Here) (i : Instr) : State :=
  if s.agenda.any (fun d => d.here = h && d.what = i) then s else s.due n h i
/-- Drops the steps due that meet a test. -/
def State.undue (s : State) (f : Due → Bool) : State := { s with agenda := s.agenda.filter (fun d => !f d) }

/-- The next unused number, and the state that has given it out. -/
def State.take (s : State) : Nat × State := (s.fresh, { s with fresh := s.fresh + 1 })
/-- An undefined value (R9), and the state that has given it out. -/
def State.undef (s : State) : Dword × State := (Config.undef s.undefs, { s with undefs := s.undefs + 1 })

/-- An MSI-X vector is masked: bit 0 of the vector control of its table entry. PRESUMED of MSI-X (log entry 57). -/
def State.masked (s : State) (v : Nat) : Bool := (s.msixTable.get 0 (2 * v + 1)).getLsbD 32
/-- What a vector that fires sends: nothing while it is masked. -/
def State.signal (s : State) (v : Nat) : List Message := if s.masked v then [] else [.msix v]
/-- Sends a message to the host; a masked vector is pending instead (R83, Table 4.1). -/
def State.tell (s : State) (m : Message) : State :=
  match m with
  | .msix v => if s.masked v then { s with pba := s.pba ||| (1 <<< v) } else { s with outbox := s.outbox ++ [m] }
  | _ => { s with outbox := s.outbox ++ [m] }

-- ## Codes

/-- Cause codes (Table 6.1). -/
def Cause.code : Cause → Nat
  | .illegal => 0x01 | .priv => 0x02 | .bankbound => 0x03 | .bankmode => 0x04 | .param => 0x05
  | .align => 0x06 | .lease => 0x07 | .perm => 0x08 | .phase => 0x09 | .quota => 0x0A
  | .barbroken => 0x0B | .engine => 0x0C | .ecc => 0x0D | .user => 0x0E | .claim => 0x0F
  | .codex => 0x10 | .link => 0x11

/-- Causes of fatal disposition (Table 6.1). -/
def Cause.isFatal : Cause → Bool
  | .lease | .perm | .barbroken | .link => true
  | _ => false

/-- Stall codes (Table 5.1). -/
def Stall.code : Stall → Nat
  | .none => 0 | .mem => 1 | .copy => 2 | .engq => 3 | .qfull => 4 | .qempty => 5 | .gbar => 6
  | .claim => 7 | .bank => 8 | .sleep => 9 | .pbar => 10 | .folio => 11 | .restore => 12

/-- Reasons that allow a swap (Table 5.1). -/
def Stall.long : Stall → Bool
  | .none | .folio | .restore => false
  | _ => true

/-- STATE codes (Table 4.7). -/
def LState.code : LState → Nat
  | .queued => 1 | .waiting => 2 | .leasing => 3 | .checking => 4 | .ready => 5 | .running => 6
  | .preempted => 7 | .done => 8 | .fRecord => 0x10 | .fPageReq => 0x11 | .fLayout => 0x12
  | .fFault => 0x13 | .fKilled => 0x14

/-- Final states (R96). -/
def LState.final : LState → Bool
  | .done | .fRecord | .fPageReq | .fLayout | .fFault | .fKilled => true
  | _ => false

/-- No handler (Table 4.8). -/
def noHandler : Nat := 0xFFFFFFFF

-- ## Homes (R57, R71)

/-- What a physical address reaches (Table 3.2). -/
inductive Home where
  | hbm (m : Nat)
  | annex (p : Nat)
  | window
  | host
  | hole
  deriving DecidableEq, Repr

/-- In-service channels of an M-die. -/
def State.chans (s : State) (m : Nat) : Nat := s.channels.get 32 m
/-- Usable capacity of an M-die in bytes (R71). -/
def State.usable (s : State) (m : Nat) : Nat := s.chans m * 2 ^ 31 - 320 * 2 ^ 20

/-- The home of a physical address; a hole, an annex port without an expander and HBM at or above the
usable capacity are holes (R57). Of an expander smaller than 512 GiB the spec does not say what lies above its end: the
whole 512 GiB of a port that works is memory here (R58, log entry 59). -/
def State.homeOf (s : State) (pa : Nat) : Home :=
  if pa < 2 ^ 39 then
    (if s.geomMdie.getLsbD (pa / 2 ^ 36) && decide (pa % 2 ^ 36 < s.usable (pa / 2 ^ 36)) then .hbm (pa / 2 ^ 36)
     else .hole)
  else if pa < 0x040000000000 then .hole
  else if pa < 0x080000000000 then
    (if s.geomAnnex.getLsbD (bitsOf pa 39 3) then .annex (bitsOf pa 39 3) else .hole)
  else if pa < 0x080000040000 then .window
  else if pa < 0x800000000000 then .hole
  else if pa < 2 ^ 48 then .host
  else .hole

/-- log2 of the single-copy atomic granule of a home (Tables 8.6 and 8.7). -/
def Home.granule : Home → Nat
  | .hbm _ => 5
  | .annex _ => 4
  | _ => 3

/-- Unloaded latency of a home in ticks, half for each direction (Table 3.1); a read of host memory takes 1,440 ticks more
at X-die 0. -/
def Home.latency : Home → Nat
  | .hbm _ => 120
  | .annex _ => 800
  | .window => 60
  | .host => 60
  | .hole => 60

/-- Near M-die of a C-die (R15). -/
def nearMdie (d : Nat) : Nat := if d % 4 < 2 then d / 4 else 4 + d / 4

/-- Whether an address is in the register area of a launch page (R85). -/
def isRegArea (pa : Nat) : Bool :=
  decide (0x080000000000 ≤ pa) && decide (pa < 0x080000040000) && decide (pa % 4096 < 256)

-- ## Routes (R14, R50)

/-- Dies of a route from a C-die to a C-die: along the row, then along the column. -/
def meshRoute : Nat → Nat → Nat → List Nat
  | 0, a, _ => [a]
  | n + 1, a, b =>
    if a % 4 < b % 4 then a :: meshRoute n (a + 1) b
    else if b % 4 < a % 4 then a :: meshRoute n (a - 1) b
    else if a / 4 < b / 4 then a :: meshRoute n (a + 4) b
    else if b / 4 < a / 4 then a :: meshRoute n (a - 4) b
    else [a]

/-- Directed links of a list of dies. -/
def linksOf : List Nat → List Nat
  | a :: b :: ds => (a * 32 + b) :: linksOf (b :: ds)
  | _ => []

/-- The C-die itself, or the one on an M-die's bridge (R14). -/
def meshDie (d : Nat) : Nat := if d < 16 then d else if d < 20 then 4 * (d - 16) else 4 * (d - 20) + 3

/-- Dies that a flit passes from one die to another (R50). -/
def dieRoute (a b : Nat) : List Nat :=
  let row (x : Nat) : Nat := if x = 24 then 0 else 12
  let col := if a < 24 then meshDie a % 4 else if b < 24 then meshDie b % 4 else 0
  let from' := if a < 24 then meshDie a else row a + col
  let to' := if b < 24 then meshDie b else row b + col
  (if a < 16 then [] else [a]) ++ meshRoute 6 from' to' ++ (if b < 16 then [] else [b])

/-- Directed bridges on the route from one die to another (R50). -/
def route (a b : Nat) : List Nat := if a = b then [] else linksOf (dieRoute a b)

/-- A bridge of a route is down (R47). -/
def State.cut (s : State) (a b : Nat) : Bool := s.bridgeDown && (route a b).any (fun n => (s.link n).lanes == 0)

/-- Die ID that owns a home. -/
def homeDie : Home → Nat
  | .hbm m => 16 + m
  | .annex p => 24 + p / 4
  | _ => 24

-- ## Copies of lines held by writers' paths (R190, R191)

/-- A word with wrong check bits is among the `n` bytes of a copy that are read from `off` on (R24). -/
def Line.wrong (l : Line) (off n : Nat) : Bool := l.bad.any (fun w => decide (off < 8 * w + 8) && decide (8 * w < off + n))

/-- A table of lines with bytes of one line changed, where the line is held; a word all of whose bytes are written is right
again (R24). -/
def patchLine (t : Tab Line) (pa : Nat) (bs : List Byte) : Tab Line :=
  match t.find (pa / 128) with
  | none => t
  | some l =>
    let o := pa % 128
    t.set (pa / 128) { l with data := splice l.data o bs,
                              bad := l.bad.filter (fun w => !(decide (o ≤ 8 * w) && decide (8 * w + 8 ≤ o + bs.length))) }

-- ## Requests at HBM4E homes (R71, R190)

/-- Ways and sets of a home slice: 64 MiB of 128-byte lines (Table 1.1). -/
def sliceWays : Nat := 16
/-- Sets of a home slice. -/
def sliceSets : Nat := 32768
/-- Set of a line of an M-die's slice, as State.slices counts them (log entry 46). -/
def sliceSet (m line : Nat) : Nat := m * sliceSets + line % sliceSets

/-- A line is used in its home slice; the least recently used line of a full set goes, and raises the set's eviction mark to
its latest expiry (R190). -/
def State.touchSlice (s : State) (m line : Nat) : State :=
  let k := sliceSet m line
  let xs := line :: (s.slices.get [] k).filter (· != line)
  let s := { s with slices := s.slices.set k (xs.take sliceWays) }
  match xs.drop sliceWays with
  | [] => s
  | v :: _ => { s with marks := s.marks.set k (max (s.marks.get 0 k) (s.lease.get 0 v)) }

/-- Latest expiry that a home holds a write of a line to: that of the leases granted on it, or the eviction mark of its slice
set for a line no longer held there (R190). -/
def State.expiry (s : State) (line : Nat) : Nat :=
  match s.homeOf (128 * line) with
  | .hbm m =>
    let k := sliceSet m line
    if (s.slices.get [] k).contains line then s.lease.get 0 line else s.marks.get 0 k
  | _ => s.lease.get 0 line

/-- Counts a request of a die at the home of an address, whose slice it uses (R71, R190). -/
def State.countRac (s : State) (src pa : Nat) : State :=
  match s.homeOf pa with
  | .hbm m =>
    let r : Rac := s.rac.get {} (pa / 4096)
    let up (x : BitVec 24) : BitVec 24 := if x = 0xFFFFFF then x else x + 1
    let r := if src < 16 ∧ nearMdie src = m then { r with loc := up r.loc }
      else { r with rem := up r.rem, last := BitVec.ofNat 5 src }
    { s with rac := s.rac.set (pa / 4096) r }.touchSlice m (pa / 128)
  | _ => s

-- ## Placement of pages (R60-R64)

/-- Bits of an entry. -/
def ptBits (e : Dword) (lo n : Nat) : Nat := bitsOf e.toNat lo n
/-- PLC of a leaf. -/
def leafPlc (e : Dword) : Nat := ptBits e 4 2
/-- HOME of a leaf. -/
def leafHome (e : Dword) : Nat := ptBits e 6 3
/-- FRAME of a leaf. -/
def leafFrame (e : Dword) : Nat := ptBits e 16 32

/-- The physical address that a leaf of a page of 2^lg bytes gives (R64). -/
def physOf (e : Dword) (lg va : Nat) : Nat :=
  let po := va % 2 ^ lg
  let fb := leafFrame e * 65536
  match leafPlc e with
  | 0 =>
    let h := bitsOf va 12 3 ^^^ bitsOf va 16 3 ^^^ bitsOf va 19 3
    h * 2 ^ 36 + (fb / 8 + po / 65536 * 8192 + bitsOf va 15 1 * 4096 + va % 4096)
  | 1 => leafHome e * 2 ^ 36 + fb + po
  | 2 => 0x040000000000 + fb + po
  | _ => if leafHome e = 0 then 0x800000000000 + fb + po else 0x080000000000 + fb + po

-- ## Lines under way at their homes (R74, R75, R185)

/-- Stores, masked writes, atomics and reductions. -/
def Req.isStore (r : Req) : Bool := r.kind != .read
/-- Keys of the requests that meet a test. -/
def State.reqsWith (s : State) (f : Nat → Req → Bool) : List Nat :=
  (s.reqs.filter (fun e => f e.1 e.2)).map Prod.fst

/-- Line of a request. -/
def Req.line (r : Req) : Nat := r.pa / 128

/-- A request to memory of the package. -/
def Req.local (r : Req) : Bool := r.space == 0 || r.space == 2

/-- A physical address lies in the frames of a leaf of a page move. -/
def Move.inPage (m : Move) (leaf : Dword) (pa : Nat) : Bool :=
  (List.range (2 ^ m.lg / 4096)).any (fun k => physOf leaf m.lg (m.va + 4096 * k) / 4096 == pa / 4096)

/-- Where the bytes of an address of a page under move lie after it. -/
def Move.newPa (m : Move) (pa : Nat) : Nat :=
  match (List.range (2 ^ m.lg / 4096)).find? (fun k => physOf m.old m.lg (m.va + 4096 * k) / 4096 == pa / 4096) with
  | some k => physOf m.new m.lg (m.va + 4096 * k) + pa % 4096
  | none => pa

/-- A page move holds an access (R74, R75): every write, masked write and atomic to the old frames, and from the switch until
the held requests are forwarded to the new ones; a read only behind a held request of its line, which may stand at the other
home. -/
def State.moveStops (s : State) (m : Move) (pa : Nat) (read : Bool) : Bool :=
  if read then m.switched && m.held.any (fun k => m.newPa (s.req k).pa / 128 == m.newPa pa / 128)
  else m.inPage m.old pa || (m.switched && m.inPage m.new pa)

/-- Some page move holds an access (R74). -/
def State.moving (s : State) (pa : Nat) (read : Bool) : Bool := s.moves.any (fun e => s.moveStops e.2 pa read)

/-- What an access that its home performs at once stands behind at a line: requests that wait there for the host or for a
move, or wait behind such a one, and stores and atomics of its own die `d` on their way there (R75, R185, R189). -/
def State.lineWaits (s : State) (d line : Nat) : List Nat :=
  s.reqsWith (fun _ r => r.local && r.line == line && (r.stage == .snoop || r.stage == .host || r.stage == .held
    || (r.stage == .home && (r.ticket != 0 || (r.isStore && decide (r.core < 640) && dieOf r.core == d)))))

/-- Nothing keeps an access of X-die 0, or of the host, from being applied at once where it arrives: the host need not be
asked, no request waits at the line, and no page move holds it (R74, R86, R185). -/
def State.lineFree (s : State) (pa : Nat) : Bool :=
  (s.lineWaits 32 (pa / 128)).isEmpty && !s.hostCached.contains (pa / 128) && !s.moving pa false

-- ## Fault records (R149-R151)

/-- Bytes of a record with VALID = 1 (Table 6.4). -/
def FaultRec.toBytes (r : FaultRec) : List Byte :=
  let b (x : Bool) : Nat := if x then 1 else 0
  toLe 4 (r.cause.code + r.deliv * 2 ^ 8 + b r.isFatal * 2 ^ 10 + b r.exited * 2 ^ 11 + b r.inHdl * 2 ^ 12
      + r.die * 2 ^ 16 + r.core * 2 ^ 21 + 2 ^ 31)
    ++ toLe 4 r.mask.toNat ++ toLe 4 r.lid ++ toLe 4 (r.slot + r.stall * 2 ^ 8 + r.phid * 2 ^ 16)
    ++ toLe 4 r.qid ++ toLe 4 r.gid ++ toLe 8 r.fpc.toNat ++ toLe 8 r.repc.toNat ++ toLe 8 r.addr
    ++ toLe 8 r.time ++ toLe 8 r.detail

/-- The ring of a context is usable (R149). -/
def State.ringOk (s : State) (x : Ctx) : Bool :=
  let base := x.frbase.toNat
  let last := base + 64 * 2 ^ x.frLog2.toNat - 1
  decide (4 ≤ x.frLog2.toNat) && decide (x.frLog2.toNat ≤ 16) && base % 4096 == 0
    && (match s.homeOf base, s.homeOf last with
        | .hbm m, .hbm n => m == n
        | .host, .host => true
        | _, _ => false)

/-- LOST one higher, saturating (Table 6.3). -/
def Ctx.lose (x : Ctx) : Ctx := if x.frLost = 0xFFFF then x else { x with frLost := x.frLost + 1 }

/-- Physical address of a slot of a context's ring. -/
def Ctx.ringSlot (x : Ctx) (k : Nat) : Nat := x.frbase.toNat + 64 * (k % 2 ^ x.frLog2.toNat)

/-- The record at a physical address is valid. -/
def State.recValid (s : State) (pa : Nat) : Bool := (s.byte (pa + 3)).getLsbD 7

/-- A context has no ring that its records reach: it is not usable, or its route crosses a bridge that is down (R47, R149). -/
def State.noRing (s : State) (x : Ctx) : Bool := !s.ringOk x || s.cut 24 (homeDie (s.homeOf x.frbase.toNat))

/-- Writes a record to the ring of a context, or counts it lost; vector 2 fires when the slot before
held no valid record (R151). A record whose route crosses a bridge that is down is lost (R47). The VALID of the slot, that of
the slot before and the two writes are requests of X-die 0 at the ring's home (R71). -/
def State.putRecord (s : State) (ctx : Nat) (r : FaultRec) : State :=
  let x := s.ctx ctx
  let t := x.frTail.toNat
  if s.noRing x then s.setCtx ctx x.lose
  else if s.recValid (x.ringSlot t) then (s.countRac 24 (x.ringSlot t)).setCtx ctx x.lose
  else
    let before := x.ringSlot (t + 2 ^ x.frLog2.toNat - 1)
    let empty := !s.recValid before
    let s := (((s.countRac 24 (x.ringSlot t)).countRac 24 before).countRac 24 (x.ringSlot t)).countRac 24 (x.ringSlot t)
    let s := (s.setBytes (x.ringSlot t) r.toBytes).setCtx ctx { x with frTail := BitVec.ofNat 16 ((t + 1) % 2 ^ x.frLog2.toNat) }
    if empty then s.tell (.msix 2) else s

/-- The next record of a context has to wait at the home of its slot, behind an earlier one or behind what came to the line
before (R74, R151, R185). -/
def State.recordHeld (s : State) (ctx : Nat) : Bool :=
  s.records.any (fun e => e.1 == ctx) || (!s.noRing (s.ctx ctx) && !s.lineFree ((s.ctx ctx).ringSlot (s.ctx ctx).frTail.toNat))

/-- X-die 0 writes a fault record of a context, now or once its slot's line is free; records of a context keep their order
(R151, R185). -/
def State.writeRecord (s : State) (ctx : Nat) (r : FaultRec) : State :=
  if s.recordHeld ctx then ({ s with records := s.records ++ [(ctx, r)] } : State).dueOnce 1 { unit := ctx, sub := 1 } .lateFault
  else s.putRecord ctx r

/-- The oldest waiting record of a context is written if its slot's line is free by now (R151, R185). -/
def State.flushRecord (s : State) (ctx : Nat) : State :=
  match s.records.find? (fun e => e.1 == ctx) with
  | none => s
  | some e =>
    let rest := { s with records := s.records.erase e }
    let held := { s with records := [] }
    if held.recordHeld ctx then s.dueOnce 1 { unit := ctx, sub := 1 } .lateFault
    else
      let s := rest.putRecord ctx e.2
      if s.records.any (fun o => o.1 == ctx) then s.dueOnce 1 { unit := ctx, sub := 1 } .lateFault else s

-- ## Taking a fault and returning from one (R141-R145)

/-- %cause of a thread (Table 6.2). -/
def causeWord (c : Cause) (deliv : Nat) (inMask np : Bool) (mask : Lanes) : Dword :=
  BitVec.ofNat 64 (c.code + deliv * 2 ^ 8 + (if inMask then 2 ^ 10 else 0) + (if np then 2 ^ 11 else 0)
    + mask.toNat * 2 ^ 32)

/-- The fault that a thread takes at its next run start, if it is not in its handler (R142, R143, log entry 60). -/
def Thread.pend (t : Thread) : Option Pend := if t.handler then none else t.pends.head?

/-- Handler entry of one thread (R143): the flag set, %cause and %fpc written, PC := CODE + HANDLER;
registers, predicates and %repc unchanged. -/
def Thread.enterHandler (t : Thread) (lane : Nat) (r : Record) (p : Pend) : Thread :=
  { t with
    handler := true, fpc := p.fpc, wait := none,
    cause := causeWord p.cause p.deliv (p.mask.getLsbD lane) p.np p.mask,
    pc := r.code + BitVec.ofNat 64 r.handler }

/-- `eret` of one thread (R144): the flag cleared, PC := %repc. -/
def Thread.eret (t : Thread) : Thread := { t with handler := false, pc := t.repc }

/-- `eret.next` of one thread (R144): with DELIV 0 the PC is %fpc + 8, or %fpc with NP; else as `eret`. -/
def Thread.eretNext (t : Thread) : Thread :=
  if t.cause.extractLsb' 8 2 = 0 then
    { t with handler := false, pc := if t.cause.getLsbD 11 then t.fpc else t.fpc + 8 }
  else t.eret

/-- Stall code of a quire for a fault record (R126, R159). -/
def Quire.stallCode (q : Quire) : Nat := (q.stopped.getD q.stall).code

/-- The record of a fault of a quire, as found now (Table 6.4). -/
def State.quireRec (s : State) (c j : Nat) (p : Pend) (addr detail : Nat) (fatal : Bool) : FaultRec :=
  let q := s.quire c j
  let low := ((lanesOf p.mask).head?).getD 0
  { cause := p.cause, deliv := p.deliv, isFatal := fatal, inHdl := (q.th low).handler,
    die := dieOf c, core := c % 40, mask := p.mask, lid := (s.launch q.lk).lid, slot := j,
    stall := q.stallCode, phid := if q.timer.armed then q.timer.phid.toNat else 0, qid := q.qid, gid := q.gid, fpc := p.fpc,
    repc := (q.th low).repc, addr := addr, time := s.now, detail := detail }

/-- Sends a fatal fault of a launch to X-die 0; the launch ends by LAUNCH_FATAL (R145, R148). -/
def State.raiseFatal (s : State) (lk : Nat) (r : FaultRec) : State :=
  ({ s with fatal := s.fatal ++ [(lk, r)] }).due 0 { unit := lk } .launchFatal

/-- Sends a late fault of a launch to X-die 0 (R147). -/
def State.raiseLate (s : State) (lk : Nat) (r : FaultRec) : State :=
  ({ s with fatal := s.fatal ++ [(lk, { r with deliv := 3, isFatal := true })] }).due 0 { unit := lk } .lateFault

/-- Lanes removed from the paths of a run, their part of it being over. -/
def Run.dropLanes (r : Run) (m : Lanes) : Run :=
  let a := { r.a with lanes := r.a.lanes &&& ~~~m }
  let b := { r.b with lanes := r.b.lanes &&& ~~~m }
  { r with a := { a with done := a.done || a.lanes == 0 }, b := { b with done := b.done || b.lanes == 0 } }

/-- The core with a run over when both its paths are, and the turn with a path that is not. -/
def Core.closeRun (k : Core) : Core :=
  match k.run with
  | some r =>
    if r.a.done && r.b.done then { k with run := none }
    else if r.turn && r.b.done then { k with run := some { r with turn := false, paired := false } }
    else if !r.turn && r.a.done then { k with run := some { r with turn := true } }
    else k
  | none => k

/-- Stops lanes of a quire that issue in a run. -/
def State.stopLanes (s : State) (c j : Nat) (m : Lanes) : State :=
  let k := s.core c
  match k.run with
  | some r => if r.slot = j then s.setCore c { k with run := some (r.dropLanes m) } else s
  | none => s

-- ## Leaving a folio (R267-R269)

/-- Active quires of a core (R124). -/
def Core.actives (k : Core) : List Nat := (List.range 64).filter (fun j => (k.quire j).live && (k.quire j).active)

/-- Slots whose quire is live. -/
def Core.liveSlots (k : Core) : List Nat := (List.range 64).filter (fun j => (k.quire j).live)

/-- The folio leaves its core: it stays armed, or goes if it is invalid (R267, R270). After a yield no folio
becomes resident until every quire that is ready has issued a run (R134); those that prove not ready leave the
bar as they are looked at next. -/
def Core.endResidency (k : Core) : Core :=
  match k.resident with
  | none => k
  | some r =>
    { k with resident := none, run := none, bar := if r.yields then k.liveSlots else k.bar, yielded := r.yields,
             folios := if (k.folios.get {} r.folio).valid then k.folios else k.folios.del r.folio }

/-- Threads leave the resident folio, which ends with its last thread (R267). -/
def Core.outOfFolio (k : Core) (f : Nat × Nat → Bool) : Core :=
  match k.resident with
  | none => k
  | some r =>
    let ts := r.threads.filter (fun t => !f t)
    let cur := match r.cur with
      | some (j, i, t) => if f (j, i) then none else some (j, i, t)
      | none => none
    if ts.isEmpty then k.endResidency
    else { k with resident := some { r with threads := ts, cur := cur, flight := r.flight.filter (fun e => !f (e.slot, e.lane)) } }

/-- A thread as its last retired iteration left it: what the iteration wrote is undone, and its loads are
forgotten (R265, R269). -/
def Thread.rollBack (t snap : Thread) : Thread :=
  { snap with outst := t.outst.filter (fun o => snap.outst.any (fun x => x.id == o.id)), issued := t.issued }

/-- The iterations under way: that whose words issue, then the others, each with its thread as the iteration found it (R265). -/
def Resident.iters (r : Resident) : List (Nat × Nat × Thread) := r.cur.toList ++ r.flight.map (fun e => (e.slot, e.lane, e.snap))

/-- Lanes of a quire, among some, with a folio iteration under way, and their threads at its start (R269). -/
def State.inIteration (s : State) (c j : Nat) (m : Lanes) : List (Nat × Thread) :=
  match (s.core c).resident with
  | some r => (r.iters.filter (fun e => e.1 == j && m.getLsbD e.2.1)).map Prod.snd
  | none => []

/-- Threads that fault in a folio go back to the start of their iterations and leave the folio (R269). -/
def State.leaveIteration (s : State) (c j : Nat) (m : Lanes) : State :=
  (s.inIteration c j m).foldl (fun s e =>
    let q := s.quire c j
    let s := s.setQuire c j (q.setTh e.1 ((q.th e.1).rollBack e.2))
    s.setCore c ((s.core c).outOfFolio (· == (j, e.1)))) s

/-- A fault of some lanes of a quire ends its launch (R145): its cause is fatal, there is no handler, or one of those that
raise it is in its handler. -/
def State.endsLaunch (s : State) (c j : Nat) (lanes : Lanes) (p : Pend) : Bool :=
  let q := s.quire c j
  p.cause.isFatal || (s.launch q.lk).rcd.handler == noHandler || (lanesOf (p.mask &&& lanes)).any (fun i => (q.th i).handler)

/-- Lanes of a quire enter the handler of their launch together (R143). -/
def State.enterAll (s : State) (c j : Nat) (lanes : Lanes) (p : Pend) : State :=
  let q := s.quire c j
  s.setQuire c j (q.mapLanes (lanesOf lanes) (fun i t => t.enterHandler i (s.launch q.lk).rcd p))

/-- An ECC fault that a handler takes leaves a record as it is found (R151). -/
def State.recordEcc (s : State) (cause : Cause) (ctx : Nat) (r : FaultRec) : State :=
  if cause = .ecc then s.writeRecord ctx r else s

/-- A fault of lanes of a quire (R143, R145). `lanes` stop; the lanes of the mask raised it. With a
handler and no raising thread inside one, every stopped thread enters the handler, and an ECC fault
leaves a record (R151); otherwise the fault is fatal. In a folio iteration it is region-restart (R142). -/
def State.takeFault (s : State) (c j : Nat) (lanes : Lanes) (p : Pend) (addr detail : Nat) : State :=
  let p := if !(s.inIteration c j lanes).isEmpty && !p.cause.isFatal then { p with deliv := 1 } else p
  let s := s.leaveIteration c j lanes
  let s1 := s.stopLanes c j lanes
  if s.endsLaunch c j lanes p then s1.raiseFatal (s.quire c j).lk (s.quireRec c j p addr detail true)
  else (s1.enterAll c j lanes p).recordEcc p.cause (s.launch (s.quire c j).lk).ctx (s.quireRec c j p addr detail false)

/-- A fault found after later words of its threads have issued: they take it at their next run start (R137, R142); one that
ends the launch is raised as it is found. -/
def State.pendFault (s : State) (c j : Nat) (lanes : Lanes) (p : Pend) : State :=
  if s.endsLaunch c j lanes p then s.takeFault c j lanes p p.addr p.detail
  else
    (s.setQuire c j ((s.quire c j).mapLanes (lanesOf lanes) (fun _ t => { t with pends := t.pends ++ [p] }))).recordEcc
      p.cause (s.launch (s.quire c j).lk).ctx (s.quireRec c j p p.addr p.detail false)

-- ## Leased ranges (R59, R101, R106)

/-- Whether a byte address lies in a declared range. -/
def Range.holds (r : Range) (va : Nat) : Bool :=
  decide (r.base ≤ va) && decide (va < r.base + r.npage * 65536)

/-- Lowest-numbered declared range that holds an address (R101). -/
def Launch.rangeOf (l : Launch) (va : Nat) : Option Range := l.ranges.find? (fun r => r.holds va)

/-- All bytes of an access lie inside the leased ranges (R106): one that spans two adjacent ranges does, each of its bytes being
in one of them (R101, log entry 65). -/
def Launch.leased (l : Launch) (va n : Nat) : Bool :=
  (l.rangeOf va).isSome && (l.rangeOf (va + n - 1)).isSome

/-- Lease length of a class in ticks (R186). -/
def leaseLen (k : Nat) : Nat := if k = 0 then 64 else if k = 1 then 256 else 4096

end Sys2Proof.Machine
end

