-- ==== Sys2Proof/Machine/Operands.lean ====
section
/-! DEFINITION. What an instruction names (registers, banks), the issue of one word on one path of a run
(R130, R133, R141, R314-R318, R323), and the forms of operands. -/

namespace Sys2Proof

-- ## Registers that a word names (R176, R319)

/-- A register group of `n`. -/
def grp (n : Nat) (r : VReg) : List Nat := (List.range n).map (fun k => r.toNat + k)
/-- One register. -/
def r1 (r : VReg) : List Nat := [r.toNat]
/-- A pair when `w`. -/
def rw2 (w : Bool) (r : VReg) : List Nat := if w then [r.toNat, r.toNat + 1] else [r.toNat]
/-- The registers of a value of `bits` bits. -/
def rBits (bits : Nat) (r : VReg) : List Nat := rw2 (bits == 64) r
/-- Registers that hold `n` bytes (R390). -/
def rBytes (n : Nat) (r : VReg) : List Nat := grp ((n + 3) / 4) r
/-- The offset register of a format M access; 0xFF names none (R320). -/
def rOff (r : VReg) : List Nat := if r == 255 then [] else [r.toNat]

/-- The vector registers a word names. -/
def Instr.vregs : Instr → List Nat
  | .iadd _ _ _ d a b | .isub _ _ _ d a b | .iaddx _ _ _ _ d a b => r1 d ++ r1 a ++ r1 b
  | .imul _ d a b | .imulh _ _ d a b | .imin _ _ d a b | .imax _ _ d a b => r1 d ++ r1 a ++ r1 b
  | .imad _ d a b c | .bfi _ d a b c | .bytex _ d a b c => r1 d ++ r1 a ++ r1 b ++ r1 c
  | .imadw _ _ d a b c => rw2 true d ++ r1 a ++ r1 b ++ rw2 true c
  | .iabs _ _ d a => r1 d ++ r1 a
  | .and _ d a b | .or _ d a b | .xor _ d a b | .andn _ d a b | .orn _ d a b => r1 d ++ r1 a ++ r1 b
  | .not _ d a | .popc _ d a | .clz _ d a | .ctz _ d a | .brev _ d a => r1 d ++ r1 a
  | .shl _ d a b | .shr _ d a b | .sar _ d a b | .rotl _ d a b | .bfe _ _ d a b => r1 d ++ r1 a ++ r1 b
  | .sel _ _ d _ a b => r1 d ++ r1 a ++ r1 b
  | .mov _ w d a => rw2 w d ++ rw2 w a
  | .lea _ w _ _ d a b => rw2 w d ++ rw2 w a ++ r1 b
  | .iaddImm _ d a _ | .isubImm _ d a _ | .imulImm _ d a _ | .iminImmS _ d a _ | .iminImmU _ d a _
  | .imaxImmS _ d a _ | .imaxImmU _ d a _ | .andImm _ d a _ | .orImm _ d a _ | .xorImm _ d a _
  | .andnImm _ d a _ | .ornImm _ d a _ | .shlImm _ d a _ | .shrImm _ d a _ | .sarImm _ d a _
  | .rotlImm _ d a _ | .leaImm _ d a _ => r1 d ++ r1 a
  | .movi _ d _ => r1 d
  | .moviB64 _ d _ => rw2 true d
  | .leaWImm _ d a _ => rw2 true d ++ rw2 true a
  | .isetp _ _ _ w _ _ _ a b => rw2 w a ++ rw2 w b
  | .isetpImm _ _ _ a _ => r1 a
  | .p2v _ d => r1 d
  | .v2p _ _ a => r1 a
  | .s2v _ part d _ => rw2 (part == 2) d
  | .vread _ kind _ a _ => rw2 (kind == 2) a
  | .fadd _ _ d a b | .fsub _ _ d a b | .fmul _ _ d a b => r1 d ++ r1 a ++ r1 b
  | .ffma _ _ d a b c => r1 d ++ r1 a ++ r1 b ++ r1 c
  | .fmin _ _ _ d a b | .fmax _ _ _ d a b => r1 d ++ r1 a ++ r1 b
  | .fround _ _ _ d a => r1 d ++ r1 a
  | .fclass _ ty _ d a => r1 d ++ rw2 (ty == 1) a
  | .frcp _ _ d a | .frsq _ _ d a | .fsqrt _ _ _ d a | .fex2 _ _ d a | .flg2 _ _ d a | .fsin _ _ d a
  | .fcos _ _ d a | .ftanh _ _ d a => r1 d ++ r1 a
  | .padd2 _ _ _ d a b | .pmul2 _ _ _ d a b => r1 d ++ r1 a ++ r1 b
  | .pfma2 _ _ _ d a b c | .pdot2 _ _ _ d a b c => r1 d ++ r1 a ++ r1 b ++ r1 c
  | .dadd _ _ d a b | .dmul _ _ d a b | .dmin _ _ _ d a b | .dmax _ _ _ d a b =>
    rw2 true d ++ rw2 true a ++ rw2 true b
  | .dfma _ _ d a b c => rw2 true d ++ rw2 true a ++ rw2 true b ++ rw2 true c
  | .drcpa _ _ d a => rw2 true d ++ rw2 true a
  | .cvtf _ c d a => rBits (fmtBits c.ff.toNat) d ++ rBits (fmtBits c.sel.toNat) a
  | .cvti _ c d a => rBits (intBits c.sel.toNat) d ++ rBits (fmtBits c.ff.toNat) a
  | .cvtif _ c d a => rBits (fmtBits c.ff.toNat) d ++ rBits (intBits c.sel.toNat) a
  | .mxpack _ _ _ _ d a b | .mxunpack _ _ _ _ _ _ d a b => r1 d ++ r1 a ++ r1 b
  | .fsetp _ _ _ _ _ _ a b => r1 a ++ r1 b
  | .dsetp _ _ _ _ _ _ a b => rw2 true a ++ rw2 true b
  | .ld _ t m | .st _ t m | .ldp _ t m => rBytes (sizeBytes m.size.toNat) t ++ rOff m.vo
  | .atom _ t m | .red _ t m => rBytes m.atomRegBytes t ++ rOff m.vo
  | .prefetch _ _ vo _ _ => rOff vo
  | .qpush _ _ a _ _ _ | .qtryPush _ _ _ a _ _ _ => r1 a
  | .qpop _ _ d _ _ _ | .qtryPop _ _ _ d _ _ _ => r1 d
  | .dbra _ _ a _ => r1 a
  | .brx _ _ a | .call _ _ a _ | .callR _ _ a | .ret _ _ a => rw2 true a
  | .ballot _ _ d _ => r1 d
  | .xlaneLane _ _ d a l | .xlaneRot _ _ d a l | .xlaneXor _ _ d a l =>
    r1 d ++ r1 a ++ (match l with | .reg r => r1 r | .imm _ => [])
  | .xlaneRev _ _ d a => r1 d ++ r1 a
  | .redq _ _ _ _ d a | .scanq _ _ _ _ d a => r1 d ++ r1 a
  | .matchSame _ w _ a => rw2 w a
  | .matchPeers _ w d a | .matchLead _ w d a => r1 d ++ rw2 w a
  | .join _ d _ | .leave _ d _ | .gbar _ d _ | .pbar _ d _ _ => r1 d
  | .sget _ k s _ d => if s then [] else rw2 (sgetPair k.toNat) d
  | .bkey _ _ _ a _ _ _ _ | .bkscale _ _ a _ _ _ _ _ => r1 a
  | .bexec _ _ _ d a b _ => r1 d ++ r1 a ++ (if b == 255 then [] else rw2 true b)
  | .bcnt _ _ d _ _ _ | .bfirst _ _ d _ _ _ => r1 d
  | .bacc _ _ _ d _ _ _ => r1 d
  | _ => []

/-- The vector registers whose value a word reads (R24, R130): a result narrower than its register merges into it. -/
def Instr.vsrcs : Instr → List Nat
  | .iadd _ _ _ _ a b | .isub _ _ _ _ a b | .iaddx _ _ _ _ _ a b => r1 a ++ r1 b
  | .imul _ _ a b | .imulh _ _ _ a b | .imin _ _ _ a b | .imax _ _ _ a b => r1 a ++ r1 b
  | .imad _ _ a b c | .bfi _ _ a b c | .bytex _ _ a b c => r1 a ++ r1 b ++ r1 c
  | .imadw _ _ _ a b c => r1 a ++ r1 b ++ rw2 true c
  | .iabs _ _ _ a => r1 a
  | .and _ _ a b | .or _ _ a b | .xor _ _ a b | .andn _ _ a b | .orn _ _ a b => r1 a ++ r1 b
  | .not _ _ a | .popc _ _ a | .clz _ _ a | .ctz _ _ a | .brev _ _ a => r1 a
  | .shl _ _ a b | .shr _ _ a b | .sar _ _ a b | .rotl _ _ a b | .bfe _ _ _ a b => r1 a ++ r1 b
  | .sel _ _ _ _ a b => r1 a ++ r1 b
  | .mov _ w _ a => rw2 w a
  | .lea _ w _ _ _ a b => rw2 w a ++ r1 b
  | .iaddImm _ _ a _ | .isubImm _ _ a _ | .imulImm _ _ a _ | .iminImmS _ _ a _ | .iminImmU _ _ a _
  | .imaxImmS _ _ a _ | .imaxImmU _ _ a _ | .andImm _ _ a _ | .orImm _ _ a _ | .xorImm _ _ a _
  | .andnImm _ _ a _ | .ornImm _ _ a _ | .shlImm _ _ a _ | .shrImm _ _ a _ | .sarImm _ _ a _
  | .rotlImm _ _ a _ | .leaImm _ _ a _ => r1 a
  | .leaWImm _ _ a _ => rw2 true a
  | .movi .. | .moviB64 .. | .p2v .. | .s2v .. | .ballot .. | .sget .. | .join .. | .leave .. | .gbar ..
  | .pbar .. | .qpop .. | .qtryPop .. | .bcnt .. | .bfirst .. | .bacc .. => []
  | .fadd _ _ _ a b | .fsub _ _ _ a b | .fmul _ _ _ a b => r1 a ++ r1 b
  | .ffma _ _ _ a b c => r1 a ++ r1 b ++ r1 c
  | .fmin _ _ _ _ a b | .fmax _ _ _ _ a b => r1 a ++ r1 b
  | .fround _ _ _ _ a => r1 a
  | .fclass _ ty _ _ a => rw2 (ty == 1) a
  | .frcp _ _ _ a | .frsq _ _ _ a | .fsqrt _ _ _ _ a | .fex2 _ _ _ a | .flg2 _ _ _ a | .fsin _ _ _ a
  | .fcos _ _ _ a | .ftanh _ _ _ a => r1 a
  | .padd2 _ _ _ _ a b | .pmul2 _ _ _ _ a b => r1 a ++ r1 b
  | .pfma2 _ _ _ _ a b c | .pdot2 _ _ _ _ a b c => r1 a ++ r1 b ++ r1 c
  | .dadd _ _ _ a b | .dmul _ _ _ a b | .dmin _ _ _ _ a b | .dmax _ _ _ _ a b => rw2 true a ++ rw2 true b
  | .dfma _ _ _ a b c => rw2 true a ++ rw2 true b ++ rw2 true c
  | .drcpa _ _ _ a => rw2 true a
  | .ld _ _ m | .ldp _ _ m => rOff m.vo
  | .redq _ _ _ _ _ a | .scanq _ _ _ _ _ a => r1 a
  | .xlaneLane _ _ _ a l | .xlaneRot _ _ _ a l | .xlaneXor _ _ _ a l =>
    r1 a ++ (match l with | .reg r => r1 r | .imm _ => [])
  | .xlaneRev _ _ _ a => r1 a
  | .matchPeers _ w _ a | .matchLead _ w _ a => rw2 w a
  | .mxpack _ _ _ _ d a b => r1 d ++ r1 a ++ r1 b
  | .mxunpack _ _ _ _ _ _ _ a b => r1 a ++ r1 b
  | .cvtf _ c d a => (if fmtBits c.ff.toNat < 32 then r1 d else []) ++ rBits (fmtBits c.sel.toNat) a
  | .cvtif _ c d a => (if fmtBits c.ff.toNat < 32 then r1 d else []) ++ rBits (intBits c.sel.toNat) a
  | .cvti _ c d a => (if intBits c.sel.toNat < 32 then r1 d else []) ++ rBits (fmtBits c.ff.toNat) a
  | .call .. => []
  | .bexec _ _ _ _ a b _ => r1 a ++ (if b == 255 then [] else rw2 true b)
  | i => i.vregs

/-- Scalar registers of a second operand. -/
def ScalOp.regs : ScalOp → List Nat
  | .reg r => [r.toNat]
  | .imm _ => []

/-- Scalar registers of a number operand. -/
def CountOp.regs : CountOp → List Nat
  | .reg r => [r.toNat]
  | .imm _ => []

/-- The scalar registers a word reads or writes (R278, R346). -/
def Instr.sregs : Instr → List Nat
  | .sadd _ d a o | .ssub _ d a o | .smul _ d a o | .sshl _ d a o | .sshr _ d a o | .sshrS _ d a o
  | .sand _ d a o | .sor _ d a o | .sxor _ d a o => [d.toNat, a.toNat] ++ o.regs
  | .smov _ d a | .sli _ d a _ => [d.toNat, a.toNat]
  | .smovi _ d _ => [d.toNat]
  | .ssetp _ _ _ a o => a.toNat :: o.regs
  | .s2v _ _ _ a => [a.toNat]
  | .vread _ _ d _ a => [d.toNat, a.toNat]
  | .ld _ _ m | .st _ _ m | .atom _ _ m | .red _ _ m => [m.sb.toNat]
  | .prefetch _ _ _ sb _ => [sb.toNat]
  | .cp _ _ c | .cpretile _ c | .cpkey _ c | .cpfill _ _ c | .cpbank _ _ c =>
    [c.vs.toNat, c.sa.toNat, c.sd.toNat, c.sl.toNat]
  | .cp2d _ _ c => [c.vs.toNat, c.sa.toNat, c.sd.toNat, c.sl.toNat, c.sl.toNat + 1]
  | .qstat _ _ d _ => [d.toNat]
  | .join _ _ g | .leave _ _ g | .gbar _ _ g | .regclaim _ g | .regrel _ g => g.regs
  | .pbar _ _ _ s => [s.toNat]
  | .sget _ _ s _ d => if s then [d.toNat] else []
  | .bcw _ _ a b _ | .bct _ _ a b _ | .btw _ _ a b _ | .btt _ _ a b _ | .bcnt _ _ _ a b _
  | .bfirst _ _ _ a b _ | .bcodex _ _ a b _ => [a.toNat, b.toNat]
  | .sysrd _ d _ => [d.toNat]
  | .syswr _ _ a => [a.toNat]
  | _ => []

/-- The scalar register a word writes, if any (R133). -/
def Instr.sdest : Instr → Option Nat
  | .sadd _ d .. | .ssub _ d .. | .smul _ d .. | .sshl _ d .. | .sshr _ d .. | .sshrS _ d ..
  | .sand _ d .. | .sor _ d .. | .sxor _ d .. | .smov _ d _ | .smovi _ d _ | .sli _ d .. => some d.toNat
  | .vread _ _ d .. => some d.toNat
  | .sget _ _ s _ d => if s then some d.toNat else none
  | _ => none

-- ## What a word reads and writes (R130, R262)

/-- The vector registers a word writes. -/
def Instr.vdests : Instr → List Nat
  | .dbra _ _ a _ => r1 a
  | .callR _ _ a => rw2 true a
  | .mxpack _ _ _ _ d _ b => r1 d ++ r1 b
  | .mxunpack _ _ _ _ _ _ d _ _ => r1 d
  | .atom _ t m => rBytes (sizeBytes m.size.toNat) t
  | .cvtf _ c d _ | .cvtif _ c d _ => rBits (fmtBits c.ff.toNat) d
  | .cvti _ c d _ => rBits (intBits c.sel.toNat) d
  | i => i.vregs.take (i.vregs.length - i.vsrcs.length)

/-- Predicates, p7 left out: it is constant (R11). -/
def predNames (l : List PReg) : List Nat := (l.filter (· != 7)).map (fun p => 256 + p.toNat)

/-- The predicates a word reads, its guard among them. -/
def Instr.preads (i : Instr) : List Nat :=
  predNames ([(i.head.map Head.gp).getD 7] ++ match i with
    | .iaddx _ ci pci .. => if ci then [pci] else []
    | .sel _ _ _ pn .. => [pn]
    | .isetp _ _ _ _ cmb _ pc .. => if cmb = 0 then [] else [pc]
    | .fsetp _ _ _ cmb _ pc .. | .dsetp _ _ _ cmb _ pc .. => if cmb = 0 then [] else [pc]
    | .plop _ _ _ pa pb pc => [pa, pb, pc]
    | .voteAll _ _ _ pa | .voteAny _ _ _ pa | .voteUni _ _ _ pa | .ballot _ _ _ pa => [pa]
    | .p2v .. => [0, 1, 2, 3, 4, 5, 6]
    | _ => [])

/-- The predicates a word writes. -/
def Instr.pwrites : Instr → List Nat
  | .iaddx _ _ _ pco .. => predNames [pco]
  | .isetp _ _ _ _ _ pd .. => predNames [pd]
  | .isetpImm _ _ pd .. => predNames [pd]
  | .fsetp _ _ _ _ pd .. | .dsetp _ _ _ _ pd .. => predNames [pd]
  | .plop _ _ pd .. | .ssetp _ _ pd .. | .matchSame _ _ pd _ => predNames [pd]
  | .voteAll _ _ pd _ | .voteAny _ _ pd _ | .voteUni _ _ pd _ => predNames [pd]
  | .v2p _ m _ => predNames (([0, 1, 2, 3, 4, 5, 6] : List PReg).filter (fun p => m.getLsbD p.toNat))
  | _ => []

/-- Vector registers as 0-255, predicates from 256, scalar registers from 512; s0 is constant (R346). -/
def Instr.reads (i : Instr) : List Nat :=
  (i.vsrcs ++ i.preads ++ (i.sregs.filter (· != 0)).map (· + 512)).eraseDups
/-- Vector registers and predicates a word writes. -/
def Instr.writes (i : Instr) : List Nat := (i.vdests ++ i.pwrites).eraseDups

/-- Lane operations for the Binder: opcodes 0x00-0x3F (R258), `mxpack` apart (R351). -/
def Instr.isLaneOp (i : Instr) : Bool :=
  match i.body with
  | some (op, _) => decide (op.toNat ≤ 0x3F) && op.toNat != 0x33
  | none => false

/-- Cycles from issue to the arrival of the result (Tables 15.7, 16.9 and 17.7); 0 where it arrives by other
rules. -/
def Instr.resultCycles : Instr → Nat
  | .imulh .. | .imadw .. => 6
  | .dadd .. | .dmul .. | .dfma .. | .dmin .. | .dmax .. | .dsetp .. | .drcpa .. => 8
  | .fclass _ ty .. => if ty = 1 then 8 else 4
  | .cvtf _ c .. => if fmtBits c.ff.toNat = 64 ∨ fmtBits c.sel.toNat = 64 then 8 else 4
  | .cvti _ c .. | .cvtif _ c .. => if fmtBits c.ff.toNat = 64 ∨ intBits c.sel.toNat = 64 then 8 else 4
  | .frcp .. | .frsq .. | .fsqrt .. | .fex2 .. | .flg2 .. | .fsin .. | .fcos .. | .ftanh .. => 16
  | .mxpack .. => 12
  | .sadd .. | .ssub .. | .sshl .. | .sshr .. | .sshrS .. | .sand .. | .sor .. | .sxor .. | .smov .. | .smovi ..
  | .sli .. | .ssetp .. => 2
  | .smul .. | .s2v .. => 4
  | .vread .. => 6
  | .dbra .. | .call .. | .callR .. | .voteAll .. | .voteAny .. | .voteUni .. | .ballot .. | .sget .. => 4
  | .xlaneLane .. | .xlaneRot .. | .xlaneXor .. | .xlaneRev .. => 5
  | .matchSame .. | .matchPeers .. | .matchLead .. => 8
  | .redq _ op .. => if 9 ≤ op then 24 else 16
  | .scanq _ op .. => if 9 ≤ op then 28 else 20
  | i => if i.isLaneOp then 4 else 0

/-- Issue cycles of a word (Table 16.9, R368). -/
def Instr.issueCycles : Instr → Nat
  | .frcp .. | .frsq .. | .fsqrt .. | .fex2 .. | .flg2 .. | .fsin .. | .fcos .. | .ftanh .. => 4
  | .dadd .. | .dmul .. | .dfma .. | .dmin .. | .dmax .. | .dsetp .. | .drcpa .. => 2
  | .fclass _ ty .. => if ty = 1 then 2 else 1
  | .cvtf _ c .. => if fmtBits c.ff.toNat = 64 ∨ fmtBits c.sel.toNat = 64 then 2 else 1
  | .cvti _ c .. | .cvtif _ c .. => if fmtBits c.ff.toNat = 64 ∨ intBits c.sel.toNat = 64 then 2 else 1
  | _ => 1

/-- The scalar registers whose value a word reads; s0 is constant (R346). -/
def Instr.ssrcs (i : Instr) : List Nat :=
  match i with
  | .sysrd .. | .qstat .. => []
  | i => ((if i.sdest.isSome then i.sregs.drop 1 else i.sregs).filter (· != 0))

/-- The bank index a bank instruction names (Table 19.1). -/
def Instr.bankIdx : Instr → Option Nat
  | .bmode _ b .. | .bclr _ b .. | .bkey _ b .. | .bkscale _ b .. | .bmvm _ b .. | .bexec _ b ..
  | .bcw _ b .. | .bct _ b .. | .btw _ b .. | .btt _ b .. | .bcnt _ b .. | .bfirst _ b .. | .bacc _ b .. =>
    some b.toNat
  | .bwait _ b all _ => if all then none else some b.toNat
  | _ => none

/-- Bank instructions that take a slot in the count of R412. -/
def Instr.takesItem : Instr → Bool
  | .bmode .. => false
  | i => i.bankIdx.isSome

/-- Memory accesses of a thread, which wait for an earlier acquire of it (R196): a `prefetch` fetches data for it (R402), and a
`bcodex` makes plain loads (R421). -/
def Instr.isAccess : Instr → Bool
  | .ld .. | .st .. | .ldp .. | .atom .. | .red .. | .prefetch .. | .bcodex .. => true
  | _ => false

/-- Words that issue alone on path A (Table 5.2). -/
def Instr.solo : Instr → Bool
  | .bmvm .. | .bexec .. | .cp .. | .cp2d .. | .cpretile .. | .cpkey .. | .cpfill .. | .cpbank ..
  | .qpush .. | .qpop .. | .qtryPush .. | .qtryPop .. | .qstat .. | .sysrd .. | .syswr .. | .trap ..
  | .eret .. | .eretNext .. | .brk .. | .bunbind .. | .bindnow .. => true
  | _ => false

/-- Lookahead of a long-latency word (R318). -/
def Instr.la : Instr → Nat
  | .ld _ _ m | .st _ _ m | .ldp _ _ m | .atom _ _ m | .red _ _ m => m.la.toNat
  | .fenceAcq _ _ la | .fenceRel _ _ la | .fenceAr _ _ la | .fenceFull _ _ la | .hflush _ la => la.toNat
  | .cp _ _ c | .cp2d _ _ c | .cpretile _ c | .cpkey _ c | .cpfill _ _ c | .cpbank _ _ c => c.la.toNat
  | .qpush _ _ _ _ _ la | .qpop _ _ _ _ _ la | .qtryPush _ _ _ _ _ _ la | .qtryPop _ _ _ _ _ _ la
  | .qstat _ _ _ la => la.toNat
  | .bmode _ _ _ la | .bclr _ _ _ la | .bwait _ _ _ la | .bkey _ _ _ _ _ _ _ la
  | .bkscale _ _ _ _ _ _ _ la | .bmvm _ _ _ _ _ _ _ _ la | .bexec _ _ _ _ _ _ la | .bcw _ _ _ _ la
  | .bct _ _ _ _ la | .btw _ _ _ _ la | .btt _ _ _ _ la | .bcnt _ _ _ _ _ la | .bfirst _ _ _ _ _ la
  | .bacc _ _ _ _ _ _ la | .bcodex _ _ _ _ la => la.toNat
  | _ => 0

end Sys2Proof

namespace Sys2Proof.Machine

-- ## The word that issues

/-- What a word sees as it issues on its path. -/
structure Ictx where
  s : State
  core : Nat
  slot : Nat
  /-- The quire now, and as it stood before the cycle (R133). -/
  q : Quire
  sh : Quire
  isB : Bool
  /-- Lanes of the path, and those of them whose guard is true (R317, R369). -/
  path : Lanes
  lanes : Lanes
  pc : Dword
  pos : Nat
  /-- Register blocks that the word may name (R384). -/
  blocks : Nat
  /-- A word that is no instruction, with a solo opcode (R325). -/
  alone : Bool := false
  deriving Repr

/-- A lane's guard (R317). -/
def guardOf (h : Head) (t : Thread) : Bool := t.pred h.gp.toNat != h.gn

/-- The quire as its path B sees it in a cycle in which path A's word has written some registers: `old` is the quire as it
stood before the cycle, and what has arrived since is there (R133, R316, R380). -/
def Quire.undo (q old : Quire) (ss vs : List Nat) (m : Lanes) : Quire :=
  let q := ss.foldl (fun q r => q.setS r (old.s r)) q
  let q := { q with arriving := { q.arriving with late := old.arriving.late } }
  if vs.isEmpty then q
  else q.mapLanes (lanesOf m) (fun i t =>
    { vs.foldl (fun t r => t.setReg r ((old.th i).reg r)) t with outst := t.outst.filter (fun o => o.idx + 1 != t.issued) })

/-- The word that issues on the focused core's run, if a run is in progress. -/
def State.issuing (s : State) (h : Head) : Option Ictx :=
  let k := s.core s.focus
  match k.run with
  | none => none
  | some r =>
    let q := k.quire r.slot
    let p := if r.turn then r.b else r.a
    let sh := if r.paired then q.undo r.shadow r.aWrote r.aRegs r.aLanes else q
    let lanes := maskOf ((lanesOf p.lanes).filter (fun i => guardOf h (q.th i)))
    some { s := s, core := s.focus, slot := r.slot, q := q, sh := sh, isB := r.turn, path := p.lanes,
           lanes := lanes, pc := p.pc, pos := p.pos, blocks := min r.blocks q.blocks }

/-- Format slot of the word's launch. -/
def Ictx.fslot (x : Ictx) (n : BitVec 3) : Dword := (x.s.launch x.q.lk).rcd.fslot.getD n.toNat 0
/-- EF of a format slot. -/
def slotEF (w : Dword) : Nat := (w.extractLsb' 0 4).toNat

/-- Width w of the aligned form of an element format. -/
def formW (ef : Nat) : Nat :=
  if ef = 4 then 5 else if ef = 5 ∨ ef = 6 then 12 else if ef = 7 then 24 else if ef = 8 then 60 else 8

/-- All lanes of a quire. -/
def allLanes : Lanes := 0xFFFFFFFF

/-- The vector registers a word reads and the lanes it reads them in: its participants', but for lanes it exchanges values
with (R380), the lane of `vread` (R349) and the fixed lanes of `bexec` (R419). -/
def Ictx.vlooks (x : Ictx) (i : Instr) : List (Lanes × Nat) :=
  let own (rs : List Nat) : List (Lanes × Nat) := rs.map (fun r => (x.lanes, r))
  let every (rs : List Nat) : List (Lanes × Nat) := rs.map (fun r => (allLanes, r))
  match i with
  | .xlaneLane _ _ _ a l | .xlaneRot _ _ _ a l | .xlaneXor _ _ _ a l =>
    every (r1 a) ++ (match l with | .reg r => own (r1 r) | .imm _ => [])
  | .xlaneRev _ _ _ a => every (r1 a)
  | .vread _ kind _ a sa => (rw2 (kind == 2) a).map (fun r => (maskOf [(x.sh.s sa.toNat).toNat % 32], r))
  | .bexec _ _ _ _ a b _ => (0x3F, a.toNat) :: (if b == 255 then [] else every (rw2 true b))
  | .bkey _ _ fs a .. => own (rBits (fmtBits (slotEF (x.fslot fs))) a)
  | i => own i.vsrcs

/-- What a word does when it issues and is legal. -/
inductive Eff where
  /-- Performed: the path goes on behind the word. -/
  | ok (s : State)
  /-- Performed, and the PCs of the path's threads are set: the run ends on this path. -/
  | jump (s : State)
  /-- A precise fault: cause, lanes that raise it, address, detail (R141). -/
  | trap (c : Cause) (mask : Lanes) (addr detail : Nat)
  /-- A precise ECC fault, the failing location scrubbed (R155). -/
  | ecc (s : State) (mask : Lanes) (detail : Nat)
  /-- Not performed: the threads stand at the word, and the run ends on this path. -/
  | again

/-- The state with the quire of the issuing word replaced. -/
def Ictx.put (x : Ictx) (q : Quire) : State := x.s.setQuire x.core x.slot q

/-- A conversion that `bmode` asked for: it takes no slot in the count of R412 (R413). -/
def Work.isConv : Work → Bool
  | .conv _ => true
  | _ => false

/-- Passes at the head of some items whose count stages have begun by now, when one before them ends at a moment (R229, R418);
`cyc`: the parts of a tick that some cycles take. -/
def begunPasses (now : Nat) (cyc : Nat → Nat) : Nat → List Item → Nat
  | _, [] => 0
  | t, it :: rest =>
    match it.work with
    | .bmvm fs _ _ ng _ _ =>
      if max it.since t ≤ now then 1 + begunPasses now cyc (max it.since t + cyc (ng * formW (slotEF fs))) rest else 0
    | _ => 0

/-- Items of a bank that have arrived and not begun (R412); behind a pass, another begins in its scale stage (R229). -/
def State.waitingItems (s : State) (c : Nat) (b : Bank) : Nat :=
  let rest := match b.busy, b.queue with
    | true, it :: rest =>
      (match it.work with
        | .bmvm .. => rest.drop (begunPasses s.cycle (s.parts c) (b.freeAt - s.parts c 12) rest)
        | _ => rest)
    | _, q => q
  (rest.filter (fun it => !it.work.isConv)).length

/-- The share of a quire. -/
def Core.shareOf (k : Core) (q : Quire) : Share := k.shares.get {} q.share
/-- Physical bank of a share bank index. -/
def Core.physBank (k : Core) (q : Quire) (n : Nat) : Nat := (k.shareOf q).banks.getD n 0

/-- Slots accepted by pushes and not yet popped (R286). -/
def Queue.occ (x : Queue) : Nat := x.flying.length + x.sram.length + x.spilled

/-- The queue and end that a binding names. -/
def State.binding (s : State) (q : Quire) (n : Nat) : Option (Nat × Bool) :=
  ((s.launch q.lk).rcd.binds.getD n none)

/-- The spare copy of a slot runs on some bank of the core (R248). -/
def Core.spareBusy (k : Core) (cx : Nat) : Bool :=
  let x : CxSlot := k.codex.get {} cx
  (Tab.vals k.banks).any (fun b => match b.micro with
    | some m => m.cx == cx && m.second != x.cur2
    | none => false)

/-- Value of a group number or a block count operand (R383). -/
def countVal (q : Quire) (o : CountOp) : Nat :=
  match o with
  | .reg r => (q.s r.toNat).toNat
  | .imm n => n.toNat

/-- The first of the blocks that `regrel` of a count would give up, as a register number (R178). -/
def Quire.relTop (q sh : Quire) (n : CountOp) : Nat := 8 * (q.blocks - min (countVal sh n) (q.blocks - 1))

/-- An instruction is outstanding whose result is destined for a register from `top` on (R178). -/
def Quire.destined (q : Quire) (top : Nat) : Bool :=
  q.threads.any (fun e => e.2.outst.any (fun o => o.regs.any (fun r => decide (top ≤ r))))
/-- The other path waits in a group or package operation whose status is destined for a register from `top` on (R178). -/
def Quire.statusDue (q : Quire) (top : Nat) : Bool :=
  q.waits.any (fun w => decide (top ≤ w.vd) && (match w.kind with
    | .claim _ | .reclaim _ => false
    | _ => true))

/-- A wait for a unit that a word meets, whatever lanes issue it (Table 5.1); `sh`: the quire as it stood before the cycle,
whose scalars the word reads (R133). -/
def unitWait (s : State) (c : Nat) (q sh : Quire) (i : Instr) : Option Stall :=
  let k := s.core c
  if i.sregs.any (fun r => q.pend.contains r) then some .copy else
  match i with
  | .cp .. | .cp2d .. | .cpretile .. | .cpkey .. | .cpfill .. | .cpbank .. =>
    if k.cmds.length ≥ 16 then some .engq else none
  | .qpush _ n .. =>
    match s.binding q n.toNat with
    | some (n, false) =>
      let x := s.queue n
      if x.quota = 0 ∧ x.nslot ≤ x.occ then some .qfull else none
    | _ => none
  | .qpop _ n .. =>
    match s.binding q n.toNat with
    | some (n, true) => if (s.queue n).ccore = c % 40 ∧ (s.queue n).sram.isEmpty then some .qempty else none
    | _ => none
  | .bmode _ b comp _ =>
    let m := (k.bank (k.physBank q b.toNat)).mode
    if (k.shareOf q).banks.length ≤ b.toNat then none
    else if (m = .toComp ∧ comp = false) ∨ (m = .toStor ∧ comp = true) then some .bank else none
  | .bcodex _ cx .. =>
    let x : CxSlot := k.codex.get {} cx.toNat
    if x.owner = some q.lk ∧ (x.writing.isSome ∨ k.spareBusy cx.toNat) then some .bank else none
  | .regrel _ n =>
    if q.destined (q.relTop sh n) || q.statusDue (q.relTop sh n) then some .mem else none
  | i =>
    match i.bankIdx with
    | some b => if i.takesItem ∧ b < (k.shareOf q).banks.length ∧ 8 ≤ s.waitingItems c (k.bank (k.physBank q b)) then some .bank else none
    | none => none

/-- A wait of one thread for its earlier long-latency instructions (R140, R196, R248, R318). -/
def threadWait (t : Thread) (h : Head) (i : Instr) : Option Stall :=
  match t.outst.find? (fun o => (h.e && !o.fpDone) || (!o.past && decide (o.idx + o.la < t.issued))
      || (o.acq && i.isAccess)) with
  | some o => some o.reason
  | none =>
    match i with
    | .bexec .. | .bcodex .. => if t.outst.any (fun o => o.codex) then some .mem else none
    | _ => none

/-- A later word has written a register of an outstanding instruction in a lane. -/
def OnWay.isOver (w : OnWay) (id r n : Nat) : Bool := w.stale.any (fun e => e.1 == id && e.2.1 == r && e.2.2.getLsbD n)

/-- A register the word reads has not arrived in a lane it reads it in (R130, R316, R380). -/
def notArrived (x : Ictx) (i : Instr) : Bool :=
  (x.vlooks i).any (fun e => (lanesOf e.1).any (fun n => (x.sh.th n).outst.any (fun o =>
    o.regs.contains e.2 && !x.q.arriving.isOver o.id e.2 n)))

/-- A thread of the path waits for its earlier instructions at a word (R316). -/
def coverStalls (x : Ictx) (h : Head) (i : Instr) : Bool :=
  (lanesOf x.path).any (fun n => (threadWait (x.q.th n) h i).isSome)

/-- A wait that only another quire ends, which falls between runs (R314). -/
def Stall.between : Stall → Bool
  | .qfull | .qempty => true
  | _ => false

/-- The wait for a unit that a word meets is one that another quire may have to end, so that it falls between runs: a
queue's, or that of `regrel` for a status alone (R178, R314). -/
def Ictx.between (x : Ictx) (i : Instr) (w : Stall) : Bool :=
  w.between || (match i with
    | .regrel _ n => !x.q.destined (x.q.relTop x.sh n)
    | _ => false)

/-- The participants wait for a unit or for a result at a word (R130, R316). -/
def portStalls (x : Ictx) (i : Instr) : Bool :=
  x.lanes != 0 && (((unitWait x.s x.core x.q x.sh i).map (fun w => !x.between i w)).getD false || notArrived x i)

/-- The participants meet such a wait: the run ends before the word (R314, R316). -/
def runYields (x : Ictx) (i : Instr) : Bool :=
  x.lanes != 0 && ((unitWait x.s x.core x.q x.sh i).map (x.between i)).getD false

/-- Stamp of the cycle some cycles of a core's island from now. -/
def State.after (s : State) (c n : Nat) : Nat := (s.spend c n).cycle

/-- Moment at which a word's result arrives, if it issues now (R350, R368, R388, R426). -/
def arrival (x : Ictx) (i : Instr) : Option Nat :=
  match i with
  | .sysrd _ _ num =>
    some (if num < 0x010 then x.s.after x.core 8
      else x.s.cycle + (if num < 0x100 then 60 else 250) * tickParts)
  | i => if i.resultCycles = 0 then none else some (x.s.after x.core i.resultCycles)

/-- All that a word reads, and the lanes it reads it in, numbered as in `Instr.reads`; `regrel` waits for what is destined
for the registers it gives up (R178). -/
def Ictx.looks (x : Ictx) (i : Instr) : List (Lanes × Nat) :=
  (x.path, 256 + ((i.head.map Head.gp).getD 7).toNat)
    :: (if x.lanes = 0 then [] else
      x.vlooks i ++ i.preads.map (fun p => (x.lanes, p)) ++ i.ssrcs.map (fun r => (allLanes, r + 512))
        ++ match i with
          | .regrel _ n => ((List.range (8 * x.q.blocks)).drop (x.q.relTop x.sh n)).map (fun r => (allLanes, r))
          | _ => [])

/-- A scalar write of path B that is lost: path A wrote the register in the cycle (R133). -/
def Ictx.loses (x : Ictx) (d : Nat) : Bool :=
  x.isB && (match (x.s.core x.core).run with
    | some r => r.aWrote.contains d
    | none => false)

/-- What a word writes, and the lanes it writes it in, numbered as in `Instr.reads`. -/
def Ictx.sets (x : Ictx) (i : Instr) : List (Lanes × Nat) :=
  i.writes.map (fun r => (x.lanes, r))
    ++ ((match i with
      | .sysrd _ d _ => [d.toNat]
      | i => i.sdest.toList).filter (fun d => d != 0 && !x.loses d)).map (fun r => (allLanes, r + 512))

/-- What arrives some cycles after its word, in the lanes that no later word writes. -/
def trimLate (l : List (Nat × Lanes × Nat)) (sets : List (Lanes × Nat)) : List (Nat × Lanes × Nat) :=
  (l.map (fun e => (e.1, sets.foldl (fun m w => if w.2 = e.1 then m &&& ~~~w.1 else m) e.2.1, e.2.2))).filter
    (fun e => e.2.1 != 0)

/-- The outstanding instructions whose registers a word that has just issued writes too (log entry 64). -/
def Quire.overs (q : Quire) (m : Lanes) (regs : List Nat) : List (Nat × Nat × Lanes) :=
  (lanesOf m).flatMap (fun n => (q.th n).outst.flatMap (fun o =>
    if o.idx + 1 = (q.th n).issued then [] else (o.regs.filter regs.contains).map (fun r => (o.id, r, maskOf [n]))))

/-- A result that a word reads has not arrived (R130). -/
def lateResult (x : Ictx) (i : Instr) : Bool :=
  (x.s.core x.core).resident.isNone
    && x.sh.arriving.late.any (fun e => decide (x.s.cycle < e.2.2)
      && (x.looks i).any (fun l => l.2 == e.1 && (l.1 &&& e.2.1) != 0))

/-- The path's last word delays its next one (R368). -/
def pathHeld (x : Ictx) : Bool :=
  match (x.s.core x.core).run with
  | some r => (x.s.core x.core).resident.isNone && decide (x.s.cycle < (if r.turn then r.b else r.a).next)
  | none => false

/-- A path that is delayed lets the other go on; a cycle passes when neither can (R368). -/
def passTurn (s : State) (c : Nat) : State :=
  match (s.core c).run with
  | some r =>
    let o := if r.turn then r.a else r.b
    if !o.done && decide (o.next ≤ s.cycle) then
      let r := { r with turn := !r.turn, paired := false, aWrote := [], aRegs := [], aBank := none }
      (if r.turn then s else s.spend c 1).setCore c { s.core c with run := some r }
    else s.spend c 1
  | none => s

/-- Path B's word goes to the bank that path A's word of the cycle went to: path B slips by a cycle (R133). -/
def slipsBank (x : Ictx) (i : Instr) : Bool :=
  x.lanes != 0 && (match (x.s.core x.core).run with
    | some r => r.turn && r.paired && r.aBank.isSome && r.aBank == i.bankIdx
    | none => false)

/-- A cycle passes on path A alone; path B's word shares the next one with path A's next word, if there is one (R133). -/
def slipTurn (s : State) (c : Nat) : State :=
  match (s.core c).run with
  | some r => (s.spend c 1).setCore c { s.core c with run := some { r with turn := r.a.done, paired := false, aWrote := [], aRegs := [], aBank := none } }
  | none => s

/-- The issue port stalls at the word until the part has taken another step (R130, R316). -/
def stallPort (s : State) (c : Nat) : State :=
  match (s.core c).run with
  | some r => s.setCore c { s.core c with run := some { r with stalled := some s.events } }
  | none => s

/-- A word that cannot be read, or is no instruction, waits for nothing but covers. -/
def plainHead : Head := { b := true, e := false, gn := false, gp := 7 }

/-- Items 2, 3, 7, 8 and 9 of R323. -/
def illegalWord (x : Ictx) (h : Head) (i : Instr) : Bool :=
  (h.e && x.pos != 0) || !i.wf || i.vregs.any (fun r => decide (8 * x.blocks ≤ r))

/-- %repc of the path's threads at a word with E = 1 that starts its run (R138, R315). -/
def enterRegion (x : Ictx) (h : Head) : Ictx :=
  if h.e ∧ x.pos = 0 then
    let f (t : Thread) : Thread := if t.handler then t else { t with repc := x.pc }
    let q := x.q.mapLanes (lanesOf x.path) (fun _ t => f t)
    { x with q := q, s := x.put q }
  else x

/-- The turn after a word of path A or B, and the marks of the cycle (R130, R133); `did`: it was performed. -/
def Run.turnOver (r : Run) (x : Ictx) (i : Option Instr) (did : Bool) : Run :=
  let solo := (i.map Instr.solo).getD x.alone
  if r.turn then { r with turn := r.a.done, paired := false, aWrote := [], aRegs := [], aBank := none }
  else
    let pair := !r.b.done && !solo
    { r with turn := !r.b.done && (!solo || r.a.done), paired := pair,
             aWrote := if pair && did then (i.bind Instr.sdest).toList else [],
             aRegs := if pair && did then (i.map Instr.vdests).getD [] else [], aLanes := x.lanes,
             aBank := if pair && did then i.bind Instr.bankIdx else none }

/-- The path that issued a word goes on behind it, or ends. -/
def Run.step (r : Run) (x : Ictx) (next : Nat) (ends : Bool) : Run :=
  let p := if r.turn then r.b else r.a
  let p := { p with pc := x.pc + 8, pos := x.pos + 1, next := next, done := p.done || ends || p.lanes == 0 }
  if r.turn then { r with b := p, stalled := none } else { r with a := p, shadow := x.sh, stalled := none }

/-- Moment before which the path's next word does not issue (R368). -/
def Ictx.nextAt (x : Ictx) (i : Option Instr) : Nat :=
  match i with
  | some i => if i.issueCycles = 1 then 0 else x.s.after x.core i.issueCycles
  | none => 0

/-- Bookkeeping of the run after a word: the turn, the end of the run, the stamp (R125, R129, R134); `did`: its effect was
performed. The words of a resident folio take their lanes at once; its cycles are those of its starts (R265). -/
def closeWord (s : State) (x : Ictx) (i : Option Instr) (ends did : Bool) : State :=
  let k := s.core x.core
  match k.run with
  | none => s
  | some r =>
    let r := (r.step x (x.nextAt i) ends).turnOver x i (did && x.lanes != 0)
    let r := { r with blocks := min r.blocks (k.quire x.slot).blocks }
    let s := s.spend x.core (if r.paired || k.resident.isSome then 0 else 1)
    if !(k.quire x.slot).live then s.setCore x.core { k with run := none }
    else if r.a.done && r.b.done then
      let q := k.quire x.slot
      s.setCore x.core ({ k with run := none, bar := k.bar.filter (· != x.slot) }.setQuire x.slot
        { q with stamp := s.cycle })
    else s.setCore x.core { k with run := some r }

/-- The threads of the path have issued one more word. -/
def Quire.countIssue (q : Quire) (m : Lanes) : Quire :=
  q.mapLanes (lanesOf m) (fun _ t => { t with issued := t.issued + 1 })

/-- The threads of the path stand behind the word. -/
def Quire.passWord (q : Quire) (m : Lanes) (pc : Dword) : Quire :=
  q.mapLanes (lanesOf m) (fun _ t => { t with pc := pc + 8 })

/-- The word's results arrive some cycles after it (R130); they take the place of what was on its way to the same
registers of the same lanes. -/
def Quire.expect (q : Quire) (x : Ictx) (i : Instr) : Quire :=
  if x.lanes = 0 then q
  else
    let w := q.arriving
    let late := trimLate (w.late.filter (fun e => decide (x.s.cycle < e.2.2))) (x.sets i)
    let stale := w.stale.filter (fun e => q.threads.any (fun t => t.2.outst.any (fun o => o.id == e.1)))
    { q with arriving :=
      { late := match arrival x i with
          | some t => late ++ (x.sets i).map (fun e => (e.2, e.1, t))
          | none => late
        stale := stale ++ q.overs x.lanes i.vdests } }

/-- A precise fault of a word: ILLEGAL takes every lane of the path in its mask (R323). -/
def trapWord (x : Ictx) (i : Option Instr) (c : Cause) (mask : Lanes) (addr detail : Nat) : State :=
  let s := x.s.setQuire x.core x.slot ((x.s.quire x.core x.slot).countIssue x.path)
  closeWord (s.takeFault x.core x.slot x.path
    { cause := c, deliv := 0, np := false, fpc := x.pc, mask := mask } addr detail) x i true false

/-- The state behind a word that was performed. -/
def pastWord (x : Ictx) (i : Instr) (h : Head) (s : State) : State :=
  if (s.quire x.core x.slot).live then
    closeWord (s.setQuire x.core x.slot
      ((((s.quire x.core x.slot).passWord x.path x.pc).countIssue x.path).expect x i))
      x (some i) h.b true
  else closeWord s x (some i) true true

/-- The state behind a word that set the PCs of its path's threads. -/
def jumpWord (x : Ictx) (i : Instr) (s : State) : State :=
  if (s.quire x.core x.slot).live then
    closeWord (s.setQuire x.core x.slot (((s.quire x.core x.slot).countIssue x.path).expect x i)) x (some i) true true
  else closeWord s x (some i) true true

/-- The state after a word's effect. -/
def afterEff (x : Ictx) (i : Instr) (h : Head) : Eff → State
  | .ok s => pastWord x i h s
  | .jump s => jumpWord x i s
  | .trap c m a d => trapWord x (some i) c m a d
  | .ecc s m d => trapWord { x with s := s } (some i) .ecc m 0 d
  | .again => closeWord x.s x (some i) true false

/-- A register block rewritten as zero, its errors gone (R155). -/
def Quire.scrubBlock (q : Quire) (b : Nat) : Quire :=
  { q with threads := q.threads.map (fun e => (e.1,
      { e.2 with v := e.2.v.filter (fun r => r.1 / 8 != b), badV := e.2.badV.filter (fun k => k / 4 != b) })) }

/-- Lanes with a wrong word among the registers that a word reads, and the register (R24). -/
def Ictx.badReads (x : Ictx) (i : Instr) : List (Nat × Nat) :=
  (x.vlooks i).flatMap (fun e => ((lanesOf e.1).filter (fun n => (x.q.th n).badReg e.2)).map (fun n => (n, e.2)))

/-- The register block of a wrong word that a word reads (R24). -/
def Ictx.badBlock (x : Ictx) (i : Instr) : Option Nat := (x.badReads i).head?.map (fun e => e.2 / 8)

/-- The participants in the mask of that error: those with a wrong word of their own, or all where another lane has it
(R141). -/
def Ictx.badMask (x : Ictx) (i : Instr) : Lanes :=
  let m := maskOf ((x.badReads i).map Prod.fst) &&& x.lanes
  if m = 0 then x.lanes else m

/-- What a word does once nothing makes it wait: a word without a participant performs nothing (R317), and
one that reads a register word with an error raises ECC (R24). -/
def perform (x : Ictx) (i : Instr) (h : Head) (eff : Ictx → Eff) : State :=
  if x.lanes = 0 then pastWord x i h x.s
  else match x.badBlock i with
    | some b => afterEff x i h (.ecc (x.put (x.q.scrubBlock b)) (x.badMask i) (2 * 2 ^ 17))
    | none => afterEff x i h (eff x)

/-- The issue of one word on its path: the cover of the thread's earlier instructions, the legality of
R323, the other waits of R316, the results of R130, then the word's effect for its participants. -/
def issue (i : Instr) (h : Head) (s : State) (eff : Ictx → Eff) : Host.Outcome State Fault Refusal :=
  match s.issuing h with
  | none => .next s
  | some x =>
    if pathHeld x then .next (passTurn s x.core)
    else if coverStalls x h i then .next (stallPort s x.core)
    else if illegalWord x h i then .next (trapWord (enterRegion x h) (some i) .illegal x.path 0 0)
    else if portStalls x i then .next (stallPort s x.core)
    else if runYields x i then .next (afterEff x i h .again)
    else if lateResult x i then .next (s.spend x.core 1)
    else if slipsBank x i then .next (slipTurn s x.core)
    else .next (perform (enterRegion x h) i h eff)

-- ## Lane results

/-- What a lane instruction writes in one lane. -/
structure LaneOut where
  v : List (Nat × Word) := []
  p : List (Nat × Bool) := []
  fl : Word := 0
  lfsr : Option Word := none
  deriving DecidableEq, Repr, Inhabited

/-- The thread with the results of a lane instruction written. -/
def Thread.write (t : Thread) (o : LaneOut) : Thread :=
  let t := t.setRegs o.v
  let t := o.p.foldl (fun t e => t.setPred e.1 e.2) t
  { t.raise o.fl with lfsr := o.lfsr.getD t.lfsr }

/-- Every participant reads its operands, then every participant writes (R332). -/
def Quire.laneWrite (q : Quire) (m : Lanes) (f : Nat → Thread → LaneOut) : Quire :=
  q.mapLanes (lanesOf m) (fun i t => t.write (f i t))

/-- A lane instruction whose result in a lane depends on that lane's thread alone. -/
def laneWord (i : Instr) (h : Head) (s : State) (f : Thread → LaneOut) : Host.Outcome State Fault Refusal :=
  issue i h s (fun x => .ok (x.put (x.q.laneWrite x.lanes (fun _ t => f t))))

/-- A lane instruction that writes one register. -/
def out1 (d : VReg) (x : Word) : LaneOut := { v := [(d.toNat, x)] }
/-- A lane instruction that writes a pair. -/
def out2 (d : VReg) (x : Dword) : LaneOut :=
  { v := [(d.toNat, x.extractLsb' 0 32), (d.toNat + 1, x.extractLsb' 32 32)] }
/-- A lane instruction that writes a predicate. -/
def outP (p : PReg) (b : Bool) : LaneOut := { p := [(p.toNat, b)] }

/-- The value of a pair (R333). -/
def Thread.pair (t : Thread) (r : VReg) : Dword := t.reg (r.toNat + 1) ++ t.reg r.toNat
/-- The value of a register. -/
def Thread.rv (t : Thread) (r : VReg) : Word := t.reg r.toNat

/-- A scalar instruction, once for the quire: it reads the scalars from before the cycle, and path B's
write to a register that path A wrote in the cycle is lost (R133, R346). -/
def scalarWord (i : Instr) (h : Head) (s : State) (d : SReg) (f : Ictx → Dword) :
    Host.Outcome State Fault Refusal :=
  issue i h s (fun x =>
    .ok (if x.loses d.toNat then x.s else x.put (x.q.setS d.toNat (f x))))

/-- A second scalar operand (R346). -/
def Ictx.op2 (x : Ictx) : ScalOp → Dword
  | .reg r => x.sh.s r.toNat
  | .imm n => n.signExtend 64

end Sys2Proof.Machine
end

