-- ==== Sys2Proof/Machine/Wire.lean ====
section
/-! DEFINITION. Messages as flits (R36-R39), and their way to the links: what a die sends to another die, or out of
a Hyley port, is queued at the first link of its route (R50). -/

namespace Sys2Proof.Machine

/-- The outgoing side of a Hyley port. -/
def hyleyOut (p : Nat) : Nat := 1024 + 2 * p
/-- The X-die of a Hyley port (R52). -/
def portDie (p : Nat) : Nat := 24 + p / 18

/-- The directed link of the other direction. -/
def backLink (n : Nat) : Nat := if n < 1024 then n % 32 * 32 + n / 32 else if n % 2 = 0 then n + 1 else n - 1

/-- First link from a die to a destination. -/
def firstLink (a dst : Nat) : Option Nat :=
  if dst < 32 then (route a dst).head?
  else if a = portDie (dst - 32) then some (hyleyOut (dst - 32))
  else (route a (portDie (dst - 32))).head?

-- ## The flit (R36)

/-- One step of CRC-32C, bit-reflected (log entry 53). -/
def crcBit (c : Nat) : Nat := if c % 2 = 1 then (c / 2) ^^^ 0x82F63B78 else c / 2
/-- CRC-32C of bytes, from a register value on. -/
def crcFrom : Nat → List Byte → Nat
  | c, [] => c
  | c, b :: bs =>
    crcFrom (crcBit (crcBit (crcBit (crcBit (crcBit (crcBit (crcBit (crcBit (c ^^^ b.toNat))))))))) bs
/-- CRC-32C of bytes (R36). -/
def crc32c (bs : List Byte) : Nat := crcFrom 0xFFFFFFFF bs ^^^ 0xFFFFFFFF

/-- The 4-byte header of a flit (Table 2.1). -/
def Flit.header (f : Flit) : Nat := f.seq % 2 ^ 12 + f.cls * 2 ^ 12 + f.typ * 2 ^ 16 + f.sid * 2 ^ 20 + f.len * 2 ^ 29
/-- Bytes 0-59 of a flit: its header, and its payload with a zero tail (R36). -/
def Flit.image (f : Flit) : List Byte := toLe 4 f.header ++ slice f.payload 0 56
/-- The 64 bytes of a flit (R36). -/
def Flit.bytes (f : Flit) : List Byte := f.image ++ toLe 4 f.crc
/-- A flit as its sender sends it, with its CRC. -/
def Flit.seal (f : Flit) : Flit := { f with crc := crc32c f.image }
/-- The CRC check of a flit fails. -/
def Flit.crcBad (f : Flit) : Bool := f.crc != crc32c f.image

-- ## Messages

/-- The flits of a message with a prefix: the first, then continuations (R38, R39). -/
def flitsOf (cls typ msg dst : Nat) (pre data : List Byte) : List Flit :=
  let first := pre ++ data.take 40
  let n := (data.length + 15) / 56
  let rest (k : Nat) := (data.drop (40 + 56 * k)).take 56
  { cls := cls, typ := typ, len := (first.length + 7) / 8, payload := first, msg := msg, dst := dst, last := n == 0 }
    :: ((List.range n).map (fun k =>
        { cls := cls, typ := 15, len := ((rest k).length + 7) / 8, payload := rest k, msg := msg, dst := dst,
          last := k + 1 == n }))

/-- The three flits of a queue slot (R38). -/
def slotFlits (tok dst sid : Nat) (bs : List Byte) : List Flit :=
  [{ cls := 3, typ := 0, sid := sid, len := 7, payload := bs.take 56, msg := tok, dst := dst, last := false },
   { cls := 3, typ := 1, sid := sid, len := 7, payload := slice bs 56 56, msg := tok, dst := dst, last := false },
   { cls := 3, typ := 1, sid := sid, len := 2, payload := slice bs 112 16, msg := tok, dst := dst }]

/-- The 16-byte prefix of a request or response (Table 2.3). -/
def flitPrefix (addr srcDie srcDev tag op lgSize scope ctx : Nat) : List Byte :=
  toLe 8 addr ++ toLe 8 (srcDie + srcDev * 2 ^ 5 + tag % 2 ^ 16 * 2 ^ 16 + op * 2 ^ 32 + lgSize * 2 ^ 40
    + scope * 2 ^ 44 + ctx * 2 ^ 48)

/-- TYPE of a request (Table 2.2). -/
def reqCode : ReqKind → Nat
  | .read => 0 | .write => 1 | .wmask => 2 | .atom => 3 | .red => 4

/-- Die of a requester. -/
def Req.srcDie (r : Req) : Nat := if r.core < 640 then dieOf r.core else r.die

/-- A byte mask as bytes, one bit a byte of data. -/
def maskBytes (m : List Bool) : List Byte :=
  toLe ((m.length + 7) / 8) ((List.range m.length).foldl (fun n k => n + (m.getD k false).toNat * 2 ^ k) 0)

/-- Copies of the line may be kept by the requester (R185, R393): a fill asks for the whole line. -/
def Req.cacheable (r : Req) : Bool := r.space == 0 && decide (r.core < 640) && !isRegArea r.pa

/-- A request is a fill of a line. -/
def Req.fills (r : Req) : Bool := r.kind == .read && r.cacheable

/-- ADDR and SIZE of a request: the line of a fill, a piece whose bytes are a power of two, and else the aligned 8 bytes that
hold the piece, at an edge of a line, of an access that crosses it (R38, R202). -/
def Req.span (r : Req) : Nat × Nat :=
  if r.fills then (r.pa / 128 * 128, 7) else if 2 ^ r.size.log2 = r.size then (r.pa, r.size.log2) else (r.pa / 8 * 8, 3)

/-- A store of a piece that SIZE cannot name goes as a masked write of 8 bytes. -/
def Req.wireKind (r : Req) : ReqKind := if r.kind = .write && r.span.2 == 3 && r.size != 8 then .wmask else r.kind

/-- Data of a request: a mask goes ahead of the bytes, and a read has none (Table 2.2). -/
def Req.sends (r : Req) : List Byte :=
  match r.kind, r.wireKind with
  | .read, _ => []
  | .wmask, _ => maskBytes r.mask ++ r.data
  | .write, .wmask =>
    maskBytes ((List.range 8).map (fun k => decide (r.pa % 8 ≤ k) && decide (k < r.pa % 8 + r.size)))
      ++ slice (List.replicate (r.pa % 8) 0 ++ r.data.take r.size) 0 8
  | _, _ => r.data

/-- Flits of a request on the bridges. A request that is to leave by a Hyley port has no physical address: its domain
address goes ahead of its data (log entry 52). -/
def State.reqFlits (s : State) (id dst : Nat) : List Flit :=
  let r := s.req id
  let far := r.space == 3
  flitsOf 1 (reqCode r.wireKind) id dst
    (flitPrefix (if far then 0 else r.span.1) r.srcDie s.domDev.toNat id r.aop r.span.2 r.scope r.ctx)
    ((if far then toLe 8 r.va else []) ++ r.sends)

/-- A response carries data. -/
def Req.brings (r : Req) : Bool := r.kind == .read || r.kind == .atom

/-- Data of a response: the line of a fill, or the read or old value; none of one that failed. -/
def Req.brought (r : Req) : List Byte :=
  if !r.brings || r.status != 0 then [] else if r.fills then r.data else r.answer

/-- TYPE of a response: DATA, DONE or ERR (Table 2.2). -/
def Req.rspType (r : Req) : Nat := if r.status != 0 then 2 else if r.brings then 0 else 1

/-- Status of a response as its OP field has it (Table 2.3). An atomic that was not performed because another lane of its
instruction met an error (R141), which the model marks 4, answers as that one does. -/
def Req.rspOp (r : Req) : Nat := if r.status = 4 then 2 else r.status

/-- Flits of the response to a request on the bridges: data, the GWCT, or an error (R38). -/
def State.rspFlits (s : State) (id dst : Nat) : List Flit :=
  let r := s.req id
  flitsOf 2 r.rspType id dst
    (flitPrefix (if r.rspType = 1 then r.gwct else r.span.1) r.srcDie s.domDev.toNat id r.rspOp r.span.2 r.scope r.ctx)
    r.brought

/-- Flits of the response to a request of another device, on its way to a Hyley port. DIE and tag of the requester are those
of its request. Ahead of the data stand the ADDR and the SRCDEV that the message has on the Hyley link: the GWCT or the domain
address of the access, and the ID of the requester's device; on the bridges SRCDEV is the device's own (R38, R52, log entry
52). -/
def State.farFlits (s : State) (id dst : Nat) : List Flit :=
  let r := s.req id
  let addr := if r.rspType = 1 then r.gwct else s.domDev.toNat * 2 ^ 53 + r.va
  flitsOf 2 r.rspType id dst (flitPrefix 0 r.farDie s.domDev.toNat r.tag r.rspOp r.size.log2 r.scope r.ctx)
    (toLe 8 addr ++ toLe 8 (r.srcDev.getD 0) ++ r.brought)

/-- Payload of a message: the data behind its prefix. -/
def dataOf (fl : List Flit) : List Byte := (fl.flatMap Flit.payload).drop 16

/-- A number from the prefix of a message. -/
def prefixOf (fl : List Flit) : Nat := leNat (((fl.head?.map Flit.payload).getD []).take 16)

/-- A message as it leaves by a Hyley port: what went ahead of its data on the bridges is its ADDR, and in a response its
SRCDEV (R38, R52). -/
def hyleyForm (fl : List Flit) : List Flit :=
  match fl with
  | [] => []
  | f :: _ =>
    let d := dataOf fl
    let p := slice f.payload 8 8
    if f.cls = 3 then fl
    else if f.cls = 1 then flitsOf 1 f.typ f.msg f.dst (d.take 8 ++ p) (d.drop 8)
    else
      let n := leNat p
      flitsOf 2 f.typ f.msg f.dst (d.take 8 ++ toLe 8 (n - bitsOf n 5 11 * 2 ^ 5 + leNat (slice d 8 8) * 2 ^ 5)) (d.drop 16)

/-- Flits wait at a link to be sent. -/
def State.enqueue (s : State) (n : Nat) (fl : List Flit) : State :=
  let l := s.link n
  (s.setLink n { l with txq := l.txq ++ fl }).dueOnce 0 { unit := n } .flitSend

/-- A message leaves a die, by a bridge or by a Hyley port. -/
def State.send (s : State) (src : Nat) (fl : List Flit) : State :=
  match fl with
  | [] => s
  | f :: _ =>
    match firstLink src f.dst with
    | some n => s.enqueue n (if n < 1024 then fl else hyleyForm fl)
    | none => s

/-- A control message of a die, about a launch of a context: what it brings about where it arrives (class 4 of Table 2.2). -/
def State.sendCtrl (s : State) (src dst typ ctx : Nat) (h : Here) (i : Instr) : State :=
  if src = dst then s.due 0 h i
  else s.send src [{ cls := 4, typ := typ, len := 2, payload := flitPrefix 0 src s.domDev.toNat 0 0 0 0 ctx, dst := dst,
                     ctrl := some (h, i) }]

/-- Bridges between a requester and a home, and those that the latency of Table 3.1 counts already: to the near M-die. -/
def nearHops (src : Nat) : Nat := if src < 16 then (route src (16 + nearMdie src)).length else 1

/-- Ticks of a request and its response beside their bridges, which take 15 ticks a crossing each way: with them a response
comes after the unloaded latency of Table 3.1 and 15 ticks for each bridge beyond (R35). -/
def State.homeTicks (s : State) (r : Req) : Nat :=
  let h := s.homeOf r.pa
  let k := (route r.srcDie (homeDie h)).length
  match h with
  | .hbm _ => h.latency - 15 * (k + nearHops r.srcDie)
  | _ => h.latency - 15 * k

/-- Ticks that a miss in the home slice adds (Table 3.1). -/
def State.missTicks (s : State) (pa : Nat) : Nat :=
  match s.homeOf pa with
  | .hbm m => if (s.slices.get [] (sliceSet m (pa / 128))).contains (pa / 128) then 0 else 180
  | _ => 0

/-- The step that serves a request at its home. -/
def homeStep : ReqKind → Instr
  | .read => .readHome | .write => .writeHome | .wmask => .wmaskHome | .atom => .atomHome | .red => .redHome

/-- A request is at its home. -/
def State.atHome (s : State) (id : Nat) : State :=
  s.due (s.homeTicks (s.req id) / 2) { unit := id } (homeStep (s.req id).kind)

/-- The step that takes a response in. -/
def rspStep (id : Nat) (r : Req) : Instr :=
  if r.status != 0 then .errArrive id r.status
  else match r.kind with
    | .read | .atom => .dataArrive
    | _ => .doneArrive

/-- A response is at its requester's die. -/
def State.atRequester (s : State) (id : Nat) : State :=
  let r := s.req id
  s.due ((s.homeTicks r + 1) / 2 + r.miss) { unit := id } (rspStep id r)

/-- A home answers a request (R38). -/
def State.respondTo (s : State) (id : Nat) : State :=
  let r := s.req id
  let s := s.setReq id { r with stage := .resp }
  let d := homeDie (s.homeOf r.pa)
  if d = r.srcDie then s.atRequester id else s.send d (s.rspFlits id r.srcDie)

end Sys2Proof.Machine
end

