-- ==== Sys2Proof/Machine/Memory.lean ====
section
/-! DEFINITION. Shared operations of the memory system: page walks and translation (R60-R67), copies and
leases (R186-R191), the sending of a thread's accesses in order (R192, R195, R196, R198), the completion
of an instruction's accesses, faults found at translation or on arrival (R137, R140), and the waits on
completion times (R194). -/

namespace Sys2Proof.Machine

-- ## Leaf entries (Tables 3.4 and 3.5)

/-- Kinds of access a leaf permits or not (Table 3.5). -/
inductive AccessKind where
  | load | fetch | store | atomic
  deriving DecidableEq, Repr, Inhabited

/-- The leaf permits an access. -/
def leafPermits (e : Dword) : AccessKind → Bool
  | .load => e.getLsbD 1
  | .fetch => e.getLsbD 3
  | .store => e.getLsbD 2
  | .atomic => e.getLsbD 1 && e.getLsbD 2

/-- Every M-die is in service. -/
def State.allMdies (s : State) : Bool := s.geomMdie == 0xFF

/-- A valid leaf of a page of 2^lg bytes is well formed (R63). -/
def State.leafOk (s : State) (lg : Nat) (e : Dword) : Bool :=
  let plc := leafPlc e
  let home := leafHome e
  let fr := leafFrame e
  !e.getLsbD 15 && ptBits e 48 8 == 0 && fr % 2 ^ (lg - 16) == 0 && !(e.getLsbD 3 && e.getLsbD 2)
    && (match plc with
        | 0 => home == 0 && decide (fr < 2 ^ 23) && s.allMdies
        | 1 => decide (fr < 2 ^ 20) && s.geomMdie.getLsbD home
        | 2 => home == 0 && decide (fr < 2 ^ 26)
        | _ => if home = 0 then decide (fr < 2 ^ 31)
               else home == 1 && decide (fr * 65536 + 2 ^ lg ≤ 262144))

/-- A valid non-leaf entry is well formed (R61, R63). -/
def State.nonLeafOk (s : State) (e : Dword) : Bool :=
  ptBits e 1 12 == 0 && ptBits e 14 2 == 0
    && (match s.homeOf (ptBits e 16 40 * 256) with
        | .hbm _ | .annex _ => true
        | _ => false)

-- ## Heat (R67)

/-- A leaf with its read or write heat one higher, at most 3 (R67). -/
def heatUp (e : Dword) (write : Bool) : Dword :=
  let lo := if write then 11 else 9
  let h := ptBits e lo 2
  if h = 3 then e else e + BitVec.ofNat 64 (2 ^ lo)

/-- Raises the heat of a leaf in memory (R67), but for one in a poisoned line (R24). -/
def State.raiseHeat (s : State) (src entryPa : Nat) (write : Bool) : State :=
  let e := BitVec.ofNat 64 (s.num entryPa 8)
  let s := s.countRac src entryPa
  if e.getLsbD 0 && e.getLsbD 13 && !s.poison.contains (entryPa / 128) then s.setBytes entryPa (toLe 8 (heatUp e write).toNat) else s

-- ## Walks (R60, R66)

/-- The end of a page walk. -/
inductive WalkRes where
  | leaf (e : Dword) (lg entryPa : Nat)
  | perm
  /-- An entry lies in a poisoned line (R24). -/
  | ecc
  /-- The home of an entry is on a failed die, or beyond a bridge that is down (R20, R47). -/
  | link (die : Nat)
  deriving DecidableEq, Repr, Inhabited

/-- Lowest bit of the index of a level (Table 3.3). -/
def levelShift (l : Nat) : Nat := if l = 1 then 16 else if l = 2 then 21 else if l = 3 then 30 else 39
/-- Bits of the index of a level. -/
def levelBits (l : Nat) : Nat := if l = 1 then 5 else if l = 4 then 13 else 9

/-- The home of an address is on a failed die, or beyond a bridge that is down (R20, R47). -/
def State.unreachable (s : State) (src pa : Nat) : Bool :=
  (s.die (homeDie (s.homeOf pa))).failed || s.cut src (homeDie (s.homeOf pa))

/-- A walk from a table at level l + 1 on, with the counts its reads make. A NEXT that is not aligned to its table's size
is no malformed entry (R61): the walk indexes from it as it stands (log entry 45). -/
def State.walkFrom (s : State) (src va : Nat) : Nat → Nat → WalkRes × State
  | 0, _ => (.perm, s)
  | l + 1, base =>
    let a := base + 8 * bitsOf va (levelShift (l + 1)) (levelBits (l + 1))
    match s.homeOf a with
    | .hbm _ | .annex _ =>
      if s.unreachable src a then (.link (homeDie (s.homeOf a)), s) else
      let s := s.countRac src a
      let e := BitVec.ofNat 64 (s.num a 8)
      if s.poison.contains (a / 128) then (.ecc, s)
      else if !e.getLsbD 0 then (.perm, s)
      else if e.getLsbD 13 then
        (if l + 1 = 4 ∨ !s.leafOk (levelShift (l + 1)) e then (.perm, s)
         else (.leaf e (levelShift (l + 1)) a, s))
      else if l = 0 ∨ !s.nonLeafOk e then (.perm, s)
      else State.walkFrom s src va l (ptBits e 16 40 * 256)
    | _ => (.perm, s)

/-- A walk of a context's tables for a virtual address, made by a die. -/
def State.walk (s : State) (src ctx va : Nat) : WalkRes × State :=
  if 2 ^ 52 ≤ va then (.perm, s) else s.walkFrom src va 4 ((s.ctx ctx).root.toNat * 65536)

/-- What the device's own logic on X-die 0 finds where it reads or translates for a launch: something, nothing it may use, a
failed die or one beyond a bridge that is down (R20, R47), or a line at which it has to wait (R75, R185). -/
inductive Found (α : Type) where
  | ok (x : α)
  | no
  | dead (die : Nat)
  | busy
  deriving DecidableEq, Repr, Inhabited

/-- What is found, gone on with. -/
def Found.andThen {α β : Type} : Found α × State → (α → State → Found β × State) → Found β × State
  | (.ok x, s), f => f x s
  | (.no, s), _ => (.no, s)
  | (.dead d, s), _ => (.dead d, s)
  | (.busy, s), _ => (.busy, s)

/-- A condition that what is found has to meet. -/
def Found.check (b : Bool) (s : State) : Found Unit × State := (if b then .ok () else .no, s)

/-- Physical address of an access of the device's own logic on X-die 0, with the permission it needs
(R89, R98, R102). -/
def State.logicPa (s : State) (ctx va : Nat) (k : AccessKind) : Found Nat × State :=
  match s.walk 24 ctx va with
  | (.leaf e lg a, s) =>
    let s := s.raiseHeat 24 a (k != .load)
    let pa := physOf e lg va
    if leafPermits e k && s.homeOf pa != .hole then
      (if s.unreachable 24 pa then .dead (homeDie (s.homeOf pa)) else .ok pa, s)
    else (.no, s)
  | (.link d, s) => (.dead d, s)
  | (_, s) => (.no, s)

/-- Physical address of a virtual address, with no effect: what `sysrd` of RACDATA and a dependence look at. -/
def State.peek (s : State) (ctx va : Nat) : Option (Nat × Dword) :=
  match (s.walk 24 ctx va).1 with
  | .leaf e lg _ => some (physOf e lg va, e)
  | _ => none

-- ## TLBs (R65)

/-- The entry covers an address of a context. -/
def TlbEntry.covers (e : TlbEntry) (ctx va : Nat) : Bool := e.ctx == ctx && e.va / 2 ^ e.lg == va / 2 ^ e.lg

/-- A TLB with an entry in front, for its context and page, and no more than `n` entries. -/
def tlbPut (t : List TlbEntry) (e : TlbEntry) (n : Nat) : List TlbEntry :=
  (e :: t.filter (fun x => !(x.covers e.ctx e.va && x.lg == e.lg))).take n

/-- Entries of an L1 TLB (R65). -/
def l1TlbSize : Nat := 128
/-- Ways and sets of a die TLB (R65). -/
def dieTlbWays : Nat := 8
/-- Sets of a die TLB: 16,384 entries in 8 ways. -/
def dieTlbSets : Nat := 2048

/-- Set of an entry of a die TLB: its page number, modulo the sets (log entry 46). -/
def TlbEntry.set (e : TlbEntry) : Nat := e.va / 2 ^ e.lg % dieTlbSets

/-- A list without the entries of a set beyond its first `n`. -/
def keepWays (k : Nat) : Nat → List TlbEntry → List TlbEntry
  | _, [] => []
  | n, e :: es => if e.set = k then (if n = 0 then keepWays k 0 es else e :: keepWays k (n - 1) es) else e :: keepWays k n es

/-- A die TLB with an entry in front, the least recently used of its set going when it has no way left (R65). -/
def dieTlbPut (t : List TlbEntry) (e : TlbEntry) : List TlbEntry :=
  keepWays e.set dieTlbWays (e :: t.filter (fun x => !(x.covers e.ctx e.va && x.lg == e.lg)))

/-- Raises heat for an aged entry (R67). -/
def State.useEntry (s : State) (die : Nat) (e : TlbEntry) (write : Bool) : State :=
  if e.aged then s.raiseHeat die e.entryPa write else s

/-- Looks an address up in the TLBs of a core, the entry that serves moving to the front (R65). -/
def State.tlbLook (s : State) (c ctx va : Nat) (write : Bool) : Option TlbEntry × State :=
  let k := s.core c
  match k.tlb.find? (fun e => e.covers ctx va) with
  | some e =>
    let s := s.useEntry (dieOf c) e write
    let e := { e with aged := false }
    (some e, s.setCore c { s.core c with tlb := tlbPut (s.core c).tlb e l1TlbSize })
  | none =>
    let d := s.die (dieOf c)
    match d.tlb.find? (fun e => e.covers ctx va) with
    | none => (none, s)
    | some e =>
      let s := s.useEntry (dieOf c) e write
      let e := { e with aged := false }
      let s := s.setDie (dieOf c) { s.die (dieOf c) with tlb := dieTlbPut d.tlb e }
      (some e, s.setCore c { s.core c with tlb := tlbPut (s.core c).tlb e l1TlbSize })

/-- Installs a leaf in the die TLB and in the L1 TLBs of some cores (R65, R66). -/
def State.installLeaf (s : State) (d : Nat) (cs : List Nat) (t : TlbEntry) : State :=
  let s := s.setDie d { s.die d with tlb := dieTlbPut (s.die d).tlb t }
  cs.foldl (fun s c => s.setCore c { s.core c with tlb := tlbPut (s.core c).tlb t l1TlbSize }) s

/-- Walks of a die in progress. -/
def State.walksOf (s : State) (d : Nat) : List (Nat × Nat × Nat) := s.walks.filter (fun w => w.1 == d)
/-- Ticks from the start of a walk to its end. A walk costs one home access a level (R66); the model ends it in the
tick in which it began, before any later word issues. -/
def walkTicks : Nat := 0

/-- Walkers of a C-die (R66). -/
def walkers : Nat := 96

/-- The TLB entry that serves an address of a core, with no effect on the TLBs. -/
def State.tlbPeek (s : State) (c ctx va : Nat) : Option TlbEntry :=
  ((s.core c).tlb.find? (fun e => e.covers ctx va)).orElse (fun _ => (s.die (dieOf c)).tlb.find? (fun e => e.covers ctx va))

/-- A miss joins the walk of its page, or starts one when a walker is free (R66). Before a walk has found the page's size a
miss joins by its 64 KiB unit, so that misses in two units of one larger page make two walks (log entry 47). -/
def State.startWalk (s : State) (d ctx va : Nat) : State :=
  let w := (d, ctx, va / 65536)
  if s.walks.contains w then s
  else
    let n := (s.walksOf d).length
    let s := { s with walks := s.walks ++ [w] }
    if n < walkers then s.due walkTicks { unit := d, sub := ctx, item := va } .walkComplete else s

/-- A miss of a fetch, of an engine or of a stream queue joins the walk of its page (R66). -/
def State.walkFor (s : State) (r : Req) : Nat × State :=
  let (id, s) := s.take
  (id, (s.setReq id { r with stage := .walk, slot := 64, issued := s.now }).startWalk (dieOf r.core) r.ctx r.va)

-- ## Copies (R185-R191)

/-- A copy is usable at a time, with the AT value its level is held to (R188). -/
def Line.usable (l : Line) (now atP : Nat) : Bool := decide (now + 2 < l.x) && decide (atP ≤ l.g)

/-- The L1 copy of a line that a quire may use (R188). -/
def State.l1Copy (s : State) (c : Nat) (atD atP line : Nat) : Option Line :=
  match (s.core c).l1.find line with
  | some l => if l.usable (s.nowAt (dieOf c)) atP && decide (atD ≤ l.f) && !(s.die (dieOf c)).failed then some l else none
  | none => none

/-- The die-cache copy of a line that a quire or engine of the die may use (R188). -/
def State.dieCopy (s : State) (d : Nat) (atP line : Nat) : Option Line :=
  match (s.die d).cache.find line with
  | some l => if l.usable (s.nowAt d) atP && !(s.die d).failed then some l else none
  | none => none

/-- A table of lines with the copy of a fill put in, unless it holds one that its home served later (R186). -/
def putLine (t : Tab Line) (line : Nat) (l : Line) : Tab Line :=
  match t.find line with
  | some o => if l.serial < o.serial then t else t.set line l
  | none => t.set line l

/-- Installs the copy of a fill that comes from its home in an L1 (R186). -/
def State.fillL1 (s : State) (c line : Nat) (l : Line) : State :=
  s.setCore c { s.core c with l1 := putLine (s.core c).l1 line { l with f := s.nowAt (dieOf c) } }

/-- An L1 copy is refilled in its place from the die cache (R186, R188). -/
def State.refillL1 (s : State) (c line : Nat) (l : Line) : State :=
  s.setCore c { s.core c with l1 := (s.core c).l1.set line { l with f := s.nowAt (dieOf c) } }

-- ## The die cache (R81)

/-- Ways and sets of a die cache: 48 MiB of 128-byte lines (Table 1.1). -/
def dieWays : Nat := 16
/-- Sets of a die cache. -/
def dieSets : Nat := 24576
/-- Set of a line in a die cache (log entry 46). -/
def dieSet (line : Nat) : Nat := line % dieSets

/-- A WAYRES register matches an access (R81). -/
def WayRes.matches (w : WayRes) (ctx va : Nat) : Bool :=
  w.size != 0 && w.ctx == ctx && decide (w.base * 2 ^ 21 ≤ va) && decide (va < (w.base + w.size) * 2 ^ 21)

/-- A WAYRES register of a die. -/
def Die.wayRes (d : Die) (n : Nat) : WayRes := d.wayres.get {} n

/-- The WAYRES register that retains a line which an access fills: the lowest-numbered one that matches, when the line's
hash lies below its K; one that has no way retains nothing (R81). -/
def Die.retains (d : Die) (ctx va pa : Nat) : Option Nat :=
  match (List.range 8).find? (fun n => (d.wayRes n).matches ctx va) with
  | some n => if (bitsOf pa 7 4 ^^^ bitsOf pa 11 4) < (d.wayRes n).k ∧ (d.wayRes n).ways ≠ 0 then some n else none
  | none => none

/-- The line that goes from a set to make room for one that a register retains, or that none retains: a retained line only
for another of the same register, and else the least recently used line that is not retained (R81). -/
def Die.victim (d : Die) (set : List (Nat × Option Nat)) (tag : Option Nat) : Option Nat :=
  let last (t : Option Nat) : Option Nat := ((set.filter (fun e => e.2 == t)).getLast?).map Prod.fst
  match tag with
  | some n =>
    if (d.wayRes n).ways ≤ (set.filter (fun e => e.2 == some n)).length then last tag
    else if dieWays ≤ set.length then last none
    else none
  | none => if dieWays ≤ set.length then last none else none

/-- The die with a line put into its cache: in its place when the line is there, and else into its set (R81, R186). -/
def Die.fill (d : Die) (ctx va line : Nat) (l : Line) : Die :=
  let set := d.sets.get [] (dieSet line)
  let rest := set.filter (fun e => e.1 != line)
  let tag := ((set.find? (fun e => e.1 == line)).bind Prod.snd).orElse (fun _ => d.retains ctx va (128 * line))
  let gone := d.victim rest tag
  let cache := match gone with
    | some v => d.cache.del v
    | none => d.cache
  { d with cache := putLine cache line l,
           sets := d.sets.set (dieSet line) ((line, tag) :: rest.filter (fun e => some e.1 != gone)) }

/-- The die whose cached line was used last. -/
def Die.use (d : Die) (line : Nat) : Die :=
  let set := d.sets.get [] (dieSet line)
  { d with sets := d.sets.set (dieSet line) (set.filter (fun e => e.1 == line) ++ set.filter (fun e => e.1 != line)) }

/-- The die without a cached line. -/
def Die.dropLine (d : Die) (line : Nat) : Die :=
  { d with cache := d.cache.del line,
           sets := d.sets.set (dieSet line) ((d.sets.get [] (dieSet line)).filter (fun e => e.1 != line)) }

/-- The die whose lines that a register retains have become ordinary lines (R81). -/
def Die.unretain (d : Die) (n : Nat) : Die :=
  { d with sets := d.sets.map (fun e => (e.1, e.2.map (fun x => (x.1, if x.2 = some n then none else x.2)))) }

/-- A clean copy of an L1 is discarded (R155). -/
def State.dropL1 (s : State) (c line : Nat) : State := s.setCore c { s.core c with l1 := (s.core c).l1.del line }
/-- A clean copy of a die cache is discarded (R155). -/
def State.dropDie (s : State) (d line : Nat) : State := s.setDie d ((s.die d).dropLine line)
/-- Installs a copy in a die cache (R81, R186). -/
def State.fillDie (s : State) (d ctx va line : Nat) (l : Line) : State := s.setDie d ((s.die d).fill ctx va line l)
/-- A cached line of a die is used. -/
def State.useDie (s : State) (d line : Nat) : State := s.setDie d ((s.die d).use line)

/-- Marks the fills in flight that a store or atomic to the line passes (R189). -/
def State.passFills (s : State) (c line : Nat) : State :=
  { s with reqs := s.reqs.map (fun e =>
      if e.2.kind = .read ∧ e.2.space = 0 ∧ e.2.pa / 128 = line ∧ e.2.core < 640 ∧ dieOf e.2.core = dieOf c
          ∧ e.2.stage ≠ .hold ∧ e.2.stage ≠ .walk then
        (e.1, { e.2 with passedDie := true, passedL1 := e.2.passedL1 || e.2.core == c })
      else e) }

/-- A store on its way updates the copies it passes (R190). -/
def State.passStore (s : State) (c pa : Nat) (bs : List Byte) : State :=
  let s := s.passFills c (pa / 128)
  let s := s.setCore c { s.core c with l1 := patchLine (s.core c).l1 pa bs }
  s.setDie (dieOf c) { s.die (dieOf c) with cache := patchLine (s.die (dieOf c)).cache pa bs }

/-- An atomic on its way removes the copies it passes (R191). -/
def State.passAtomic (s : State) (c pa : Nat) : State :=
  let s := s.passFills c (pa / 128)
  let s := s.setCore c { s.core c with l1 := (s.core c).l1.del (pa / 128) }
  s.setDie (dieOf c) ((s.die (dieOf c)).dropLine (pa / 128))

-- ## Completion of an instruction

/-- Sets the AT values of a quire at an acquire (R196). -/
def State.acquire (s : State) (c j scope : Nat) : State :=
  let q := s.quire c j
  let n := s.nowAt (dieOf c)
  if 3 ≤ scope then s.setQuire c j { q with atD := n, atP := n }
  else if scope = 2 then s.setQuire c j { q with atD := n }
  else s

/-- The thread without an outstanding instruction. -/
def Thread.finish (t : Thread) (id : Nat) : Thread := { t with outst := t.outst.filter (fun o => o.id != id) }

/-- An instruction of some lanes is no longer outstanding. -/
def State.finishOutst (s : State) (c j : Nat) (lanes : Lanes) (id : Nat) : State :=
  s.setQuire c j ((s.quire c j).mapLanes (lanesOf lanes) (fun _ t => t.finish id))

/-- The thread still waits for the instruction: its quire has not exited. -/
def Thread.awaits (t : Thread) (id : Nat) : Bool := t.outst.any (fun o => o.id == id)

/-- Registers a load of a size code writes from its bytes (R390, Table 14.3). -/
def loadRegs (code vt : Nat) (bs : List Byte) : List (Nat × Word) :=
  let n := leNat bs
  match code with
  | 6 => [(vt, (BitVec.ofNat 8 n).signExtend 32)]
  | 7 => [(vt, (BitVec.ofNat 16 n).signExtend 32)]
  | _ => (List.range ((sizeBytes code + 3) / 4)).map (fun k => (vt + k, BitVec.ofNat 32 (leNat (slice bs (4 * k) 4))))

/-- The bytes of a value in registers from VT on (R390). -/
def storeBytes (t : Thread) (vt n : Nat) : List Byte :=
  ((List.range ((n + 3) / 4)).flatMap (fun k => toLe 4 (t.reg (vt + k)).toNat)).take n

/-- The microwords of a `bcodex` have been read: the Codex store may accept it (R421), unless the slot has been emptied with
its owner's share (R247). -/
def State.codexRead (s : State) (id cx n : Nat) (i : Ins) : State :=
  let lane := ((lanesOf i.lanes).head?).getD 0
  let ws := (List.range n).map (fun k => BitVec.ofNat 64 (leNat (i.buf.getMany 0 (64 * lane + 8 * k) 8)))
  let k := s.core i.core
  let x : CxSlot := k.codex.get {} cx
  if x.writing.map Prod.snd != some id then s
  else (s.setCore i.core { k with codex := k.codex.set cx { x with writing := some (ws, id) } }).due 0
    { unit := i.core, sub := cx, item := id } .bcodexAccept

/-- Registers and the outstanding mark of a load whose bytes are there; a register that a later word has written keeps that
(log entry 64). -/
def Thread.takeLoad (t : Thread) (w : OnWay) (n : Ins) (id i : Nat) : Thread :=
  match n.result with
  | .load code vt =>
    let t := if n.pbnd.getLsbD i then t.raise 0x40 else t
    (t.setRegs ((loadRegs code vt (n.buf.getMany 0 (64 * i) (sizeBytes code))).filter (fun e => !w.isOver id e.1 i))).finish id
  | .discard => t.finish id
  | .codex .. => t

/-- Every access of a load or atomic is answered: its registers are written, and an acquire is performed
(R140, R196, R394). -/
def State.finishLoad (s : State) (id : Nat) : State :=
  let n : Ins := s.ins.get {} id
  let s := { s with ins := s.ins.del id }
  let q := s.quire n.core n.slot
  let live := (lanesOf n.lanes).filter (fun i => (q.th i).awaits id)
  let s := s.setQuire n.core n.slot (q.mapLanes live (fun i t => t.takeLoad q.arriving n id i))
  match n.result with
  | .codex cx w => s.codexRead id cx w n
  | _ => if n.acq && !live.isEmpty then s.acquire n.core n.slot n.scope else s

/-- The bytes of one access have arrived. -/
def State.answerReq (s : State) (id : Nat) (bs : List Byte) : State :=
  let r := s.req id
  let s := s.dropReq id
  match s.ins.find r.ins with
  | none => s
  | some n =>
    let n := { n with buf := n.buf.setMany (64 * r.lane + r.off) bs, left := n.left - 1 }
    let s := { s with ins := s.ins.set r.ins n }
    if n.left = 0 ∧ n.bad = 0 then
      if n.arrives = 0 then s.finishLoad r.ins
      else s.dueAt (max s.now n.arrives) { unit := r.ins, sub := 1 } .dataArrive
    else s

-- ## Waits on completion times (R194-R197)

/-- Loads and atomics with return, which are performed on arrival. -/
def Req.isLoad (r : Req) : Bool := (r.kind == .read || r.kind == .atom) && !r.prefetch
/-- Not yet sent. -/
def Req.unsent (r : Req) : Bool := r.stage == .walk || r.stage == .hold
/-- A request of a quire. -/
def Req.ofQuire (r : Req) (c j : Nat) : Bool := r.core == c && r.slot == j

/-- A request is of this very quire, and not of an earlier one of its slot (R166). -/
def Quire.owns (q : Quire) (r : Req) : Bool := r.lk == q.lk && r.qid == q.qid && r.gid == q.gid

/-- What a release of a quire at a scope waits for, of the requests before `upto`: accesses to send,
responses to have, and a completion time (R194, R195). A bank store is complete once its bank has applied it; a remote one
counts from its issue on. `lane`: the thread whose loads count; none: all. -/
def State.releaseSet (s : State) (c j : Nat) (lane : Option Nat) (scope upto : Nat) : Wait :=
  let q := s.quire c j
  let mineLoad (r : Req) : Bool := r.isLoad && r.ofQuire c j && q.owns r && (match lane with
    | none => true
    | some i => r.lane == i)
  let here (r : Req) : Bool := r.isStore && r.space != 1 && r.space != 3
  let mineStore (r : Req) : Bool := here r && r.ofQuire c j && q.owns r && r.unsent
  let dieStore (r : Req) : Bool := here r && !r.unsent && r.core < 640 && dieOf r.core == dieOf c
  let banked (r : Req) : Bool := r.isStore && r.space == 1 && r.core == c && (r.slot == j || decide (1 ≤ scope))
  let remote (r : Req) : Bool := r.isStore && r.space == 3 && r.core == c
  { sends := if scope < 3 then s.reqsWith (fun k r => decide (k < upto) && mineStore r) else [],
    reqs := s.reqsWith (fun k r => decide (k < upto) && (mineLoad r || banked r
      || (decide (3 ≤ scope) && (mineStore r || dieStore r)) || (scope == 4 && remote r))),
    need := if 3 ≤ scope then (s.die (dieOf c)).gwctMax else 0,
    die := dieOf c }

/-- A wait is over. -/
def State.waitOver (s : State) (w : Wait) : Bool :=
  w.sends.isEmpty && w.reqs.isEmpty && decide (w.need ≤ s.nowAt w.die)

/-- A request is answered, with its GWCT, or no longer counts. -/
def Wait.without (w : Wait) (id gwct : Nat) : Wait :=
  if w.reqs.contains id then { w with reqs := w.reqs.filter (· != id), need := max w.need gwct,
                                      sends := w.sends.filter (· != id) }
  else w

/-- A request has been sent. -/
def Wait.sent (w : Wait) (id : Nat) : Wait := { w with sends := w.sends.filter (· != id) }

/-- Every wait with a change, and the step that ends those that are over now or at a known time. -/
def State.touchWaits (s : State) (f : Wait → Wait) : State :=
  let ws := s.waits.map (fun e => (e.1, f e.2))
  ws.foldl (fun s e =>
    if e.2.sends.isEmpty && e.2.reqs.isEmpty then
      s.dueOnce (e.2.need - s.nowAt e.2.die) { unit := e.1 } .gwctReached
    else s) { s with waits := ws }

/-- No wait counts a request that is gone. -/
def State.sweepWaits (s : State) : State :=
  let there (k : Nat) : Bool := (s.reqs.find k).isSome
  s.touchWaits (fun w => { w with sends := w.sends.filter there, reqs := w.reqs.filter there })

/-- Core and slot of the quire that a wait is of. -/
def Goal.slot? (g : Goal) : Option (Nat × Nat) :=
  match g with
  | .send c j .. | .fence c j .. | .acquire c j .. | .gbar c j _ | .pbar c j _ | .push c j | .hflush c j .. => some (c, j)
  | _ => none

/-- The quire that a wait is of (R166). -/
def State.ownerOf (s : State) (g : Goal) : Option (Nat × Nat × Nat) :=
  g.slot?.map (fun e => ((s.quire e.1 e.2).lk, (s.quire e.1 e.2).qid, (s.quire e.1 e.2).gid))

/-- A wait that is not over is kept, and ended by `gwctReached`. -/
def State.addWait (s : State) (w : Wait) : Nat × State :=
  let (id, s) := s.take
  (id, ({ s with waits := s.waits.set id { w with owner := s.ownerOf w.goal } }).touchWaits id₁)
where
  /-- No change. -/
  id₁ (w : Wait) : Wait := w

/-- A request will have no response: a release that counts it does not perform, and retirement counts it as
completed (R194). What it raises is raised before, so that retirement finds it (R111). -/
def State.loseReq (s : State) (id : Nat) : State :=
  let s := s.setReq id { s.req id with lost := true }
  let ws := s.waits.map (fun e => (e.1, match e.2.goal with
    | .retire _ | .added .. => { e.2 with sends := e.2.sends.filter (· != id), reqs := e.2.reqs.filter (· != id) }
    | _ => e.2))
  ({ s with waits := ws }).touchWaits (fun w => w)

-- ## Faults found after issue (R137, R140-R142)

/-- A later word of some thread of its path has issued since the instruction did (R137, R141). -/
def State.issuedSince (s : State) (n : Ins) : Bool :=
  n.marks.any (fun e =>
    let t := (s.quire n.core n.slot).th e.1
    !t.exited && decide (e.2 + 1 < t.issued))

/-- A `bcodex` whose reads fail writes nothing. -/
def State.dropCodex (s : State) (n : Ins) : State :=
  match n.result with
  | .codex cx _ =>
    let k := s.core n.core
    s.setCore n.core { k with codex := k.codex.set cx { k.codex.get {} cx with writing := none } }
  | _ => s

/-- The fault record of a late fault of a request (R147, Table 6.4); INHDL is the thread's handler flag as the fault is found
(log entry 29). -/
def State.lateRec (s : State) (r : Req) (cause : Cause) (die detail : Nat) : FaultRec :=
  let q := s.quire r.core r.slot
  let there := q.live && q.owns r
  { cause := cause, deliv := 3, isFatal := true, exited := !there, inHdl := there && (q.th r.lane).handler, die := die,
    core := if r.core < 640 then r.core % 40 else 63, mask := maskOf [r.lane],
    lid := (s.launch r.lk).lid, slot := r.slot, stall := if there then q.stallCode else 0,
    phid := if there && q.timer.armed then q.timer.phid.toNat else 0,
    qid := r.qid, gid := r.gid, fpc := r.pc,
    repc := if there then (q.th r.lane).repc else 0, addr := r.va, time := s.now, detail := detail }

/-- A fault of a load whose thread awaits it no more, having exited or stopped for good: a fatal one joins the end of its
launch, and an ECC fault leaves its record (R148, R151). -/
def State.orphanFault (s : State) (r : Req) (cause : Cause) (detail : Nat) : State :=
  match s.launches.find r.lk with
  | none => s
  | some l =>
    let f := s.lateRec r cause (dieOf r.core) detail
    if cause.isFatal then s.raiseLate r.lk f else s.writeRecord l.ctx { f with isFatal := l.ending.isSome }

/-- A fault of an instruction whose quire has exited or has been stopped leaves its record (R148, R151). -/
def State.recordIns (s : State) (n : Ins) (cause : Cause) (mask : Lanes) (addr detail : Nat) : State :=
  match s.launches.find n.lk with
  | none => s
  | some l =>
    let r : Req := { core := n.core, slot := n.slot, lane := (lanesOf mask).headD 0, lk := n.lk, qid := n.qid, gid := n.gid,
                     pc := n.pc, va := addr }
    s.writeRecord l.ctx { s.lateRec r cause (dieOf n.core) detail with mask := mask, isFatal := l.ending.isSome }

/-- A fault of an instruction that was found after its issue: precise when no later word of its path has issued, and
otherwise at the threads' next run start (R137, R141). Its accesses are dropped. -/
def State.faultIns (s : State) (id : Nat) (cause : Cause) (mask : Lanes) (addr detail : Nat) : State :=
  let n : Ins := s.ins.get {} id
  let q := s.quire n.core n.slot
  let late := s.issuedSince n
  let waits := (lanesOf n.lanes).any (fun i => (q.th i).awaits id)
  let lanes := maskOf ((lanesOf n.path).filter (fun i => !(q.th i).exited))
  let s := ({ s with ins := s.ins.del id, reqs := s.reqs.filter (fun e => e.2.ins != id) }).sweepWaits
  let s := (s.dropCodex n).finishOutst n.core n.slot n.lanes id
  let p : Pend := { cause := cause, deliv := if late then 1 else 0, fpc := n.pc, mask := mask, addr := addr,
                    detail := detail }
  if !waits then (if cause = .ecc then s.recordIns n cause mask addr detail else s)
  else if late && !cause.isFatal then s.pendFault n.core n.slot lanes p
  else s.takeFault n.core n.slot lanes p addr detail

/-- One more lane of an instruction has met an error: the record's address and DETAIL are those of the lowest (R141, Table
6.4). -/
def Ins.note (n : Ins) (lane : Nat) (cause : Cause) (addr detail : Nat) : Ins :=
  let n' := { n with bad := n.bad ||| maskOf [lane] }
  if (lanesOf n.bad).all (fun i => decide (lane < i)) then { n' with cause := cause, addr := addr, detail := detail } else n'

/-- An access found an error in the data it read; the instruction faults once every access is answered,
so that all lanes with bad data stand in the mask (R141). -/
def State.failReq (s : State) (id : Nat) (cause : Cause) (addr detail : Nat) : State :=
  let r := s.req id
  if !((s.quire r.core r.slot).th r.lane).awaits r.ins then (s.orphanFault r cause detail).answerReq id [] else
  let s := s.dropReq id
  match s.ins.find r.ins with
  | none => s
  | some n =>
    { s with ins := s.ins.set r.ins { (n.note r.lane cause addr detail) with left := n.left - 1 } }

/-- The fault of an instruction whose accesses are all answered, some of them bad. -/
def State.settleIns (s : State) (id : Nat) : State :=
  match s.ins.find id with
  | none => s
  | some n => if n.left = 0 ∧ n.bad ≠ 0 then s.faultIns id n.cause n.bad n.addr n.detail else s

/-- A wait stands before a request of its thread, or of its quire for a push (R195, R289, R403). -/
def blocks (id : Nat) (w : Wait) (key : Nat) (r : Req) : Bool :=
  w.owner == some (r.lk, r.qid, r.gid) && match w.goal with
  | .send c j i q => r.core == c && r.slot == j && r.lane == i && r.isStore && decide (q ≤ key)
  | .fence c j i _ _ _ | .hflush c j i _ => r.core == c && r.slot == j && r.lane == i && r.isStore && decide (id < key)
  | .push c j => r.core == c && r.slot == j && r.isStore && decide (id < key)
  | _ => false

-- ## Sending (R189, R192, R195)

/-- Whether two accesses share a line, or may while one is not translated (R192). -/
def sameLine (a b : Req) : Bool :=
  if a.local && b.local then
    if a.stage == .walk || b.stage == .walk then a.va % 4096 / 128 == b.va % 4096 / 128 else a.line == b.line
  else a.space == b.space && a.va / 128 == b.va / 128

/-- An access that reaches a register area, or may (R87). -/
def Req.maybeReg (r : Req) : Bool := r.local && (r.stage == .walk || isRegArea r.pa)

/-- The thread of a request takes part in the resident folio of its core (R266). -/
def State.inFolio (s : State) (r : Req) : Bool :=
  match (s.core r.core).resident with
  | some x => x.threads.contains (r.slot, r.lane)
  | none => false

/-- Two requests are of one thread. -/
def Req.sameThread (e r : Req) : Bool :=
  e.core == r.core && e.slot == r.slot && e.lane == r.lane && e.lk == r.lk && e.qid == r.qid && e.gid == r.gid

/-- A request goes to the device's own ID over the domain path (R54). -/
def State.ownDomain (s : State) (r : Req) : Bool := r.space == 3 && s.domValid && r.va / 2 ^ 53 == s.domDev.toNat

/-- One of two accesses takes the domain path to the device itself, and they may reach one line (R54, R192). -/
def State.crossed (s : State) (e r : Req) : Bool :=
  ((s.ownDomain e && r.local) || (s.ownDomain r && e.local)) && e.va % 2 ^ 52 / 128 == r.va % 2 ^ 52 / 128

/-- An earlier access `e` keeps a request in the core: a store or atomic of the same thread that has not been sent, before
a store or atomic (R195); an earlier access of the core to the line that has not been sent (R189), and another load of the
thread to it (R192); an access of the thread over the other of the two ways to its line (R54, R192); an access of the thread to a
register area (R87); any of the thread that has not been sent, in a folio (R266); one of a lower lane of its instruction to
its home (R390); and one of its own instruction that is not translated. -/
def State.before (s : State) (e r : Req) : Bool :=
  e.agent == .thread && e.core == r.core
    && ((e.space != 1 && r.space != 1
        && ((e.unsent && sameLine e r)
          || (e.sameThread r
            && ((e.isStore && e.unsent && r.isStore) || (e.isLoad && e.ins != r.ins && sameLine e r) || s.crossed e r || (e.maybeReg && r.maybeReg)))
          || (e.ins == r.ins && !e.prefetch
            && (e.stage == .walk || (e.unsent && e.local && r.local && s.homeOf e.pa == s.homeOf r.pa)))))
      || (e.sameThread r && e.unsent && s.inFolio r))

/-- A request must stay in its core: behind a release of its thread, or behind an earlier access. A bank access takes its
place in its bank's order as it issues, and waits there for releases, and in a folio for earlier accesses (R195, R206,
R266). -/
def State.mustHold (s : State) (key : Nat) (r : Req) : Bool :=
  s.waits.any (fun e => blocks e.1 e.2 key r)
    || s.reqs.any (fun e => (decide (e.1 < key) || (r.space != 1 && e.2.ins == r.ins && e.2.stage == .walk)) && s.before e.2 r)

/-- Domain address without its low seven bits, as R54 hashes it. -/
def hashedPart (va : Nat) : Nat := bitsOf va 7 45

/-- Sends a remote access, or fails it with LINK when no port serves (R54, R55). An address whose bit 52 is 1 is no domain
address (R52), and fails in the same way (log entry 52). One whose DEV is the device's own goes to the X-die of its port,
or to X-die 0 when the own ID has no port, and no further. -/
def State.sendRemote (s : State) (id : Nat) : State :=
  let r := s.req id
  let dev := r.va / 2 ^ 53
  let ports := s.ports.get [] dev
  let own := s.domValid && dev == s.domDev.toNat
  if 1152 ≤ dev ∨ (ports.isEmpty ∧ !own) ∨ r.va / 2 ^ 52 % 2 = 1 then
    ((s.setReq id { r with stage := .remote }).raiseLate r.lk (s.lateRec r .link (dieOf r.core) (dev * 2 ^ 16))).loseReq id
  else
    let p := ports.getD (Config.portHash (hashedPart r.va) % ports.length) 0
    let s := s.setReq id { r with stage := .remote, issued := s.now }
    (s.send (dieOf r.core) (s.reqFlits id (if own then portDie p else 32 + p))).due 1000000 { unit := id } .remoteReqTimeout

/-- A request that can reach no home, a bridge being down: lost, as those under way were when it went down (R47). -/
def State.strand (s : State) (id : Nat) : State :=
  let r := s.req id
  if r.prefetch then s.dropReq id
  else if r.srcDev.isSome then (s.setReq id { r with stage := .resp, status := 3 }).due 0 { unit := id } (.errArrive id 3)
  else s.loseReq id

/-- A request leaves for its home, over the bridges of its route, and is timed from its sending (R39, R43, R47, R50). -/
def State.toHome (s : State) (id : Nat) : State :=
  let r := s.req id
  let d := homeDie (s.homeOf r.pa)
  let s := s.setReq id { r with stage := .home, q := s.nowAt r.die, issued := s.now }
  if d = r.srcDie then s.atHome id
  else if s.cut r.srcDie d || s.cut d r.srcDie then s.strand id
  else (s.send r.srcDie (s.reqFlits id d)).due 200000 { unit := id } .bridgeReqTimeout

/-- A load met an uncorrectable error in a clean copy, which has been discarded (R24, R155). -/
def State.badCopy (s : State) (id : Nat) : State :=
  let r := s.req id
  if r.prefetch then s.dropReq id else (s.failReq id .ecc r.va 0).settleIns r.ins

/-- A request leaves its core: a load takes a usable copy, and any other access goes on to its home,
changing the copies it passes (R188-R191, R393). A `.h` load takes no copy, and leaves none of its line behind that is older
than what it returns (R192, R394). -/
def State.sendOne (s : State) (id : Nat) : State :=
  let r := s.req id
  let s := s.touchWaits (fun w => w.sent id)
  if r.space = 3 then s.sendRemote id
  else
    let q := s.quire r.core r.slot
    let cached := r.space == 0 && !isRegArea r.pa
    match r.kind with
    | .read =>
      if !cached then (if r.space == 2 && !isRegArea r.pa then s.passAtomic r.core r.pa else s).toHome id
      else
        let line := r.pa / 128
        match (if r.dieOnly then none else s.l1Copy r.core q.atD q.atP line) with
        | some l =>
          if l.wrong (r.pa % 128) r.size then (s.dropL1 r.core line).badCopy id
          else s.answerReq id (slice l.data (r.pa % 128) r.size)
        | none =>
          match s.dieCopy (dieOf r.core) q.atP line with
          | some l =>
            if l.wrong (r.pa % 128) r.size then (s.dropDie (dieOf r.core) line).badCopy id else
            let s := s.useDie (dieOf r.core) line
            let s := if r.dieOnly then s else s.refillL1 r.core line l
            s.answerReq id (slice l.data (r.pa % 128) r.size)
          | none => s.toHome id
    | .write | .wmask => (if isRegArea r.pa then s else s.passStore r.core r.pa r.data).toHome id
    | .atom | .red => (if isRegArea r.pa then s else s.passAtomic r.core r.pa).toHome id

/-- Requests that a core holds with their translation done, oldest first. -/
def State.heldOf (s : State) (c : Nat) : List Nat :=
  s.reqsWith (fun _ r => r.stage == .hold && r.space != 1 && r.core == c)

/-- Sends those of some held requests that nothing blocks any more. -/
def State.pumpList (s : State) : List Nat → State
  | [] => s
  | id :: ids => State.pumpList (if (s.reqs.find id).isNone || s.mustHold id (s.req id) then s else s.sendOne id) ids

-- ## Bank accesses (R206, R214, R230, R390)

/-- Physical bank of a bank access. -/
def State.bankOf (_s : State) (r : Req) : Nat := r.bank

/-- An item waits for a release of a thread: one of its accesses is held (R195). -/
def State.itemHeld (s : State) (it : Item) : Bool :=
  match it.work with
  | .access ids => ids.any (fun k => (s.req k).stage == .hold)
  | _ => false

/-- A microprogram of a bank is on its way to a checkpoint or to its end. -/
def State.microDue (s : State) (c b : Nat) : Bool :=
  s.agenda.any (fun d => (d.what = .mpEnd || d.what = .mpCap) && d.here.unit == c && d.here.sub == b)

/-- Begins the head of a bank's order when nothing of the bank is under way (R229, R230); a microprogram that stands at a
checkpoint goes on for what has come behind it (R159, R252). -/
def State.kickBank (s : State) (c b : Nat) : State :=
  let k := s.bank c b
  if k.busy then (if k.micro.isSome && !s.microDue c b then s.due 0 { unit := c, sub := b } .mpEnd else s)
  else match k.queue with
    | [] => s
    | it :: _ =>
      match it.work with
      | .conv _ => s.dueOnce (s.ticksTo k.freeAt) { unit := c, sub := b } .bankConversionStart
      | .bexec .. => s.dueOnce (s.ticksTo k.freeAt) { unit := c, sub := b } .bexecStart
      | _ => if s.itemHeld it then s else s.dueOnce (s.ticksTo k.freeAt) { unit := c, sub := b } .bankItemBegin

/-- An item reaches a bank. -/
def State.pushItem (s : State) (c b : Nat) (it : Item) : State :=
  let k := s.bank c b
  (s.setBank c b { k with queue := k.queue ++ [{ it with since := s.cycle }] }).kickBank c b

/-- Banks that a list of requests reaches. -/
def State.banksOf (s : State) (ids : List Nat) : List Nat := (ids.map (fun k => (s.req k).bank)).eraseDups

/-- The bank accesses of an instruction take their place in the banks' orders, one item a bank (R206, R230). -/
def State.sendBank (s : State) (ins : Nat) : State :=
  let n : Ins := s.ins.get {} ins
  let ids := s.reqsWith (fun _ r => r.ins == ins && r.space == 1)
  (s.banksOf ids).foldl (fun s b =>
    s.pushItem n.core b
      { work := .access (ids.filter (fun k => (s.req k).bank == b)), slot := n.slot, lanes := n.lanes,
        pathLanes := n.path, pc := n.pc, lk := (s.quire n.core n.slot).lk, ins := ins }) s

/-- Bank accesses that a release of their thread no longer holds may be applied, and their banks go on. -/
def State.freeBanked (s : State) (c : Nat) : State :=
  let ids := s.reqsWith (fun k r => r.stage == .hold && r.space == 1 && r.core == c && !s.mustHold k r)
  let s := ids.foldl (fun s k => (s.setReq k { s.req k with stage := .bank }).touchWaits (fun w => w.sent k)) s
  (s.banksOf ids).foldl (fun s b => s.kickBank c b) s

/-- Sends what a core holds and nothing blocks any more, its bank accesses included. -/
def State.pumpCore (s : State) (c : Nat) : State :=
  let s := (s.pumpList (s.heldOf c)).freeBanked c
  s.pumpList (s.heldOf c)

-- ## After translation

/-- A notify store (R395). -/
def Req.isNotify (r : Req) : Bool :=
  r.kind == .write && r.size == 16 && r.off == 0 && isRegArea r.pa && r.pa % 4096 == 0

/-- A store or atomic with release order, or a notify store, waits for its release first (R94, R195). -/
def State.armRelease (s : State) (id upto : Nat) : State :=
  let r := s.req id
  let rel := r.isStore && (decide (2 ≤ r.order))
  if !rel && !r.isNotify then s
  else
    let scope := if r.isNotify then max 3 (if rel then r.scope else 0) else r.scope
    let w := { s.releaseSet r.core r.slot (some r.lane) scope upto with goal := .send r.core r.slot r.lane id }
    if s.waitOver w then s else (s.addWait w).2

/-- An instruction passes its fault point (R140). -/
def State.passFault (s : State) (c j : Nat) (lanes : Lanes) (id : Nat) : State :=
  s.setQuire c j ((s.quire c j).mapLanes (lanesOf lanes) (fun _ t =>
    { t with outst := t.outst.map (fun o => if o.id = id then { o with fpDone := true } else o) }))

/-- Every access of an instruction is translated: stores pass their fault point and are no longer outstanding, but for a
notify store and one to a bank in TOSTOR (R215, R395), and the accesses are sent in ascending lane order, or held (R140,
R390). -/
def State.launchIns (s : State) (ins : Nat) : State :=
  match s.ins.find ins with
  | none => s
  | some n =>
    let ids := s.reqsWith (fun _ r => r.ins == ins)
    let upto := ids.headD 0
    let s := ids.foldl (fun s k => s.armRelease k upto) s
    let storeLike := ids.all (fun k => (s.req k).isStore && (s.req k).kind != .atom)
    let waiting := maskOf ((ids.filter (fun k => (s.req k).isNotify)).map (fun k => (s.req k).lane))
    let shut := maskOf ((ids.filter (fun k => (s.req k).space == 1
      && (s.bank n.core (s.req k).bank).mode == .toStor)).map (fun k => (s.req k).lane))
    let s := if storeLike then
        (s.finishOutst n.core n.slot (n.lanes &&& ~~~(waiting ||| shut)) ins).passFault n.core n.slot waiting ins
      else s
    let s := s.sendBank ins
    (s.pumpCore n.core).settleIns ins

/-- Sets the physical address of a request, or says why it fails (R63, R203, R392). -/
def State.placeReq (s : State) (id : Nat) (e : Dword) (lg : Nat) : Option Cause × State :=
  let r := s.req id
  let k : AccessKind := match r.kind with
    | .read => .load
    | .write | .wmask => .store
    | _ => .atomic
  let pa := physOf e lg r.va
  if !leafPermits e k || s.homeOf pa == .hole || (r.space == 2 && leafPlc e != 3) then (some .perm, s)
  else if k = .atomic ∧ 2 ^ (s.homeOf pa).granule < r.size ∧ !isRegArea pa then (some .align, s)
  else (none, s.setReq id { r with stage := .hold, pa := pa })

/-- A prefetch that its translation serves goes on, behind what an access to its line stays behind; one that fails is dropped
(R189, R402). -/
def State.placePrefetch (s : State) (id : Nat) (e : Dword) (lg : Nat) : State :=
  match s.placeReq id e lg with
  | (none, s) => if isRegArea (s.req id).pa then s.dropReq id else s.pumpList [id]
  | (some _, s) => s.dropReq id

/-- Requests of an instruction that its translation turned away with a cause. -/
def State.turnedAway (s : State) (ins : Nat) (c : Cause) : List Req :=
  ((s.reqs.filter (fun e => e.2.ins == ins && e.2.fails == some c)).map Prod.snd)

/-- Every access of an instruction has been translated, and some were turned away: PERM comes before ALIGN, and ALIGN before
an error in a table, with the lanes for which the cause holds (R141, R392). -/
def State.failTranslation (s : State) (ins : Nat) : Option State :=
  ([Cause.perm, .align, .ecc].find? (fun c => !(s.turnedAway ins c).isEmpty)).map (fun c =>
    let rs := s.turnedAway ins c
    let mask := maskOf (rs.map Req.lane)
    let low := (lanesOf mask).headD 0
    s.faultIns ins c mask (((rs.find? (fun r => r.lane == low)).map Req.va).getD 0) 0)

/-- A launch that accesses a failed die, or one beyond a bridge that is down, fails with LINK (R20, R43, Table 6.5). -/
def State.failDead (s : State) (id die : Nat) : State :=
  let r := s.req id
  (s.raiseLate r.lk (s.lateRec r .link die (die + die * 2 ^ 8))).loseReq id

/-- A walk that failed for a chunk of a copy command: the chunk meets the cause when it comes to the page (R66). -/
def State.badWalk (s : State) (r : Req) (e : Cause) : State :=
  match r.agent with
  | .chunk o id k =>
    s.setCore o { s.core o with cmds := (s.core o).cmds.map (fun x =>
      if x.id = id then { x with walkBad := (k, r.va / 65536, e) :: x.walkBad } else x) }
  | _ => s

/-- The run of a core as the word with a head would issue on it. -/
def State.issuingAt (s : State) (c : Nat) (h : Head) : Option Ictx := ({ s with focus := c } : State).issuing h

/-- A fault at the word that a run stands at, no word being there to issue: LEASE, PERM or ECC of its fetch, or ILLEGAL of a
run that 24 words do not end (R313, R324). -/
def State.fetchFault (s : State) (c : Nat) (cause : Cause) (addr : Nat) : State :=
  match s.issuingAt c plainHead with
  | some x => trapWord x none cause x.path addr 0
  | none => s

/-- LINK of a fetch: a late fault of its launch, the threads that fetch standing still (R137, R147, Table 6.5). -/
def State.fetchLink (s : State) (c die addr : Nat) : State :=
  match s.issuingAt c plainHead with
  | some x =>
    let p : Pend := { cause := .link, deliv := 3, fpc := x.pc, mask := x.path }
    let r := x.s.quireRec x.core x.slot p addr (die + die * 2 ^ 8) true
    closeWord ((x.s.stopLanes x.core x.slot x.path).raiseLate x.q.lk r) x none true false
  | none => s

/-- The fetch of a core still stands at an address. -/
def Core.fetches (k : Core) (va : Nat) : Bool :=
  match k.run with
  | some r => (if r.turn then r.b else r.a).pc.toNat == va
  | none => false

/-- A walk that failed for a fetch: the page cannot be read by the build that is under way on the core (R260). -/
def Core.pageFails (k : Core) (va : Nat) : Core :=
  match k.building with
  | some n =>
    let e : Heat := k.heat.get {} n
    { k with heat := k.heat.set n { e with badPages := (va / 65536) :: e.badPages } }
  | none => k

/-- A spill or refill of a queue that waited for a walk is looked at again (R66, R287). -/
def State.pokeQueue (s : State) (q : Nat) (refill : Bool) : State :=
  s.dueOnce 0 { unit := q } (if refill then .queueRefillComplete else .queueSlotArrive)

/-- The walk of a page has ended for an access of a fetch, of an engine or of a queue that joined it (R66). -/
def State.endAgentWalk (s : State) (id : Nat) (res : WalkRes) : State :=
  let r := s.req id
  let s := { s with reqs := s.reqs.del id }
  let s := match r.agent, res with
    | .fetch, .leaf .. => s
    | .fetch, _ => s.setCore r.core ((s.core r.core).pageFails r.va)
    | _, _ => s
  match r.agent, res with
  | .fetch, .leaf .. => s
  | .fetch, .perm => if (s.core r.core).fetches r.va then s.fetchFault r.core .perm r.va else s
  | .fetch, .ecc => if (s.core r.core).fetches r.va then s.fetchFault r.core .ecc r.va else s
  | .fetch, .link d => if (s.core r.core).fetches r.va then s.fetchLink r.core d r.va else s
  | .queue q refill, .leaf .. => s.pokeQueue q refill
  | .queue q refill, .link d => (s.setQueue q { s.queue q with walkBad := some (some d) }).pokeQueue q refill
  | .queue q refill, _ => (s.setQueue q { s.queue q with walkBad := some none }).pokeQueue q refill
  | _, .leaf .. => s.touchWaits (fun w => w.without id 0)
  | _, .perm => (s.badWalk r .perm).touchWaits (fun w => w.without id 0)
  | _, .ecc => (s.badWalk r .engine).touchWaits (fun w => w.without id 0)
  | _, .link _ => (s.badWalk r .link).touchWaits (fun w => w.without id 0)

/-- The walk of a page has ended for an access of a thread that joined it (R66). -/
def State.endLaneWalk (s : State) (res : WalkRes) (k : Nat) : State :=
  let r := s.req k
  let away (s : State) (c : Cause) : State := s.setReq k { r with stage := .hold, fails := some c }
  match res with
  | .leaf e lg _ =>
    if r.prefetch then s.placePrefetch k e lg
    else match s.placeReq k e lg with
      | (none, s) => s
      | (some c, s) => away s c
  | .perm => if r.prefetch then s.dropReq k else away s .perm
  | .ecc => if r.prefetch then s.dropReq k else away s .ecc
  | .link d => if r.prefetch then s.dropReq k else (s.setReq k { r with stage := .remote }).failDead k d

/-- The walk of a page has ended for the accesses that joined it (R66). -/
def State.endWalk (s : State) (d ctx page : Nat) (res : WalkRes) : State :=
  let ids := s.reqsWith (fun _ r => r.stage == .walk && dieOf r.core == d && r.ctx == ctx && r.va / 65536 == page)
  let s := ids.foldl (fun s k =>
    if (s.req k).stage != .walk then s
    else if (s.req k).agent = .thread then s.endLaneWalk res k
    else s.endAgentWalk k res) s
  let inss := (ids.filterMap (fun k => (s.reqs.find k).map (fun r => r.ins))).eraseDups
  inss.foldl (fun s n =>
    if s.reqs.any (fun e => e.2.ins == n && e.2.stage == .walk) then s else (s.failTranslation n).getD (s.launchIns n)) s

-- ## Ends of waits

/-- Every bank instruction that a quire issued has been performed (R174). -/
def State.banksIdle (s : State) (c j : Nat) : Bool :=
  (Tab.vals (s.core c).banks).all (fun b => b.queue.all (fun it => it.slot != j))

/-- The acquire of a fence stands out. -/
def State.acquiring (s : State) (c j i ins : Nat) : Bool :=
  s.waits.any (fun e => match e.2.goal with
    | .acquire c' j' i' n _ => c' == c && j' == j && i' == i && n == ins
    | _ => false)

/-- The end of a fence's release, or of an `hflush` (R197, R403). -/
def State.endFence (s : State) (c j i ins : Nat) (acq : Bool) (scope : Nat) : State :=
  let there := ((s.quire c j).th i).awaits ins
  let s := if s.acquiring c j i ins then s else s.finishOutst c j (maskOf [i]) ins
  let s := if acq && there then s.acquire c j scope else s
  s.pumpCore c

/-- The end of the acquire of a fence; the fence itself is over when no release of it stands out (R197). -/
def State.endAcquire (s : State) (c j i ins scope : Nat) : State :=
  let there := ((s.quire c j).th i).awaits ins
  let s := if there then s.acquire c j scope else s
  let more := s.waits.any (fun e => match e.2.goal with
    | .fence c' j' i' n _ _ => c' == c && j' == j && i' == i && n == ins
    | _ => false)
  if more then
    s.setQuire c j ((s.quire c j).mapLanes [i] (fun _ t =>
      { t with outst := t.outst.map (fun o => if o.id = ins then { o with acq := false } else o) }))
  else s.finishOutst c j (maskOf [i]) ins

end Sys2Proof.Machine
end

