-- ==== Sys2Proof/Machine/Access.lean ====
section
/-! DEFINITION. Lane accesses: loads, stores, parameter-window loads, atomics, fences, prefetch, `hflush`
(R212, R391-R403). -/

namespace Sys2Proof.Machine

/-- One access of a lane. -/
structure LaneAcc where
  lane : Nat
  ea : Nat
  size : Nat
  data : List Byte := []
  /-- Place of its bytes in the instruction's buffer. -/
  base : Nat := 0
  deriving DecidableEq, Repr, Inhabited

/-- What the accesses of one instruction have in common. -/
structure AccWord where
  kind : ReqKind := .read
  space : Nat := 0
  aop : Nat := 0
  order : Nat := 0
  scope : Nat := 0
  la : Nat := 0
  result : Result := .discard
  /-- Registers a result will be written to. -/
  regs : List Nat := []
  pbnd : Lanes := 0
  /-- Checked against the leased ranges (R59). -/
  leased : Bool := true
  deriving DecidableEq, Repr, Inhabited

/-- Address of a lane (R320). -/
def Ictx.ea (x : Ictx) (sb : SReg) (vo : VReg) (off : Dword) (i : Nat) : Dword :=
  x.sh.s sb.toNat + (if vo = 255 then 0 else ((x.q.th i).rv vo).zeroExtend 64) + off

/-- Pieces of an access within one line each: place in the access and bytes (R202). -/
def piecesOf (va n : Nat) : List (Nat × Nat) :=
  let room := 128 - va % 128
  if n ≤ room then [(0, n)] else [(0, room), (room, n - room)]

/-- Mask of the accesses that meet a test. -/
def failing (as : List LaneAcc) (f : LaneAcc → Bool) : Lanes := maskOf ((as.filter f).map LaneAcc.lane)

/-- A bank address is out of the share (R212). -/
def Share.outside (x : Share) (a : LaneAcc) : Bool :=
  decide (2 ^ 21 ≤ a.ea) || decide (x.banks.length ≤ a.ea / 2 ^ 17) || decide (2 ^ 17 < a.ea % 2 ^ 17 + a.size)

/-- Alignment of an access (R391, R203). -/
def AccWord.misaligned (w : AccWord) (a : LaneAcc) : Bool :=
  if w.kind = .atom ∨ w.kind = .red ∨ w.space = 2 ∨ w.space = 3 then a.ea % a.size != 0
  else decide (16 ≤ a.size) && a.ea % 16 != 0

/-- The bank of an address takes no lane access (Table 9.1). -/
def Ictx.bankShut (x : Ictx) (a : LaneAcc) : Bool :=
  let k := x.s.core x.core
  let m := (k.bank (k.physBank x.q (a.ea / 2 ^ 17))).mode
  m == .toComp || m == .compute

/-- The bank of an address makes a lane access wait (Table 9.1). -/
def Ictx.bankWaits (x : Ictx) (a : LaneAcc) : Bool :=
  let k := x.s.core x.core
  (k.bank (k.physBank x.q (a.ea / 2 ^ 17))).mode == .toStor

/-- The first issue-time cause of the accesses (R392), LEASE after them (R59). -/
def Ictx.accessFault (x : Ictx) (w : AccWord) (as : List LaneAcc) : Option (Cause × Lanes) :=
  let bound := if w.space = 1 then failing as ((x.s.core x.core).shareOf x.q).outside else 0
  let align := failing as w.misaligned
  let mode := if w.space = 1 then failing as x.bankShut else 0
  let l := x.s.launch x.q.lk
  let lease := if (w.space = 0 ∨ w.space = 2) ∧ w.leased then failing as (fun a => !l.leased a.ea a.size) else 0
  if bound ≠ 0 then some (.bankbound, bound)
  else if w.leased ∧ align ≠ 0 then some (.align, align)
  else if mode ≠ 0 then some (.bankmode, mode)
  else if lease ≠ 0 then some (.lease, lease)
  else none

/-- Address of the lowest lane of a mask. -/
def addrOf (as : List LaneAcc) (m : Lanes) : Nat :=
  ((as.find? (fun a => m.getLsbD a.lane)).map LaneAcc.ea).getD 0

/-- The request of one piece of an access, before its translation. -/
def Ictx.reqOf (x : Ictx) (w : AccWord) (ins : Nat) (a : LaneAcc) (off n : Nat) : Req :=
  let l := x.s.launch x.q.lk
  let va := a.ea + off
  { stage := if w.space = 0 ∨ w.space = 2 then .walk else .hold, kind := w.kind, core := x.core, slot := x.slot,
    lane := a.lane, die := dieOf x.core, lk := x.q.lk, qid := x.q.qid, gid := x.q.gid, ctx := l.ctx,
    bank := if w.space = 1 then (x.s.core x.core).physBank x.q (va / 2 ^ 17) else 0, ins := ins, pc := x.pc,
    space := w.space, va := va, size := n, off := a.base + off,
    data := if w.kind = .atom ∨ w.kind = .red then a.data else slice a.data off n, aop := w.aop, order := w.order, scope := w.scope,
    lclass := ((l.rangeOf va).map Range.lclass).getD 0, issued := x.s.now }

/-- Gives a request its number, and its translation when a TLB holds one (R65). -/
def State.newReq (s : State) (r : Req) : (Nat × Option Cause) × State :=
  let (id, s) := s.take
  let s := s.setReq id r
  if r.stage = .walk then
    let (e, s) := s.tlbLook r.core r.ctx r.va (r.kind != .read)
    match e with
    | none => ((id, none), s)
    | some e =>
      let (c, s) := s.placeReq id e.leaf e.lg
      ((id, c), if c.isSome then s.setReq id { r with stage := .hold, fails := c } else s)
  else ((id, none), s)

/-- All pieces of the accesses, in ascending lane order, with the faults that hits in a TLB find. -/
def Ictx.newReqs (x : Ictx) (w : AccWord) (ins : Nat) (s : State) (as : List LaneAcc) :
    List (Nat × Cause) × State :=
  as.foldl (fun acc a =>
    (if w.space = 0 ∨ w.space = 2 then piecesOf a.ea a.size else [(0, a.size)]).foldl (fun acc p =>
      let r := x.reqOf w ins a p.1 p.2
      let ((_, c), s) := acc.2.newReq r
      (match c with
        | some c => acc.1 ++ [(a.lane, c)]
        | none => acc.1, s)) acc) ([], s)

/-- Walks for the pieces that missed (R66). -/
def State.walkMisses (s : State) (d ins : Nat) : State :=
  (s.reqsWith (fun _ r => r.ins == ins && r.stage == .walk)).foldl (fun s k =>
    let r := s.req k
    s.startWalk d r.ctx r.va) s

/-- The record of an instruction under way. -/
def Ictx.ins (x : Ictx) : Ins :=
  { core := x.core, slot := x.slot, path := x.path, lanes := x.lanes, pc := x.pc, lk := x.q.lk, qid := x.q.qid, gid := x.q.gid,
    marks := (lanesOf x.path).map (fun i => (i, (x.q.th i).issued)) }

/-- The threads of some lanes have an instruction outstanding. -/
def State.addOutst (s : State) (c j : Nat) (m : Lanes) (o : Outst) : State :=
  s.setQuire c j ((s.quire c j).mapLanes (lanesOf m) (fun _ t => { t with outst := t.outst ++ [{ o with idx := t.issued }] }))

/-- The accesses of an instruction are made (R390-R394). What the TLBs find against some is a fault once every access is
translated (R392). -/
def accessEff (x : Ictx) (w : AccWord) (as : List LaneAcc) : Eff :=
  match x.accessFault w as with
  | some (c, m) => .trap c m (addrOf as m) 0
  | none =>
    let (id, s) := x.s.take
    let (bad, s) := x.newReqs w id s as
    let walks := s.reqs.any (fun e => e.2.ins == id && e.2.stage == .walk)
    let perm := if walks then 0 else maskOf ((bad.filter (fun e => e.2 == .perm)).map Prod.fst)
    let align := if walks then 0 else maskOf ((bad.filter (fun e => e.2 == .align)).map Prod.fst)
    if perm ≠ 0 then .trap .perm perm (addrOf as perm) 0
    else if align ≠ 0 then .trap .align align (addrOf as align) 0
    else
      let acq := w.order = 1 ∨ w.order = 3
      let held := if w.space = 1 then failing as x.bankWaits else 0
      let n : Ins := { x.ins with result := w.result, left := (s.reqsWith (fun _ r => r.ins == id)).length, acq := acq,
                                  scope := w.scope, pbnd := w.pbnd }
      let s := { s with ins := s.ins.set id n }
      let o : Outst := { id := id, la := w.la, reason := .mem, regs := w.regs, acq := acq }
      let s := s.addOutst x.core x.slot (x.lanes &&& ~~~held) o
      let s := s.addOutst x.core x.slot held { o with reason := .bank, fpDone := w.kind == .write || w.kind == .red }
      let s := s.walkMisses (dieOf x.core) id
      if n.left = 0 then .ok (s.finishLoad id)
      else if walks then .ok s
      else .ok (s.launchIns id)

/-- The accesses of the participants of a format M word. -/
def Ictx.accesses (x : Ictx) (m : MemFields) (off : Dword) (size : Nat) (data : Thread → List Byte) : List LaneAcc :=
  (lanesOf x.lanes).map (fun i =>
    { lane := i, ea := (x.ea m.sb m.vo off i).toNat, size := size, data := data (x.q.th i) })

/-- LD (R394). -/
def execLd (h : Head) (vt : VReg) (m : MemFields) (s : State) : Host.Outcome State Fault Refusal :=
  issue (.ld h vt m) h s (fun x =>
    let n := sizeBytes m.size.toNat
    accessEff x { kind := .read, space := m.space.toNat, order := m.order.toNat, scope := m.scope.toNat,
                  la := m.la.toNat, result := .load m.size.toNat vt.toNat, regs := rBytes n vt }
      (x.accesses m (m.off.signExtend 64) n (fun _ => [])))

/-- ST (R394, R395). -/
def execSt (h : Head) (vt : VReg) (m : MemFields) (s : State) : Host.Outcome State Fault Refusal :=
  issue (.st h vt m) h s (fun x =>
    let n := sizeBytes m.size.toNat
    accessEff x { kind := .write, space := m.space.toNat, order := m.order.toNat, scope := m.scope.toNat,
                  la := m.la.toNat }
      (x.accesses m (m.off.signExtend 64) n (fun t => storeBytes t vt.toNat n)))

/-- Bytes of an `ldp` that lie in its window (R396). -/
def inWindow (o : Dword) (n size : Nat) : Nat := min n (size - o.toNat)

/-- LDP (R396, R397). -/
def execLdp (h : Head) (vt : VReg) (m : MemFields) (s : State) : Host.Outcome State Fault Refusal :=
  issue (.ldp h vt m) h s (fun x =>
    let n := sizeBytes m.size.toNat
    let r := (x.s.launch x.q.lk).rcd
    let w := m.sb.toNat % 4
    let size := r.pwSize.getD w 0
    let o (i : Nat) : Dword := (if m.vo = 255 then 0 else ((x.q.th i).rv m.vo).zeroExtend 64) + m.off.signExtend 64
    if size = 0 then .trap .param x.lanes 0 0
    else
      let as := ((lanesOf x.lanes).map (fun i =>
        ({ lane := i, ea := (r.pwBase.getD w 0).toNat + (o i).toNat, size := inWindow (o i) n size } : LaneAcc))).filter
          (fun a => a.size != 0)
      accessEff x { kind := .read, la := m.la.toNat, result := .load m.size.toNat vt.toNat, regs := rBytes n vt,
                    pbnd := maskOf ((lanesOf x.lanes).filter (fun i => decide (inWindow (o i) n size < n))),
                    leased := false } as)

/-- Operand bytes of an atomic: for CAS the comparand and the new value (R399). -/
def atomData (t : Thread) (vt : VReg) (m : MemFields) : List Byte := storeBytes t vt.toNat m.atomRegBytes

/-- ATOM (R398-R400). -/
def execAtom (h : Head) (vt : VReg) (m : MemFields) (s : State) : Host.Outcome State Fault Refusal :=
  issue (.atom h vt m) h s (fun x =>
    let n := sizeBytes m.size.toNat
    accessEff x { kind := .atom, space := m.space.toNat, aop := m.aop, order := m.order.toNat,
                  scope := m.scope.toNat, la := m.la.toNat, result := .load m.size.toNat vt.toNat, regs := rBytes n vt }
      (x.accesses m ((m.off.extractLsb' 0 8).signExtend 64) n (fun t => atomData t vt m)))

/-- RED (R398-R400). -/
def execRed (h : Head) (vt : VReg) (m : MemFields) (s : State) : Host.Outcome State Fault Refusal :=
  issue (.red h vt m) h s (fun x =>
    accessEff x { kind := .red, space := m.space.toNat, aop := m.aop, order := m.order.toNat,
                  scope := m.scope.toNat, la := m.la.toNat }
      (x.accesses m ((m.off.extractLsb' 0 8).signExtend 64) (sizeBytes m.size.toNat) (fun t => atomData t vt m)))

-- ## Fences (R195-R197, R401)

/-- Loads and atomics with return of a thread. -/
def State.loadsOf (s : State) (c j i : Nat) : List Nat :=
  s.reqsWith (fun _ r => r.isLoad && r.ofQuire c j && (s.quire c j).owns r && r.lane == i)

/-- Starts a wait, or ends it at once when there is nothing to wait for. -/
def State.waitOr (s : State) (w : Wait) (done : State → State) : State :=
  if s.waitOver w then done s else (s.addWait w).2

/-- The release of a fence of one thread. -/
def State.fenceRelease (s : State) (c j ins i : Nat) (acq : Bool) (scope : Nat) : State :=
  s.waitOr { s.releaseSet c j (some i) scope s.fresh with goal := .fence c j i ins acq scope }
    (fun s => s.endFence c j i ins acq scope)

/-- The acquire of a fence of one thread. -/
def State.fenceAcquire (s : State) (c j ins i scope : Nat) : State :=
  s.waitOr { goal := .acquire c j i ins scope, reqs := s.loadsOf c j i, die := dieOf c }
    (fun s => s.endAcquire c j i ins scope)

/-- A fence: outstanding in each participant until performed (R401). -/
def fenceEff (x : Ictx) (la : BitVec 4) (acq : Bool) (f : State → Nat → Nat → State) : Eff :=
  let (id, s) := x.s.take
  let s := s.addOutst x.core x.slot x.lanes { id := id, la := la.toNat, reason := .mem, fpDone := true, acq := acq }
  .ok ((lanesOf x.lanes).foldl (fun s i => f s id i) s)

/-- FENCE_ACQ (R196, R197). -/
def execFenceAcq (h : Head) (scope : BitVec 3) (la : BitVec 4) (s : State) : Host.Outcome State Fault Refusal :=
  issue (.fenceAcq h scope la) h s (fun x =>
    fenceEff x la true (fun s id i => s.fenceAcquire x.core x.slot id i scope.toNat))

/-- FENCE_REL (R195, R197). -/
def execFenceRel (h : Head) (scope : BitVec 3) (la : BitVec 4) (s : State) : Host.Outcome State Fault Refusal :=
  issue (.fenceRel h scope la) h s (fun x =>
    fenceEff x la false (fun s id i => s.fenceRelease x.core x.slot id i false scope.toNat))

/-- FENCE_AR (R197): the release, and the acquire that does not wait for it. -/
def execFenceAr (h : Head) (scope : BitVec 3) (la : BitVec 4) (s : State) : Host.Outcome State Fault Refusal :=
  issue (.fenceAr h scope la) h s (fun x =>
    fenceEff x la true (fun s id i =>
      let w := { s.releaseSet x.core x.slot (some i) scope.toNat s.fresh with
                 goal := .fence x.core x.slot i id false scope.toNat }
      let s := if s.waitOver w then s else (s.addWait w).2
      s.fenceAcquire x.core x.slot id i scope.toNat))

/-- FENCE_FULL (R197). -/
def execFenceFull (h : Head) (scope : BitVec 3) (la : BitVec 4) (s : State) : Host.Outcome State Fault Refusal :=
  issue (.fenceFull h scope la) h s (fun x =>
    fenceEff x la true (fun s id i => s.fenceRelease x.core x.slot id i true scope.toNat))

-- ## Prefetch and `hflush`

/-- One prefetch: dropped outside the leased ranges, sent or walked for otherwise (R402). -/
def Ictx.prefetchLane (x : Ictx) (dc : Bool) (s : State) (ea : Nat) : State :=
  let l := s.launch x.q.lk
  let va := ea / 128 * 128
  if !l.leased ea 1 then s
  else
    let w : AccWord := { kind := .read }
    let r := { x.reqOf w 0 { lane := 0, ea := va, size := 128 } 0 128 with prefetch := true, dieOnly := dc }
    let (id, s) := s.take
    let (e, s) := s.tlbLook x.core l.ctx va false
    let s := s.setReq id r
    match e with
    | some e => s.placePrefetch id e.leaf e.lg
    | none => s.startWalk (dieOf x.core) l.ctx va

/-- PREFETCH (R402). -/
def execPrefetch (h : Head) (dc : Bool) (vo : VReg) (sb : SReg) (off : BitVec 14) (s : State) :
    Host.Outcome State Fault Refusal :=
  issue (.prefetch h dc vo sb off) h s (fun x =>
    .ok ((lanesOf x.lanes).foldl (fun s i => x.prefetchLane dc s (x.ea sb vo (off.signExtend 64) i).toNat) x.s))

/-- Requests that may be stores to host memory of a thread, in any space (R403): one to the device's own ID may reach it
(R54). -/
def State.hostStores (s : State) (c j i : Nat) : List Nat :=
  s.reqsWith (fun _ r => r.isStore && r.ofQuire c j && (s.quire c j).owns r && r.lane == i
    && (s.ownDomain r || (r.local && (r.stage == .walk || decide (0x800000000000 ≤ r.pa)))))

/-- HFLUSH (R403). -/
def execHflush (h : Head) (la : BitVec 4) (s : State) : Host.Outcome State Fault Refusal :=
  issue (.hflush h la) h s (fun x =>
    let (id, s) := x.s.take
    let s := s.addOutst x.core x.slot x.lanes { id := id, la := la.toNat, reason := .mem, fpDone := true }
    .ok ((lanesOf x.lanes).foldl (fun s i =>
      s.waitOr { goal := .hflush x.core x.slot i id, reqs := s.hostStores x.core x.slot i,
                 need := (s.die (dieOf x.core)).gwctMax, die := dieOf x.core }
        (fun s => s.endFence x.core x.slot i id false 0)) s))

end Sys2Proof.Machine
end

