-- ==== Sys2Proof/Machine/Flags.lean ====
section
/-! DEFINITION. FPSR flags (Table 13.6), saturation (R333), conditions of the compares (R344, R348) and
their combination with a predicate. -/

namespace Sys2Proof.Machine

/-- FPSR.NV. -/
def fNV : Word := 0x01
/-- FPSR.DZ. -/
def fDZ : Word := 0x02
/-- FPSR.OF. -/
def fOF : Word := 0x04
/-- FPSR.UF. -/
def fUF : Word := 0x08
/-- FPSR.NX. -/
def fNX : Word := 0x10
/-- FPSR.IS. -/
def fIS : Word := 0x20
/-- FPSR.PBND. -/
def fPBND : Word := 0x40
/-- A flag when a condition holds. -/
def flagIf (b : Bool) (f : Word) : Word := if b then f else 0

/-- `sat(x, lo, hi)` of a register result; IS exactly when the clamp changes the value (R333). -/
def satOut (d : VReg) (x lo hi : Int) : LaneOut :=
  { v := [(d.toNat, BitVec.ofInt 32 (clamp x lo hi))], fl := flagIf (clamp x lo hi != x) fIS }

/-- A register or pair read signed or unsigned (R333). -/
def readInt {w : Nat} (sg : Bool) (x : BitVec w) : Int := if sg then x.toInt else Int.ofNat x.toNat

/-- The six conditions of `isetp` (R344): 0 eq, 1 ne, 2 lt, 3 le, 4 gt, 5 ge. -/
def condInt (c : Nat) (x y : Int) : Bool :=
  match c with
  | 0 => decide (x = y)
  | 1 => decide (x ≠ y)
  | 2 => decide (x < y)
  | 3 => decide (x ≤ y)
  | 4 => decide (y < x)
  | _ => decide (y ≤ x)

/-- The eight conditions of the immediate form (R344). -/
def condImm (c : Nat) (x y : Word) : Bool :=
  match c with
  | 0 => x == y
  | 1 => x != y
  | 2 => decide (x.toInt < y.toInt)
  | 3 => decide (x.toInt ≤ y.toInt)
  | 4 => decide (y.toInt < x.toInt)
  | 5 => decide (y.toInt ≤ x.toInt)
  | 6 => decide (x.toNat < y.toNat)
  | _ => decide (y.toNat ≤ x.toNat)

/-- The ten conditions of `ssetp` (R348). -/
def condScalar (c : Nat) (x y : Dword) : Bool :=
  match c with
  | 0 => x == y
  | 1 => x != y
  | 2 => decide (x.toInt < y.toInt)
  | 3 => decide (x.toInt ≤ y.toInt)
  | 4 => decide (y.toInt < x.toInt)
  | 5 => decide (y.toInt ≤ x.toInt)
  | 6 => decide (x.toNat < y.toNat)
  | 7 => decide (x.toNat ≤ y.toNat)
  | 8 => decide (y.toNat < x.toNat)
  | _ => decide (y.toNat ≤ x.toNat)

/-- CMB of the compares: none, and, or, with predicate `pc` (R344). -/
def combine (cmb : BitVec 2) (pc c : Bool) : Bool :=
  match cmb.toNat with
  | 0 => c
  | 1 => c && pc
  | _ => c || pc

/-- Truth table of `plop` (R345). -/
def tableBit (t : BitVec 8) (a b c : Bool) : Bool :=
  t.getLsbD (4 * a.toNat + 2 * b.toNat + c.toNat)

end Sys2Proof.Machine
end

