-- ==== Sys2Proof/Machine/Float.lean ====
section
/-! DEFINITION. Number formats and arithmetic (R292-R310): element formats, one rounding of an exact
value, sums, products, comparisons, conversions, S10 scales, draws, and the bounds of the approximating
instructions (R357, R358). A finite value is held exactly, as a whole number times a power of two. -/

namespace Sys2Proof.Machine

-- ## Formats (Table 13.1)

/-- A floating-point format. -/
structure FpFmt where
  bits : Nat
  /-- Fraction bits. -/
  t : Nat
  bias : Nat
  /-- Code of the largest finite magnitude. -/
  maxCode : Nat
  /-- The format has infinities, at maxCode + 1. -/
  hasInf : Bool
  /-- Code of the canonical NaN (R295); 0 where there is none. -/
  nan : Nat
  deriving DecidableEq, Repr, Inhabited

/-- FP4 E2M1. -/
def fp4 : FpFmt := ⟨4, 1, 1, 7, false, 0⟩
/-- FP8 E4M3. -/
def e4m3 : FpFmt := ⟨8, 3, 7, 0x7E, false, 0x7F⟩
/-- FP8 E5M2. -/
def e5m2 : FpFmt := ⟨8, 2, 15, 0x7B, true, 0x7E⟩
/-- BF16. -/
def bf16 : FpFmt := ⟨16, 7, 127, 0x7F7F, true, 0x7FC0⟩
/-- FP16. -/
def fp16 : FpFmt := ⟨16, 10, 15, 0x7BFF, true, 0x7E00⟩
/-- FP32. -/
def fp32 : FpFmt := ⟨32, 23, 127, 0x7F7FFFFF, true, 0x7FC00000⟩
/-- FP64. -/
def fp64 : FpFmt := ⟨64, 52, 1023, 0x7FEFFFFFFFFFFFFF, true, 0x7FF8000000000000⟩

/-- The format of an EF code 2-8. -/
def fmtOf (ef : Nat) : FpFmt :=
  match ef with
  | 2 => e4m3
  | 3 => e5m2
  | 4 => fp4
  | 5 => bf16
  | 6 => fp16
  | 7 => fp32
  | _ => fp64

/-- Smallest unbiased exponent (R293). -/
def FpFmt.emin (f : FpFmt) : Int := 1 - Int.ofNat f.bias
/-- The code with a sign. -/
def FpFmt.sign (f : FpFmt) (neg : Bool) (mag : Nat) : Nat := if neg then mag + 2 ^ (f.bits - 1) else mag

/-- What an encoding stands for. -/
inductive FVal where
  | nan (signalling : Bool)
  | inf (neg : Bool)
  /-- (-1)^neg * n * 2^e. -/
  | fin (neg : Bool) (n : Nat) (e : Int)
  deriving DecidableEq, Repr, Inhabited

/-- Reads an encoding; with `ftz` a subnormal reads as zero of its sign (R306). -/
def FpFmt.read (f : FpFmt) (ftz : Bool) (x : Nat) : FVal :=
  let neg := x / 2 ^ (f.bits - 1) % 2 == 1
  let mag := x % 2 ^ (f.bits - 1)
  let m := mag % 2 ^ f.t
  let ef := mag / 2 ^ f.t
  if f.maxCode < mag then
    if f.hasInf ∧ mag = f.maxCode + 1 then .inf neg
    else .nan (f.hasInf && m / 2 ^ (f.t - 1) == 0)
  else if ef = 0 then (if ftz then .fin neg 0 0 else .fin neg m (f.emin - f.t))
  else .fin neg (2 ^ f.t + m) (Int.ofNat ef - f.bias - f.t)

/-- Sign inversion before an operation (R352). -/
def FVal.neg (v : FVal) (b : Bool) : FVal :=
  match v with
  | .nan g => .nan g
  | .inf n => .inf (n != b)
  | .fin n m e => .fin (n != b) m e

/-- Whether a value is a NaN. -/
def FVal.isNan : FVal → Bool
  | .nan _ => true
  | _ => false
/-- Whether a value is a signalling NaN. -/
def FVal.isSig : FVal → Bool
  | .nan g => g
  | _ => false

-- ## Rounding (R298)

/-- Rounding modes; `sr` holds its 24-bit draw. -/
inductive Rnd where
  | rne | rtz | rup | rdn
  | sr (u : Nat)
  deriving DecidableEq, Repr, Inhabited

/-- The rounding code of a lane instruction (Table 13.2). -/
def rndOf (rm : BitVec 2) : Rnd :=
  match rm.toNat with
  | 0 => .rne
  | 1 => .rtz
  | 2 => .rup
  | _ => .rdn

/-- Rounds the magnitude num / den to a whole number; the second part says that it is inexact. -/
def roundQ (m : Rnd) (neg : Bool) (num den : Nat) : Nat × Bool :=
  let q := num / den
  let r := num % den
  let up := match m with
    | .rne => decide (den < 2 * r) || (2 * r == den && q % 2 == 1)
    | .rtz => false
    | .rup => !neg && r != 0
    | .rdn => neg && r != 0
    | .sr u => decide (u < r * 2 ^ 24 / den)
  (if up then q + 1 else q, r != 0)

/-- Rounds num / den * 2^e to a multiple of 2^u. -/
def roundAt (m : Rnd) (neg : Bool) (num den : Nat) (e u : Int) : Nat × Bool :=
  if u ≤ e then roundQ m neg (num * 2 ^ (e - u).toNat) den
  else roundQ m neg num (den * 2 ^ (u - e).toNat)

/-- Floor of the binary logarithm of num / den * 2^e, for a positive value. -/
def ilog (num den : Nat) (e : Int) : Int :=
  let k := Int.ofNat num.log2 - Int.ofNat den.log2
  let fits := if 0 ≤ k then decide (den * 2 ^ k.toNat ≤ num) else decide (den ≤ num * 2 ^ (-k).toNat)
  (if fits then k else k - 1) + e

/-- Result of an overflow (R306, Table 13.5). -/
def FpFmt.overflow (f : FpFmt) (m : Rnd) (sat neg : Bool) : Nat :=
  if sat || f.nan == 0 then f.sign neg f.maxCode
  else if !f.hasInf then f.nan
  else
    let toInf := match m with
      | .rne | .sr _ => true
      | .rtz => false
      | .rup => !neg
      | .rdn => neg
    f.sign neg (if toInf then f.maxCode + 1 else f.maxCode)

/-- Rounds (-1)^neg * num / den * 2^e once to a format, with the flags of R308. -/
def FpFmt.round (f : FpFmt) (m : Rnd) (ftz sat neg : Bool) (num den : Nat) (e : Int) : Nat × Word :=
  if num = 0 then (f.sign neg 0, 0)
  else
    let k := ilog num den e
    let u := max k f.emin - f.t
    let r := roundAt m neg num den e u
    let code := (u + f.t + f.bias - 1).toNat * 2 ^ f.t + r.1
    if f.maxCode < code then (f.overflow m sat neg, fOF ||| fNX)
    else if ftz ∧ code < 2 ^ f.t then (f.sign neg 0, fUF ||| fNX)
    else
      let tiny := decide (k < f.emin)
        && !(k == f.emin - 1 && (roundAt m neg num den e (k - f.t)).1 == 2 ^ (f.t + 1))
      (f.sign neg code, flagIf r.2 fNX ||| flagIf (r.2 && tiny) fUF)

-- ## Sums and products (R306)

/-- A product of two values, exact; the second part says that it is invalid. -/
def FVal.mul (a b : FVal) : FVal × Bool :=
  match a, b with
  | .nan g, .nan h => (.nan false, g || h)
  | .nan g, _ | _, .nan g => (.nan false, g)
  | .inf n, .inf m => (.inf (n != m), false)
  | .inf n, .fin m k _ | .fin m k _, .inf n => if k = 0 then (.nan false, true) else (.inf (n != m), false)
  | .fin n j d, .fin m k e => (.fin (n != m) (j * k) (d + e), false)

/-- Exact sum of finite values as a number of units of 2^lo. -/
def sumUnits (lo : Int) : List FVal → Int
  | [] => 0
  | .fin n k e :: vs =>
    let x := Int.ofNat (k * 2 ^ (e - lo).toNat)
    (if n then -x else x) + sumUnits lo vs
  | _ :: vs => sumUnits lo vs

/-- Sign of a value. -/
def FVal.isNeg : FVal → Bool
  | .nan _ => false
  | .inf n => n
  | .fin n _ _ => n
/-- Whether a value is a zero. -/
def FVal.isZero : FVal → Bool
  | .fin _ n _ => n == 0
  | _ => false
/-- Whether a value is an infinity. -/
def FVal.isInf : FVal → Bool
  | .inf _ => true
  | _ => false
/-- Exponent of the unit of a finite value. -/
def FVal.unit : FVal → Int
  | .fin _ _ e => e
  | _ => 0

/-- The exact sum of some values, rounded once; `inv` says that a product in it was invalid. Opposite infinities anywhere in it
set NV, also beside a NaN (R359). -/
def FpFmt.sum (f : FpFmt) (m : Rnd) (ftz inv : Bool) (vs : List FVal) : Nat × Word :=
  let infs := vs.filter FVal.isInf
  if inv || vs.any FVal.isSig || (infs.any FVal.isNeg && infs.any (fun v => !v.isNeg)) then (f.nan, fNV)
  else if vs.any FVal.isNan then (f.nan, 0)
  else if !infs.isEmpty then (f.sign (infs.any FVal.isNeg) (f.maxCode + 1), 0)
  else
    let lo := vs.foldl (fun l v => min l v.unit) ((vs.head?.map FVal.unit).getD 0)
    let x := sumUnits lo vs
    if x = 0 then
      let neg := if vs.all FVal.isZero && vs.all FVal.isNeg then true
        else if vs.all FVal.isZero && vs.all (fun v => !v.isNeg) then false
        else m == .rdn
      (f.sign neg 0, 0)
    else f.round m ftz false (decide (x < 0)) x.natAbs 1 lo

/-- a + b (R306). -/
def FpFmt.add (f : FpFmt) (m : Rnd) (ftz : Bool) (a b : FVal) : Nat × Word := f.sum m ftz false [a, b]

/-- a * b (R306). -/
def FpFmt.mul (f : FpFmt) (m : Rnd) (ftz : Bool) (a b : FVal) : Nat × Word :=
  let p := a.mul b
  f.sum m ftz p.2 [p.1]

/-- a * b + c, rounded once (R306, R353). -/
def FpFmt.fma (f : FpFmt) (m : Rnd) (ftz : Bool) (a b c : FVal) : Nat × Word :=
  let p := a.mul b
  f.sum m ftz p.2 [p.1, c]

-- ## Order

/-- Order of encodings that are no NaN: -0 below +0. -/
def FpFmt.key (f : FpFmt) (x : Nat) : Int :=
  let mag := x % 2 ^ (f.bits - 1)
  if x / 2 ^ (f.bits - 1) % 2 = 1 then -Int.ofNat mag - 1 else Int.ofNat mag

/-- An encoding with a subnormal read as zero of its sign. -/
def FpFmt.flush (f : FpFmt) (ftz : Bool) (x : Nat) : Nat :=
  if ftz ∧ x % 2 ^ (f.bits - 1) < 2 ^ f.t then x / 2 ^ (f.bits - 1) * 2 ^ (f.bits - 1) else x

/-- An encoding with its sign inverted. -/
def FpFmt.flip (f : FpFmt) (b : Bool) (x : Nat) : Nat :=
  if b then (x + 2 ^ (f.bits - 1)) % 2 ^ f.bits else x

/-- `fmin`, `fmax` and their kind (R354), on encodings. -/
def FpFmt.minMax (f : FpFmt) (wantMax nanProp ftz : Bool) (x y : Nat) : Nat × Word :=
  let a := f.flush ftz x
  let b := f.flush ftz y
  let va := f.read false a
  let vb := f.read false b
  let fl := flagIf (va.isSig || vb.isSig) fNV
  let best := if wantMax then (if f.key b < f.key a then a else b) else (if f.key a < f.key b then a else b)
  let r := if nanProp then (if va.isNan || vb.isNan then f.nan else best)
    else if va.isNan && vb.isNan then f.nan else if va.isNan then b else if vb.isNan then a else best
  (r, fl)

/-- Sign of a - b of two values that are no NaN: -1, 0 or 1; -0 equals +0. -/
def FVal.cmp (a b : FVal) : Int :=
  match a, b with
  | .inf n, .inf m => if n = m then 0 else if n then -1 else 1
  | .inf n, _ => if n then -1 else 1
  | _, .inf m => if m then 1 else -1
  | a, b =>
    let lo := min a.unit b.unit
    Int.sign (sumUnits lo [a] - sumUnits lo [b])

/-- The conditions of Table 16.7, with NV. -/
def condFloat (c : Nat) (a b : FVal) : Bool × Word :=
  let un := a.isNan || b.isNan
  let sig := a.isSig || b.isSig
  let k := a.cmp b
  let quietNV := decide (2 ≤ c) && decide (c ≤ 5)
  let r := match c with
    | 0 => !un && k == 0
    | 1 => un || k != 0
    | 2 => !un && decide (k < 0)
    | 3 => !un && decide (k ≤ 0)
    | 4 => !un && decide (0 < k)
    | 5 => !un && decide (0 ≤ k)
    | 6 => un
    | 7 => !un
    | 8 => un || decide (k < 0)
    | 9 => un || decide (k ≤ 0)
    | 10 => un || decide (0 < k)
    | _ => un || decide (0 ≤ k)
  (r, flagIf (sig || (un && quietNV)) fNV)

/-- Mask of `fclass` (Table 16.3). -/
def FpFmt.classify (f : FpFmt) (x : Nat) : Nat :=
  let sub := decide (x % 2 ^ (f.bits - 1) < 2 ^ f.t)
  match f.read false x with
  | .nan g => if g then 0 else 1
  | .inf n => if n then 2 else 9
  | .fin n k _ => if k = 0 then (if n then 5 else 6) else if sub then (if n then 4 else 7) else if n then 3 else 8

/-- Rounds to an integral value of the format (R355). -/
def FpFmt.integral (f : FpFmt) (m : Rnd) (ftz ex : Bool) (x : Nat) : Nat × Word :=
  let y := f.flush ftz x
  match f.read false y with
  | .nan g => (f.nan, flagIf g fNV)
  | .inf _ => (y, 0)
  | .fin neg n e =>
    if n = 0 then (y, 0)
    else
      let r := roundAt m neg n 1 e 0
      ((f.round .rne false false neg r.1 1 0).1, flagIf (ex && r.2) fNX)

-- ## Conversions (R304, R305)

/-- Float to float (R304, R363). A conversion to a wider format or to its own keeps an infinity. -/
def cvtFloat (src dst : FpFmt) (m : Rnd) (ftz sat : Bool) (x : Nat) : Nat × Word :=
  match src.read ftz x with
  | .nan g => if dst.nan = 0 then (0, fNV) else (dst.nan, flagIf g fNV)
  | .inf neg =>
    if dst.nan = 0 then (dst.sign neg dst.maxCode, fNV ||| fNX)
    else if !dst.hasInf then (if sat then (dst.sign neg dst.maxCode, fNX) else (dst.nan, fNV))
    else if sat ∧ ¬(src.bits < dst.bits ∨ src = dst) then (dst.sign neg dst.maxCode, 0)
    else (dst.sign neg (dst.maxCode + 1), 0)
  | .fin neg n e => dst.round m ftz sat neg n 1 e

/-- Clamps a rounded whole number to a range, with the flags of R305. -/
def toRange (neg : Bool) (r : Nat × Bool) (lo hi : Int) : Int × Word :=
  let x : Int := if neg then -Int.ofNat r.1 else Int.ofNat r.1
  if x < lo then (lo, fNV) else if hi < x then (hi, fNV) else (x, flagIf r.2 fNX)

/-- A value times num / den * 2^e to an integer of a range (R305). -/
def FVal.toInt (v : FVal) (m : Rnd) (den : Nat) (k : Int) (lo hi : Int) : Int × Word :=
  match v with
  | .nan _ => (0, fNV)
  | .inf neg => (if neg then lo else hi, fNV)
  | .fin neg n e => toRange neg (roundAt m neg n den (e + k) 0) lo hi

/-- Smallest value of an integer type code (Table 16.8). -/
def intLo (it : Nat) : Int := if it % 2 = 1 then 0 else -2 ^ (intBits it - 1)
/-- Largest value of an integer type code (Table 16.8). -/
def intHi (it : Nat) : Int := if it % 2 = 1 then 2 ^ intBits it - 1 else 2 ^ (intBits it - 1) - 1

/-- Integer to float (R305, R364). -/
def FpFmt.ofInt (f : FpFmt) (m : Rnd) (ftz sat : Bool) (x : Int) : Nat × Word :=
  f.round m ftz sat (decide (x < 0)) x.natAbs 1 0

-- ## Draws (R299)

/-- One step of the LFSR. -/
def lfsrStep (s : Word) : Word := if s.getLsbD 0 then (s >>> 1) ^^^ 0x80200003 else s >>> 1
/-- `n` steps of the LFSR. -/
def lfsrSteps : Nat → Word → Word
  | 0, s => s
  | n + 1, s => lfsrSteps n (lfsrStep s)
/-- The state after one draw. -/
def lfsrDraw (s : Word) : Word := lfsrSteps 32 s
/-- The 24-bit draw that a state gives. -/
def drawOf (s : Word) : Nat := (s >>> 8).toNat
/-- The seed for a launch ID and a thread or chunk number (R299, R300). -/
def lfsrSeed (lid t : Nat) : Word :=
  let s := BitVec.ofNat 32 (lid * 0x9E3779B9 + t * 0x85EBCA6B + 0x6A09E667)
  if s = 0 then 1 else s

-- ## Format slots (Table 4.9)

/-- SM. -/
def slotSM (w : Dword) : Nat := (w.extractLsb' 4 2).toNat
/-- RND. -/
def slotRND (w : Dword) : Nat := (w.extractLsb' 6 2).toNat

-- ## Scales (R296, R297)

/-- An S10 scale is NaN. -/
def s10Nan (s : Nat) : Bool := s / 4 % 256 == 255
/-- Numerator of an S10 scale. -/
def s10Num (s : Nat) : Nat := 4 + s % 4
/-- Power of two of an S10 scale. -/
def s10Exp (s : Nat) : Int := Int.ofNat (s / 4 % 256) - 129

/-- n * 2^e ≤ m * 2^g. -/
def leScaled (n : Nat) (e : Int) (m : Nat) (g : Int) : Bool :=
  if e ≤ g then decide (n ≤ m * 2 ^ (g - e).toNat) else decide (n * 2 ^ (e - g).toNat ≤ m)

/-- Number of codes below 2^bits, of those that a rising test rejects. -/
def countFails (ok : Nat → Bool) : Nat → Nat → Nat
  | 0, c => c
  | b + 1, c => countFails ok b (if ok (c + 2 ^ b - 1) then c else c + 2 ^ b)

/-- The S10 of a block whose largest magnitude is n * 2^e, for a format whose largest finite value is
m * 2^g (R297). -/
def s10For (n : Nat) (e : Int) (m : Nat) (g : Int) : Nat :=
  if n = 0 then 0
  else min (countFails (fun s => leScaled n e (m * s10Num s) (g + s10Exp s)) 10 0) 0x3FB

-- ## Approximating instructions (R357, R358)

/-- Fixed-point places of the series below: enough to tell a result of the format from a bound of Table 16.4, since a small
operand x leaves x^3 / 6 between the two. -/
def fixP : Nat := 640
/-- One in fixed point. -/
def fixOne : Int := 2 ^ fixP
/-- Product in fixed point. -/
def fixMul (a b : Int) : Int := a * b / fixOne
/-- Sum of z^(2k+1) / (2k+1). -/
def atanhTerms : Nat → Nat → Int → Int → Int
  | 0, _, _, _ => 0
  | n + 1, k, pw, z2 => pw / (2 * k + 1) + atanhTerms n (k + 1) (fixMul pw z2) z2
/-- ln of num / den, for 1 ≤ num / den ≤ 2. -/
def fixLn (num den : Nat) : Int :=
  let z := (Int.ofNat num - Int.ofNat den) * fixOne / (Int.ofNat num + Int.ofNat den)
  2 * atanhTerms 208 0 z (fixMul z z)
/-- ln 2. -/
def fixLn2 : Int := fixLn 2 1
/-- Sum of x^k / k!. -/
def expTerms : Nat → Nat → Int → Int → Int
  | 0, _, _, _ => 0
  | n + 1, k, term, x => term + expTerms n (k + 1) (fixMul term x / Int.ofNat (k + 1)) x
/-- e^x for 0 ≤ x < 1. -/
def fixExp (x : Int) : Int := expTerms 128 0 fixOne x
/-- Sum of (-1)^k x^(2k+1) / (2k+1)!. -/
def sinTerms : Nat → Nat → Int → Int → Int
  | 0, _, _, _ => 0
  | n + 1, k, term, x2 => term + sinTerms n (k + 2) (-(fixMul term x2) / Int.ofNat ((k + 1) * (k + 2))) x2
/-- sin x for |x| below 8. -/
def fixSin (x : Int) : Int := sinTerms 88 1 x (fixMul x x)
/-- atan (1 / n), by its series. -/
def atanTerms : Nat → Nat → Int → Int → Int
  | 0, _, _, _ => 0
  | n + 1, k, pw, n2 => pw / Int.ofNat (2 * k + 1) - atanTerms n (k + 1) (pw / n2) n2
/-- pi = 16 atan (1/5) - 4 atan (1/239). -/
def fixPi : Int := 16 * atanTerms 144 0 (fixOne / 5) 25 - 4 * atanTerms 44 0 (fixOne / 239) 57121
/-- Bound on the truncations of the series, taken off the bounds of Table 16.4 (log entry 7). -/
def fixSlack : Int := 2 ^ 60

/-- A positive value n * 2^e in fixed point, truncated. -/
def toFix (n : Nat) (e : Int) : Int :=
  if 0 ≤ e + fixP then Int.ofNat (n * 2 ^ (e + fixP).toNat) else Int.ofNat (n / 2 ^ (-(e + fixP)).toNat)

/-- Codes of magnitudes between two bounds num / den * 2^e, unbounded above: the lowest and the highest. -/
def FpFmt.codeRange (f : FpFmt) (lo : Int) (hi : Int) (den : Nat) (e : Int) : Nat × Nat :=
  let code (m : Rnd) (x : Int) : Nat :=
    if x ≤ 0 then 0
    else
      let k := ilog x.toNat den e
      let u := max k f.emin - f.t
      (u + f.t + f.bias - 1).toNat * 2 ^ f.t + (roundAt m false x.toNat den e u).1
  (code .rup lo, code .rtz hi)

/-- The unit in the last place of a value num / den * 2^e, as a power of two. -/
def FpFmt.ulp (f : FpFmt) (num den : Nat) (e : Int) : Int := max (ilog num den e) f.emin - f.t

/-- The result of an approximating instruction: one of the codes from `lo` to `hi`, above the largest
finite an infinity; `tiny` says that the exact value is below the smallest normal. -/
def FpFmt.chosen (f : FpFmt) (ftz neg tiny : Bool) (r : Nat × Nat) (pick : Nat) : Nat × Word :=
  let code := r.1 + pick % (r.2 + 1 - r.1)
  if f.maxCode < code then (f.sign neg (f.maxCode + 1), fOF ||| fNX)
  else if ftz ∧ code < 2 ^ f.t then (f.sign neg 0, fUF ||| fNX)
  else (f.sign neg code, fNX ||| flagIf tiny fUF)

/-- A result between two signed bounds in fixed point, for the absolute bounds of Table 16.4. -/
def chosenBetween (ftz tiny : Bool) (lo hi : Int) (pick : Nat) : Nat × Word :=
  let mag (m : Rnd) (x : Int) : Nat :=
    let r := fp32.codeRange (Int.ofNat x.natAbs) (Int.ofNat x.natAbs) 1 (-Int.ofNat fixP)
    if m = .rtz then r.2 else r.1
  let kLo : Int := if lo < 0 then -Int.ofNat (mag .rtz lo) - 1 else Int.ofNat (mag .rup lo)
  let kHi : Int := if hi < 0 then -Int.ofNat (mag .rup hi) - 1 else Int.ofNat (mag .rtz hi)
  let k := kLo + Int.ofNat (pick % (kHi + 1 - kLo).toNat)
  let neg := decide (k < 0)
  let code := (if neg then -k - 1 else k).toNat
  if ftz ∧ code < 2 ^ 23 ∧ code ≠ 0 then (fp32.sign neg 0, fUF ||| fNX)
  else (fp32.sign neg code, fNX ||| flagIf tiny fUF)

/-- Whole square root by bits. -/
def isqrtGo (n : Nat) : Nat → Nat → Nat
  | 0, r => r
  | k + 1, r => isqrtGo n k (if (r + 2 ^ k) * (r + 2 ^ k) ≤ n then r + 2 ^ k else r)
/-- Floor of the square root. -/
def isqrt (n : Nat) : Nat := isqrtGo n (n.log2 / 2 + 1) 0

/-- `fsqrt` of a positive value, correctly rounded (R357). -/
def sqrtRound (m : Rnd) (ftz : Bool) (n : Nat) (e : Int) : Nat × Word :=
  -- n * 2^e = k * 2^(2 g), with k of at least 60 bits
  let g := (e - 64) / 2
  let k := n * 2 ^ (e - 2 * g).toNat
  let r := isqrt k
  if r * r = k then fp32.round m ftz false false r 1 g
  else fp32.round m ftz false false (2 * r + 1) 2 g

/-- Odd part and power of two of a number above zero. -/
def splitTwo : Nat → Nat → Int → Nat × Int
  | 0, n, e => (n, e)
  | k + 1, n, e => if n % 2 = 0 then splitTwo k (n / 2) (e + 1) else (n, e)

/-- `frcp` of a finite nonzero value (Table 16.4). -/
def rcpChoose (ftz neg : Bool) (n : Nat) (e : Int) (pick : Nat) : Nat × Word :=
  let o := splitTwo 24 n e
  let exact := fp32.round .rne ftz false neg 1 n (-e)
  if o.1 = 1 ∧ -o.2 ≥ -126 then exact
  else
    let u := fp32.ulp 1 n (-e)
    -- 1/n * 2^-e plus or minus 2^u, in units of 2^(min (-e) u) / n
    let b := min (-e) u
    let one : Int := 2 ^ (-e - b).toNat
    let dlt : Int := Int.ofNat n * 2 ^ (u - b).toNat
    let r := fp32.codeRange (one - dlt) (one + dlt) n b
    let y := fp32.chosen ftz neg (decide (ilog 1 n (-e) < -126)) r pick
    -- an exact result of a power of two below the normal range raises no flag
    if o.1 = 1 ∧ y.1 = (fp32.round .rne false false neg 1 n (-e)).1 ∧ ¬ftz then (y.1, exact.2) else y

/-- A result within `k` ulp of a positive value of which lo * 2^e and hi * 2^e are bounds. -/
def ulpChoose (ftz : Bool) (k : Nat) (lo hi : Int) (e : Int) (tiny : Bool) (pick : Nat) : Nat × Word :=
  let u := fp32.ulp (max lo 1).toNat 1 e
  -- units of 2^(min e u)
  let b := min e u
  let sc : Int := 2 ^ (e - b).toNat
  let d : Int := Int.ofNat k * 2 ^ (u - b).toNat
  fp32.chosen ftz false tiny (fp32.codeRange (hi * sc - d) (lo * sc + d) 1 b) pick

/-- `frsq` of a positive value (Table 16.4). -/
def rsqChoose (ftz : Bool) (n : Nat) (e : Int) (pick : Nat) : Nat × Word :=
  let o := splitTwo 24 n e
  if o.1 = 1 ∧ o.2 % 2 = 0 then fp32.round .rne ftz false false 1 1 (-o.2 / 2)
  else
    -- 1 / sqrt (n * 2^e) = sqrt (2^(2p) / n') * 2^-(p+g), n * 2^e = n' * 2^(2g)
    let g := e / 2
    let n' := n * 2 ^ (e - 2 * g).toNat
    let r := isqrt (2 ^ 240 / n')
    ulpChoose ftz 2 (Int.ofNat r - 1) (Int.ofNat r + 2) (-120 - g) false pick

/-- `fex2` of a finite nonzero value (Table 16.4). -/
def ex2Choose (ftz neg : Bool) (n : Nat) (e : Int) (pick : Nat) : Nat × Word :=
  if leScaled 256 0 n e then
    (if neg then fp32.chosen ftz false true (0, 2) pick else (fp32.maxCode + 1, fOF ||| fNX))
  else
    let x := if neg then -toFix n e else toFix n e
    let k := x / fixOne
    let f := x % fixOne
    if f = 0 ∧ (0 ≤ e ∨ n % 2 ^ (-e).toNat = 0) then
      (if -149 ≤ k then fp32.round .rne ftz false false 1 1 k else fp32.chosen ftz false true (0, 2) pick)
    else
      let y := fixExp (fixMul f fixLn2)
      -- 2^f is no less than 1, which settles its ulp
      ulpChoose ftz 2 (max fixOne (y - fixSlack)) (y + fixSlack) (k - fixP) (decide (k < -126)) pick

/-- `flg2` of a positive value (Table 16.4). -/
def lg2Choose (ftz : Bool) (n : Nat) (e : Int) (pick : Nat) : Nat × Word :=
  let o := splitTwo 24 n e
  if o.1 = 1 then fp32.ofInt .rne ftz false o.2
  else
    let k := ilog n 1 e
    let m := fixLn n (2 ^ n.log2)
    let y := k * fixOne + m * fixOne / fixLn2
    let near := leScaled n e 2 0 && leScaled 1 (-1) n e
    let u := fp32.ulp y.natAbs 1 (-Int.ofNat fixP)
    let d : Int := if near then 2 ^ (fixP - 22) else 2 * 2 ^ (u + fixP).toNat
    chosenBetween ftz false (y - d + fixSlack) (y + d - fixSlack) pick

/-- `fsin` and `fcos` of a finite nonzero value (Table 16.4). -/
def sinChoose (ftz cosine neg : Bool) (n : Nat) (e : Int) (pick : Nat) : Nat × Word :=
  let tiny := !cosine && decide (ilog n 1 e < -126)
  if !leScaled n e 1024 0 then chosenBetween ftz tiny (-fixOne) fixOne pick
  else
    let x := if neg then -toFix n e else toFix n e
    let z := (if cosine then x + fixPi / 2 else x) % (2 * fixPi)
    let y := fixSin (z - fixPi)
    let d : Int := 2 ^ (fixP - 21) - fixSlack
    chosenBetween ftz tiny (-y - d) (-y + d) pick

/-- `ftanh` of a finite nonzero value (Table 16.4). -/
def tanhChoose (ftz neg : Bool) (n : Nat) (e : Int) (pick : Nat) : Nat × Word :=
  if leScaled 16 0 n e then (fp32.sign neg 0x3F800000, fNX)
  else
    -- e^(2x) = 2^k * e^f
    let x2 := 2 * toFix n e
    let k := x2 / fixLn2
    let w := fixExp (x2 % fixLn2) * 2 ^ k.toNat
    let y := (w - fixOne) * fixOne / (w + fixOne)
    let d : Int := 2 ^ (fixP - 20) - fixSlack
    let y := if neg then -y else y
    chosenBetween ftz (decide (ilog n 1 e < -126)) (y - d) (y + d) pick

/-- `drcpa` (R358): within 2^-23 of 1/x, relatively, where a finite result is; it sets no flag but DZ and NV. -/
def rcpaChoose (ftz : Bool) (x pick : Nat) : Nat × Word :=
  match fp64.read ftz x with
  | .nan g => (fp64.nan, flagIf g fNV)
  | .inf neg => (fp64.sign neg 0, 0)
  | .fin neg n e =>
    if n = 0 then (fp64.sign neg (fp64.maxCode + 1), fDZ)
    else if leScaled 1 1022 n e then (fp64.sign neg 0, 0)
    else
      let r := fp64.codeRange (2 ^ 23 - 1) (2 ^ 23 + 1) n (-e - 23)
      let r := if r.1 ≤ fp64.maxCode then (r.1, min r.2 fp64.maxCode) else r
      ((fp64.chosen ftz neg false r pick).1, 0)

end Sys2Proof.Machine
end

