-- ==== Sys2Proof/Machine/FloatOps.lean ====
section
/-! DEFINITION. Floating-point, conversion and block-scaling instructions (R353-R367). -/

namespace Sys2Proof.Machine

-- ## Operand forms

/-- An FP32 operand after FTZ and inversion (R352). -/
def Thread.f32 (t : Thread) (ftz n : Bool) (r : VReg) : FVal := (fp32.read ftz (t.rv r).toNat).neg n
/-- An FP64 operand after FTZ and inversion. -/
def Thread.f64 (t : Thread) (ftz n : Bool) (r : VReg) : FVal := (fp64.read ftz (t.pair r).toNat).neg n
/-- Half `k` of a packed operand after FTZ and inversion (R359). -/
def Thread.f16 (t : Thread) (f : FpFmt) (ftz n : Bool) (r : VReg) (k : Nat) : FVal :=
  (f.read ftz ((t.rv r).extractLsb' (16 * k) 16).toNat).neg n
/-- Type of a packed instruction (R359). -/
def packFmt (x : Bool) : FpFmt := if x then bf16 else fp16

/-- A result in one register with its flags. -/
def outF (d : VReg) (r : Nat × Word) : LaneOut := { v := [(d.toNat, BitVec.ofNat 32 r.1)], fl := r.2 }
/-- A result in a pair with its flags. -/
def outD (d : VReg) (r : Nat × Word) : LaneOut :=
  { v := [(d.toNat, BitVec.ofNat 32 r.1), (d.toNat + 1, BitVec.ofNat 32 (r.1 / 2 ^ 32))], fl := r.2 }
/-- Two packed results: the flags of both (R351). -/
def outP2 (d : VReg) (lo hi : Nat × Word) : LaneOut :=
  { v := [(d.toNat, BitVec.ofNat 32 (lo.1 + hi.1 * 2 ^ 16))], fl := lo.2 ||| hi.2 }

-- ## Arithmetic (R353-R356)

/-- FADD (R353). -/
def execFadd (h : Head) (m : FpMod) (vd va vb : VReg) (s : State) : Host.Outcome State Fault Refusal :=
  laneWord (.fadd h m vd va vb) h s (fun t =>
    outF vd (fp32.add (rndOf m.rm) m.ftz (t.f32 m.ftz m.na va) (t.f32 m.ftz m.nb vb)))

/-- FSUB (R353). -/
def execFsub (h : Head) (m : FpMod) (vd va vb : VReg) (s : State) : Host.Outcome State Fault Refusal :=
  laneWord (.fsub h m vd va vb) h s (fun t =>
    outF vd (fp32.add (rndOf m.rm) m.ftz (t.f32 m.ftz m.na va) (t.f32 m.ftz (!m.nb) vb)))

/-- FMUL (R353). -/
def execFmul (h : Head) (m : FpMod) (vd va vb : VReg) (s : State) : Host.Outcome State Fault Refusal :=
  laneWord (.fmul h m vd va vb) h s (fun t =>
    outF vd (fp32.mul (rndOf m.rm) m.ftz (t.f32 m.ftz m.na va) (t.f32 m.ftz m.nb vb)))

/-- FFMA (R353). -/
def execFfma (h : Head) (m : FpMod) (vd va vb vc : VReg) (s : State) : Host.Outcome State Fault Refusal :=
  laneWord (.ffma h m vd va vb vc) h s (fun t =>
    outF vd (fp32.fma (rndOf m.rm) m.ftz (t.f32 m.ftz m.na va) (t.f32 m.ftz m.nb vb) (t.f32 m.ftz m.nc vc)))

/-- FMIN (R354). -/
def execFmin (h : Head) (m : FpMod) (x : Bool) (vd va vb : VReg) (s : State) : Host.Outcome State Fault Refusal :=
  laneWord (.fmin h m x vd va vb) h s (fun t =>
    outF vd (fp32.minMax false x m.ftz (fp32.flip m.na (t.rv va).toNat) (fp32.flip m.nb (t.rv vb).toNat)))

/-- FMAX (R354). -/
def execFmax (h : Head) (m : FpMod) (x : Bool) (vd va vb : VReg) (s : State) : Host.Outcome State Fault Refusal :=
  laneWord (.fmax h m x vd va vb) h s (fun t =>
    outF vd (fp32.minMax true x m.ftz (fp32.flip m.na (t.rv va).toNat) (fp32.flip m.nb (t.rv vb).toNat)))

/-- FROUND (R355). -/
def execFround (h : Head) (m : FpMod) (x : Bool) (vd va : VReg) (s : State) : Host.Outcome State Fault Refusal :=
  laneWord (.fround h m x vd va) h s (fun t => outF vd (fp32.integral (rndOf m.rm) m.ftz x (t.rv va).toNat))

/-- FCLASS (R356). -/
def execFclass (h : Head) (ty : BitVec 2) (hi : Bool) (vd va : VReg) (s : State) :
    Host.Outcome State Fault Refusal :=
  laneWord (.fclass h ty hi vd va) h s (fun t =>
    let c := match ty.toNat with
      | 0 => fp32.classify (t.rv va).toNat
      | 1 => fp64.classify (t.pair va).toNat
      | 2 => fp16.classify ((t.rv va).extractLsb' (16 * hi.toNat) 16).toNat
      | _ => bf16.classify ((t.rv va).extractLsb' (16 * hi.toNat) 16).toNat
    out1 vd (1#32 <<< c))

/-- DADD (R353). -/
def execDadd (h : Head) (m : FpMod) (vd va vb : VReg) (s : State) : Host.Outcome State Fault Refusal :=
  laneWord (.dadd h m vd va vb) h s (fun t =>
    outD vd (fp64.add (rndOf m.rm) m.ftz (t.f64 m.ftz m.na va) (t.f64 m.ftz m.nb vb)))

/-- DMUL (R353). -/
def execDmul (h : Head) (m : FpMod) (vd va vb : VReg) (s : State) : Host.Outcome State Fault Refusal :=
  laneWord (.dmul h m vd va vb) h s (fun t =>
    outD vd (fp64.mul (rndOf m.rm) m.ftz (t.f64 m.ftz m.na va) (t.f64 m.ftz m.nb vb)))

/-- DFMA (R353). -/
def execDfma (h : Head) (m : FpMod) (vd va vb vc : VReg) (s : State) : Host.Outcome State Fault Refusal :=
  laneWord (.dfma h m vd va vb vc) h s (fun t =>
    outD vd (fp64.fma (rndOf m.rm) m.ftz (t.f64 m.ftz m.na va) (t.f64 m.ftz m.nb vb) (t.f64 m.ftz m.nc vc)))

/-- DMIN (R354). -/
def execDmin (h : Head) (m : FpMod) (x : Bool) (vd va vb : VReg) (s : State) : Host.Outcome State Fault Refusal :=
  laneWord (.dmin h m x vd va vb) h s (fun t =>
    outD vd (fp64.minMax false x m.ftz (fp64.flip m.na (t.pair va).toNat) (fp64.flip m.nb (t.pair vb).toNat)))

/-- DMAX (R354). -/
def execDmax (h : Head) (m : FpMod) (x : Bool) (vd va vb : VReg) (s : State) : Host.Outcome State Fault Refusal :=
  laneWord (.dmax h m x vd va vb) h s (fun t =>
    outD vd (fp64.minMax true x m.ftz (fp64.flip m.na (t.pair va).toNat) (fp64.flip m.nb (t.pair vb).toNat)))

-- ## Reciprocals, roots and transcendentals (R357, R358)

/-- An approximating instruction: NaN as Table 16.5, else `f` on the value, with the pick for its bits. -/
def approxWord (fn : Nat) (ftz : Bool) (d a : VReg) (f : FVal → Nat → Nat × Word) (t : Thread) : LaneOut :=
  match fp32.read ftz (t.rv a).toNat with
  | .nan g => outF d (fp32.nan, flagIf g fNV)
  | v => outF d (f v (Config.approx fn (t.rv a)))

/-- An infinity of FP32. -/
def inf32 (neg : Bool) : Nat := fp32.sign neg (fp32.maxCode + 1)

/-- `frcp` (Tables 16.4 and 16.5). -/
def rcpOf (ftz : Bool) (v : FVal) (pick : Nat) : Nat × Word :=
  match v with
  | .nan _ => (fp32.nan, 0)
  | .inf n => (fp32.sign n 0, 0)
  | .fin n k e => if k = 0 then (inf32 n, fDZ) else rcpChoose ftz n k e pick

/-- `frsq` (Tables 16.4 and 16.5). -/
def rsqOf (ftz : Bool) (v : FVal) (pick : Nat) : Nat × Word :=
  match v with
  | .nan _ => (fp32.nan, 0)
  | .inf n => if n then (fp32.nan, fNV) else (0, 0)
  | .fin n k e => if k = 0 then (inf32 n, fDZ) else if n then (fp32.nan, fNV) else rsqChoose ftz k e pick

/-- `fsqrt` (Table 16.5). -/
def sqrtOf (m : Rnd) (ftz : Bool) (v : FVal) : Nat × Word :=
  match v with
  | .nan _ => (fp32.nan, 0)
  | .inf n => if n then (fp32.nan, fNV) else (inf32 false, 0)
  | .fin n k e => if k = 0 then (fp32.sign n 0, 0) else if n then (fp32.nan, fNV) else sqrtRound m ftz k e

/-- `fex2` (Tables 16.4 and 16.5). -/
def ex2Of (ftz : Bool) (v : FVal) (pick : Nat) : Nat × Word :=
  match v with
  | .nan _ => (fp32.nan, 0)
  | .inf n => if n then (0, 0) else (inf32 false, 0)
  | .fin n k e => if k = 0 then (0x3F800000, 0) else ex2Choose ftz n k e pick

/-- `flg2` (Tables 16.4 and 16.5). -/
def lg2Of (ftz : Bool) (v : FVal) (pick : Nat) : Nat × Word :=
  match v with
  | .nan _ => (fp32.nan, 0)
  | .inf n => if n then (fp32.nan, fNV) else (inf32 false, 0)
  | .fin n k e => if k = 0 then (inf32 true, fDZ) else if n then (fp32.nan, fNV) else lg2Choose ftz k e pick

/-- `fsin` and `fcos` (Tables 16.4 and 16.5). -/
def sinOf (ftz cosine : Bool) (v : FVal) (pick : Nat) : Nat × Word :=
  match v with
  | .nan _ => (fp32.nan, 0)
  | .inf _ => (fp32.nan, fNV)
  | .fin n k e =>
    if k = 0 then (if cosine then 0x3F800000 else fp32.sign n 0, 0) else sinChoose ftz cosine n k e pick

/-- `ftanh` (Tables 16.4 and 16.5). -/
def tanhOf (ftz : Bool) (v : FVal) (pick : Nat) : Nat × Word :=
  match v with
  | .nan _ => (fp32.nan, 0)
  | .inf n => (fp32.sign n 0x3F800000, 0)
  | .fin n k e => if k = 0 then (fp32.sign n 0, 0) else tanhChoose ftz n k e pick

/-- FRCP (R357). -/
def execFrcp (h : Head) (ftz : Bool) (vd va : VReg) (s : State) : Host.Outcome State Fault Refusal :=
  laneWord (.frcp h ftz vd va) h s (approxWord 0 ftz vd va (rcpOf ftz))

/-- FRSQ (R357). -/
def execFrsq (h : Head) (ftz : Bool) (vd va : VReg) (s : State) : Host.Outcome State Fault Refusal :=
  laneWord (.frsq h ftz vd va) h s (approxWord 1 ftz vd va (rsqOf ftz))

/-- FSQRT (R357). -/
def execFsqrt (h : Head) (rm : BitVec 2) (ftz : Bool) (vd va : VReg) (s : State) :
    Host.Outcome State Fault Refusal :=
  laneWord (.fsqrt h rm ftz vd va) h s (approxWord 2 ftz vd va (fun v _ => sqrtOf (rndOf rm) ftz v))

/-- FEX2 (R357). -/
def execFex2 (h : Head) (ftz : Bool) (vd va : VReg) (s : State) : Host.Outcome State Fault Refusal :=
  laneWord (.fex2 h ftz vd va) h s (approxWord 3 ftz vd va (ex2Of ftz))

/-- FLG2 (R357). -/
def execFlg2 (h : Head) (ftz : Bool) (vd va : VReg) (s : State) : Host.Outcome State Fault Refusal :=
  laneWord (.flg2 h ftz vd va) h s (approxWord 4 ftz vd va (lg2Of ftz))

/-- FSIN (R357). -/
def execFsin (h : Head) (ftz : Bool) (vd va : VReg) (s : State) : Host.Outcome State Fault Refusal :=
  laneWord (.fsin h ftz vd va) h s (approxWord 5 ftz vd va (sinOf ftz false))

/-- FCOS (R357). -/
def execFcos (h : Head) (ftz : Bool) (vd va : VReg) (s : State) : Host.Outcome State Fault Refusal :=
  laneWord (.fcos h ftz vd va) h s (approxWord 6 ftz vd va (sinOf ftz true))

/-- FTANH (R357). -/
def execFtanh (h : Head) (ftz : Bool) (vd va : VReg) (s : State) : Host.Outcome State Fault Refusal :=
  laneWord (.ftanh h ftz vd va) h s (approxWord 7 ftz vd va (tanhOf ftz))

/-- DRCPA (R358). -/
def execDrcpa (h : Head) (ftz : Bool) (vd va : VReg) (s : State) : Host.Outcome State Fault Refusal :=
  laneWord (.drcpa h ftz vd va) h s (fun t =>
    outD vd (rcpaChoose ftz (t.pair va).toNat (Config.drcpa (t.pair va))))

-- ## Packed pairs (R359)

/-- PADD2 (R359). -/
def execPadd2 (h : Head) (m : FpMod) (x : Bool) (vd va vb : VReg) (s : State) : Host.Outcome State Fault Refusal :=
  laneWord (.padd2 h m x vd va vb) h s (fun t =>
    let f := packFmt x
    let half (k : Nat) := f.add (rndOf m.rm) m.ftz (t.f16 f m.ftz m.na va k) (t.f16 f m.ftz m.nb vb k)
    outP2 vd (half 0) (half 1))

/-- PMUL2 (R359). -/
def execPmul2 (h : Head) (m : FpMod) (x : Bool) (vd va vb : VReg) (s : State) : Host.Outcome State Fault Refusal :=
  laneWord (.pmul2 h m x vd va vb) h s (fun t =>
    let f := packFmt x
    let half (k : Nat) := f.mul (rndOf m.rm) m.ftz (t.f16 f m.ftz m.na va k) (t.f16 f m.ftz m.nb vb k)
    outP2 vd (half 0) (half 1))

/-- PFMA2 (R359). -/
def execPfma2 (h : Head) (m : FpMod) (x : Bool) (vd va vb vc : VReg) (s : State) :
    Host.Outcome State Fault Refusal :=
  laneWord (.pfma2 h m x vd va vb vc) h s (fun t =>
    let f := packFmt x
    let half (k : Nat) := f.fma (rndOf m.rm) m.ftz (t.f16 f m.ftz m.na va k) (t.f16 f m.ftz m.nb vb k)
      (t.f16 f m.ftz m.nc vc k)
    outP2 vd (half 0) (half 1))

/-- PDOT2 (R359): the exact sum of two products and the FP32 value in vc, rounded once. FTZ applies to
the 16-bit operands and to the result. -/
def execPdot2 (h : Head) (m : FpMod) (x : Bool) (vd va vb vc : VReg) (s : State) :
    Host.Outcome State Fault Refusal :=
  laneWord (.pdot2 h m x vd va vb vc) h s (fun t =>
    let f := packFmt x
    let p := (t.f16 f m.ftz m.na va 0).mul (t.f16 f m.ftz m.nb vb 0)
    let q := (t.f16 f m.ftz m.na va 1).mul (t.f16 f m.ftz m.nb vb 1)
    outF vd (fp32.sum (rndOf m.rm) m.ftz (p.2 || q.2) [p.1, q.1, t.f32 false m.nc vc]))

-- ## Compares (R360)

/-- FSETP (R360). -/
def execFsetp (h : Head) (cond : BitVec 4) (ftz : Bool) (cmb : BitVec 2) (pd pc : PReg) (va vb : VReg)
    (s : State) : Host.Outcome State Fault Refusal :=
  laneWord (.fsetp h cond ftz cmb pd pc va vb) h s (fun t =>
    let c := condFloat cond.toNat (t.f32 ftz false va) (t.f32 ftz false vb)
    { p := [(pd.toNat, combine cmb (t.pred pc.toNat) c.1)], fl := c.2 })

/-- DSETP (R360). -/
def execDsetp (h : Head) (cond : BitVec 4) (ftz : Bool) (cmb : BitVec 2) (pd pc : PReg) (va vb : VReg)
    (s : State) : Host.Outcome State Fault Refusal :=
  laneWord (.dsetp h cond ftz cmb pd pc va vb) h s (fun t =>
    let c := condFloat cond.toNat (t.f64 ftz false va) (t.f64 ftz false vb)
    { p := [(pd.toNat, combine cmb (t.pred pc.toNat) c.1)], fl := c.2 })

-- ## Conversions (R361-R365)

/-- The value of `bits` bits at a position of a register, or of a pair (R361). -/
def Thread.at (t : Thread) (bits pos : Nat) (r : VReg) : Nat :=
  if bits = 64 then (t.pair r).toNat else (t.rv r).toNat / 2 ^ (bits * pos) % 2 ^ bits

/-- A register with `bits` bits at a position replaced (R361). -/
def mergeAt (x : Word) (bits pos y : Nat) : Word :=
  let m := BitVec.ofNat 32 ((2 ^ bits - 1) * 2 ^ (bits * pos))
  (x &&& ~~~m) ||| (BitVec.ofNat 32 (y % 2 ^ bits * 2 ^ (bits * pos)))

/-- A result of `bits` bits at a position of the destination (R361). -/
def Thread.outAt (t : Thread) (d : VReg) (bits pos : Nat) (r : Nat × Word) : LaneOut :=
  if bits = 64 then outD d r
  else { v := [(d.toNat, mergeAt (t.rv d) bits pos r.1)], fl := r.2 }

/-- Rounding of a slot for a thread, and the LFSR after its draw (R299, R365). -/
def slotRnd (w : Dword) (t : Thread) : Rnd × Option Word :=
  match slotRND w with
  | 0 => (.rne, none)
  | 1 => (.rtz, none)
  | _ => (.sr (drawOf (lfsrDraw t.lfsr)), some (lfsrDraw t.lfsr))

/-- A conversion: rounding and saturation from the word, or from a format slot (R365). -/
def convWord (i : Instr) (h : Head) (s : State) (c : CvtFields)
    (f : Thread → Rnd → Bool → LaneOut) : Host.Outcome State Fault Refusal :=
  issue i h s (fun x =>
    let w := x.fslot c.fslot
    .ok (x.put (x.q.laneWrite x.lanes (fun _ t =>
      if c.fs then
        let r := slotRnd w t
        { f t r.1 (w.getLsbD 9) with lfsr := r.2 }
      else f t (rndOf c.rm) c.sat))))

/-- CVTF (R363). -/
def execCvtf (h : Head) (c : CvtFields) (vd va : VReg) (s : State) : Host.Outcome State Fault Refusal :=
  convWord (.cvtf h c vd va) h s c (fun t m sat =>
    let src := fmtOf c.sel.toNat
    let dst := fmtOf c.ff.toNat
    t.outAt vd dst.bits c.dpos.toNat (cvtFloat src dst m c.ftz sat (t.at src.bits c.spos.toNat va)))

/-- CVTI (R364). -/
def execCvti (h : Head) (c : CvtFields) (vd va : VReg) (s : State) : Host.Outcome State Fault Refusal :=
  convWord (.cvti h c vd va) h s c (fun t m _ =>
    let src := fmtOf c.ff.toNat
    let it := c.sel.toNat
    let r := (src.read c.ftz (t.at src.bits c.spos.toNat va)).toInt m 1 0 (intLo it) (intHi it)
    t.outAt vd (intBits it) c.dpos.toNat ((BitVec.ofInt 64 r.1).toNat, r.2))

/-- An integer of a type code read from its bits. -/
def intRead (it x : Nat) : Int :=
  if it % 2 = 1 ∨ x < 2 ^ (intBits it - 1) then Int.ofNat x else Int.ofNat x - 2 ^ intBits it

/-- CVTIF (R364). -/
def execCvtif (h : Head) (c : CvtFields) (vd va : VReg) (s : State) : Host.Outcome State Fault Refusal :=
  convWord (.cvtif h c vd va) h s c (fun t m sat =>
    let dst := fmtOf c.ff.toNat
    let it := c.sel.toNat
    t.outAt vd dst.bits c.dpos.toNat
      (dst.ofInt m c.ftz sat (intRead it (t.at (intBits it) c.spos.toNat va))))

-- ## Block scaling (R366, R367)

/-- The larger of two finite magnitudes. -/
def maxMag (a b : Nat × Int) : Nat × Int := if leScaled a.1 a.2 b.1 b.2 then b else a

/-- The shared scale of a block of FP32 encodings for an element format (R297). -/
def blockScale (ef : Nat) (xs : List Nat) : Nat :=
  let vs := xs.map (fp32.read false)
  if vs.any (fun v => v.isNan || v.isInf) then 0x3FC
  else
    let amax := vs.foldl (fun a v => match v with
      | .fin _ n e => maxMag a (n, e)
      | _ => a) (0, 0)
    let top : Nat × Int := if ef = 0 then (127, 0) else
      match (fmtOf ef).read false (fmtOf ef).maxCode with
      | .fin _ n e => (n, e)
      | _ => (0, 0)
    s10For amax.1 amax.2 top.1 top.2

/-- One element of a block: the exact quotient x / s converted (R297). -/
def blockElem (ef sc : Nat) (m : Rnd) (ftz sat : Bool) (x : Nat) : Nat × Word :=
  if s10Nan sc then (0, fNV)
  else
    let v := fp32.read false x
    if ef = 0 then
      let r := v.toInt m (s10Num sc) (-s10Exp sc) (-128) 127
      ((BitVec.ofInt 8 r.1).toNat, r.2)
    else match v with
      | .fin neg n e => (fmtOf ef).round m ftz sat neg n (s10Num sc) (e - s10Exp sc)
      | _ => (0, fNV)

/-- MXPACK (R366): PARAM for a slot or a position that does not serve; else a block with its scale. -/
def execMxpack (h : Head) (dpos : BitVec 3) (hi : Bool) (fslot : BitVec 3) (vd va vb : VReg) (s : State) :
    Host.Outcome State Fault Refusal :=
  issue (.mxpack h dpos hi fslot vd va vb) h s (fun x =>
    let w := x.fslot fslot
    let ef := slotEF w
    if ¬(ef = 0 ∨ ef = 2 ∨ ef = 3 ∨ ef = 4) ∨ (ef ≠ 4 ∧ 4 ≤ dpos.toNat) then .trap .param x.lanes 0 0
    else
      let sc := blockScale ef ((lanesOf x.lanes).map (fun i => ((x.q.th i).rv va).toNat))
      .ok (x.put (x.q.laneWrite x.lanes (fun _ t =>
        let r := slotRnd w t
        let y := blockElem ef sc r.1 false (w.getLsbD 9) (t.rv va).toNat
        let vdx := mergeAt (t.rv vd) (fmtBits ef) dpos.toNat y.1
        let old := if vb = vd then vdx else t.rv vb
        let m : Word := if hi then 0x03FF0000 else 0x000003FF
        let vbx := (old &&& ~~~m) ||| (BitVec.ofNat 32 sc <<< (if hi then 16 else 0))
        { v := [(vd.toNat, vdx), (vb.toNat, vbx)], fl := y.2, lfsr := r.2 }))))

/-- MXUNPACK (R367): element times scale, rounded once to FP32. -/
def execMxunpack (h : Head) (fmt : BitVec 4) (rm : BitVec 2) (ftz : Bool) (spos : BitVec 3) (hi : Bool)
    (vd va vb : VReg) (s : State) : Host.Outcome State Fault Refusal :=
  laneWord (.mxunpack h fmt rm ftz spos hi vd va vb) h s (fun t =>
    let ef := fmt.toNat
    let e := t.at (fmtBits ef) spos.toNat va
    let sc := ((t.rv vb).extractLsb' (16 * hi.toNat) 10).toNat
    let v := if ef = 0 then
        (if e < 128 then FVal.fin false e 0 else FVal.fin true (256 - e) 0)
      else (fmtOf ef).read false e
    match v with
    | .nan g => outF vd (fp32.nan, flagIf g fNV)
    | .inf n => if s10Nan sc then outF vd (fp32.nan, 0) else outF vd (inf32 n, 0)
    | .fin n k d =>
      if s10Nan sc then outF vd (fp32.nan, 0)
      else outF vd (fp32.round (rndOf rm) ftz false n (k * s10Num sc) 1 (d + s10Exp sc)))

end Sys2Proof.Machine
end

