-- ==== Sys2Proof/Machine/Aligned.lean ====
section
/-! DEFINITION. Bank cells and their protection (R211, R218), aligned forms (Table 9.2, R221, R222) and the
conversion of a block into aligned form (R301, R303). -/

namespace Sys2Proof.Machine

-- ## Forms (Table 9.2)

/-- Outputs per column group. -/
def formOpg (ef : Nat) : Nat := 120 / formW ef
/-- Key vectors of a bank. -/
def formKeys (ef : Nat) : Nat :=
  if ef = 4 then 12 else if ef = 5 ∨ ef = 6 then 5 else if ef = 7 then 2 else if ef = 8 then 1 else 8
/-- FORM code of a layout (Table 4.14). -/
def formCode (ef : Nat) : Nat :=
  if ef = 4 then 1 else if ef = 5 ∨ ef = 6 then 3 else if ef = 7 then 4 else if ef = 8 then 5 else 2
/-- Smallest integer of a form (R220). -/
def formLo (ef : Nat) : Int := if ef = 9 then 0 else -2 ^ (formW ef - 1)
/-- Largest integer of a form (R220). -/
def formHi (ef : Nat) : Int := if ef = 9 then 255 else 2 ^ (formW ef - 1) - 1

-- ## Conversion of a block (R301)

/-- Reads an element code; the integer formats hold whole numbers. -/
def readElem (ef x : Nat) : FVal :=
  if ef = 0 then (if x < 128 then .fin false x 0 else .fin true (256 - x) 0)
  else if ef = 9 then .fin false x 0
  else (fmtOf ef).read false x

/-- |x| * sc < 2^-126, for an x that is finite and not zero (R301, R303). -/
def flushes (n : Nat) (e : Int) (sc : FVal) : Bool :=
  match sc with
  | .nan _ => false
  | .inf neg => neg
  | .fin neg m d => (neg && m != 0) || !leScaled 1 (-126) (n * m) (e + d)

/-- An element after the NaN, infinity and flush rules. -/
def cleanElem (fs : Dword) (sc : FVal) (v : FVal) : Nat × Int × Bool :=
  match v with
  | .fin neg n e =>
    if fs.getLsbD 8 && slotEF fs != 0 && slotEF fs != 9 && n != 0 && flushes n e sc then (0, 0, false) else (n, e, neg)
  | _ => (0, 0, false)

/-- Alignment exponent of a block (R301). -/
def blockAln (ef : Nat) (xs : List (Nat × Int × Bool)) : Int :=
  if ef = 0 ∨ ef = 9 then 0
  else if ef = 4 then -1
  else
    let us := (xs.filter (fun x => x.1 != 0)).map (fun x => x.2.1 + Int.ofNat (fmtOf ef).t)
    (match us with
      | [] => 0
      | u :: rest => rest.foldl max u) - (Int.ofNat (formW ef) - 2)

/-- The aligned form of a block: integers, ALN, NAN (R301). -/
def alignBlock (fs : Dword) (sc : FVal) (rnds : List Rnd) (codes : List Nat) : List Int × Int × Bool :=
  let ef := slotEF fs
  let vs := codes.map (readElem ef)
  let nan := vs.any (fun v => v.isNan || v.isInf)
  let xs := vs.map (cleanElem fs sc)
  let aln := blockAln ef xs
  let q := (xs.zip rnds).map (fun p =>
    ((FVal.fin p.1.2.2 p.1.1 p.1.2.1).toInt p.2 1 (-aln) (formLo ef) (formHi ef)).1)
  (q, aln, nan)

/-- The scale that governs a block under its slot: none, per tensor, or an S10 (R301). -/
def scaleOf (fs : Dword) (bs : Nat) : FVal :=
  if slotSM fs = 0 then .fin false 1 0
  else if slotSM fs = 2 then fp32.read false (fs.extractLsb' 16 32).toNat
  else if s10Nan bs then .nan false
  else .fin false (s10Num bs) (s10Exp bs)

/-- Roundings of `n` elements from an LFSR state, and the state behind them (R299, R300). -/
def drawMany (fs : Dword) : Nat → Word → List Rnd × Word
  | 0, s => ([], s)
  | n + 1, s =>
    match slotRND fs with
    | 0 => (List.replicate (n + 1) .rne, s)
    | 1 => (List.replicate (n + 1) .rtz, s)
    | _ =>
      let s := lfsrDraw s
      let r := drawMany fs n s
      (.sr (drawOf s) :: r.1, r.2)

-- ## Cells

/-- Bits [lo + n - 1 : lo] of a number replaced. -/
def replaceBits (x lo n v : Nat) : Nat := x - bitsOf x lo n * 2 ^ lo + v % 2 ^ n * 2 ^ lo

/-- `n` bytes of a bank from a byte offset. -/
def Bank.bytes (b : Bank) (off n : Nat) : List Byte := b.cells.getMany 0 off n
/-- A row as a number: bit c is column c (R211). -/
def Bank.row (b : Bank) (r : Nat) : Nat := leNat (b.bytes (128 * r) 128)
/-- The bank with a row replaced. -/
def Bank.setRow (b : Bank) (r x : Nat) : Bank := { b with cells := b.cells.setMany (128 * r) (toLe 128 x) }

/-- Bytes of row group g within a row: its key byte and its column group (R218). -/
def groupBytes (g : Nat) : List Nat := g :: (List.range 15).map (fun k => 8 + 15 * g + k)
/-- Row group of a byte of a row. -/
def groupOf (k : Nat) : Nat := if k < 8 then k else (k - 8) / 15

/-- Bytes written into a bank. A storage word written whole has its check bits right again (R24), and so has
a row group written whole its parity. -/
def Bank.write (b : Bank) (off : Nat) (bs : List Byte) : Bank :=
  let n := bs.length
  let inside (a : Nat) : Bool := decide (off ≤ a) && decide (a < off + n)
  { b with
    cells := b.cells.setMany off bs,
    badW := b.badW.filter (fun w => !((List.range 8).all (fun k => inside (8 * w + k)))),
    badG := b.badG.filter (fun g => !((groupBytes (g % 8)).all (fun k => inside (128 * (g / 8) + k)))) }

/-- The bank is protected by word (storage) rather than by row group (R218). -/
def Bank.byWord (b : Bank) : Bool := b.mode == .storage || b.mode == .toComp

/-- A storage word or row group with an error holds one of some bytes (R275). -/
def Bank.badIn (b : Bank) (off n : Nat) : Bool :=
  (List.range n).any (fun k =>
    let a := off + k
    if b.byWord then b.badW.contains (a / 8) else b.badG.contains (8 * (a / 128) + groupOf (a % 128)))

/-- Column of output n of a form (R222). -/
def outCol (ef n : Nat) : Nat := 64 + 120 * (n / formOpg ef) + formW ef * (n % formOpg ef)

/-- The bank with elements written at a column of the rows of a block (R221, R222). -/
def Bank.putCol (b : Bank) (blk col w : Nat) (q : List Int) : Bank :=
  (q.zip (List.range 32)).foldl (fun b p =>
    b.setRow (32 * blk + p.2) (replaceBits (b.row (32 * blk + p.2)) col w ((p.1 % 2 ^ w).toNat))) b

/-- Key-scale entry (v, blk) with ALN and NAN written, BS kept (R223). -/
def Bank.putAln (b : Bank) (v blk : Nat) (aln : Int) (nan : Bool) : Bank :=
  let e := (b.kscale.get 0 (32 * v + blk)).toNat % 2 ^ 10
  let x := BitVec.ofNat 32 (e + ((aln % 4096).toNat) * 2 ^ 12 + nan.toNat * 2 ^ 24)
  { b with kscale := b.kscale.set (32 * v + blk) x }

/-- Converts a block into key vector v of a block of the bank (R221, R281, R416). -/
def Bank.putKey (b : Bank) (fs : Dword) (v blk : Nat) (rnds : List Rnd) (codes : List Nat) : Bank :=
  let bs := (b.kscale.get 0 (32 * v + blk)).toNat % 2 ^ 10
  let r := alignBlock fs (scaleOf fs bs) rnds codes
  let w := formW (slotEF fs)
  (b.putCol blk (w * v) w r.1).putAln v blk r.2.1 r.2.2

/-- Converts one output of a block of a weight matrix, with its scale-file entry (R279). -/
def Bank.putWeight (b : Bank) (fs : Dword) (blk n s10 : Nat) (rnds : List Rnd) (codes : List Nat) : Bank :=
  let ef := slotEF fs
  let r := alignBlock fs (scaleOf fs s10) rnds codes
  let b := b.putCol blk (outCol ef n) (formW ef) r.1
  let one := slotSM fs != 1
  let e : Nat := if one then 127 else s10 / 4 % 256
  let se := (Int.ofNat (2047 + e - 127) + r.2.1).toNat % 4096
  let nan := (!one && e == 255) || r.2.2
  let x := BitVec.ofNat 16 ((if one then 0 else s10 % 4) + se * 4 + nan.toNat * 2 ^ 14)
  { b with scale := b.scale.set (192 * blk + n) x }

end Sys2Proof.Machine
end

