-- ==== Sys2Proof/Machine/Assoc.lean ====
section
/-! DEFINITION. Associative arithmetic (R235-R246): fields, micro-operations, malformed microwords, the
built-in slots. -/

namespace Sys2Proof.Machine

-- ## Cells and fields (R211, R240)

/-- A cell of a bank. -/
def Bank.cell (b : Bank) (r c : Nat) : Bool := (b.cells.get 0 (128 * r + c % 1024 / 8)).getLsbD (c % 8)
/-- The bank with one cell written. -/
def Bank.setCell (b : Bank) (r c : Nat) (v : Bool) : Bank :=
  if b.cell r c = v then b
  else
    let a := 128 * r + c % 1024 / 8
    { b with cells := b.cells.set a (b.cells.get 0 a ^^^ (1#8 <<< (c % 8))) }

/-- The value of a field of `w` columns from a column on, wrapping past column 1023 (R240). -/
def Bank.field (b : Bank) (r c : Nat) : Nat → Nat
  | 0 => 0
  | w + 1 => b.field r c w + (b.cell r ((c + w) % 1024)).toNat * 2 ^ w

/-- The bank with a field written. -/
def Bank.setField (b : Bank) (r c w v : Nat) : Bank :=
  (List.range w).foldl (fun b k => b.setCell r ((c + k) % 1024) (v.testBit k)) b

/-- Tags of a row. -/
def Bank.tag (b : Bank) (r : Nat) : BitVec 4 := b.tags.get 0 r
/-- The bank with the tags of a row replaced. -/
def Bank.setTag (b : Bank) (r : Nat) (t : BitVec 4) : Bank :=
  if b.tag r = t then b else { b with tags := b.tags.set r t }
/-- Tags with bit `k` replaced. -/
def putTag (t : BitVec 4) (k : Nat) (v : Bool) : BitVec 4 := if v then t ||| (1#4 <<< k) else t &&& ~~~(1#4 <<< k)
/-- Rows of a bank. -/
def rowsOf : List Nat := List.range 1024

-- ## Microwords (R239, R243)

/-- Bits of a microword. -/
def mw (w : Dword) (lo n : Nat) : Nat := bitsOf w.toNat lo n
/-- OP of a microword. -/
def mwOp (w : Dword) : Nat := mw w 60 4

/-- A microword of the layouts of Tables 10.2 and 10.3 is well formed in a slot of `len` words (R243). -/
def wordOk (len : Nat) (w : Dword) : Bool :=
  let key := decide (mw w 41 8 < 2 ^ (mw w 49 3 + 1))
  let pat := decide (mw w 22 8 < 2 ^ (mw w 30 3 + 1))
  match mwOp w with
  | 0 => key && mw w 1 5 == 0 && (if mw w 0 1 = 1 then mw w 22 11 == 0 else pat)
  | 1 => key && mw w 22 19 == 0 && mw w 6 8 == 0 && mw w 0 1 == 0 && mw w 2 2 != 3
  | 2 => mw w 41 19 == 0 && mw w 0 6 == 0 && pat
  | 3 => mw w 0 50 == 0
  | 4 | 5 => mw w 22 38 == 0 && mw w 6 8 == 0 && mw w 0 4 == 0
  | 7 => mw w 0 27 == 0 && decide (mw w 51 8 < len) && (List.range 4).all (fun n => mw w (27 + 2 * n) 2 != 3)
  | 8 => mw w 0 60 == 0
  | _ => false

/-- A copy of a user slot is malformed (R243). -/
def badCopy (ws : List Dword) : Bool := ws.isEmpty || ws.any (fun w => !wordOk ws.length w)

-- ## Micro-operations (R241, R242)

/-- The tag condition of a row. -/
def tagCond (w : Dword) (t : BitVec 4) : Bool := mw w 18 4 &&& mw w 14 4 == t.toNat &&& mw w 14 4
/-- The field comparison of a row. -/
def Bank.matches (b : Bank) (m : Micro) (w : Dword) (r : Nat) : Bool :=
  b.field r (m.cp.getD (mw w 58 2) 0 + mw w 52 6) (mw w 49 3 + 1) == mw w 41 8

/-- CW and TW on a row (R241). -/
def Bank.writeRow (b : Bank) (m : Micro) (w : Dword) (hit : Bool) (r : Nat) : Bank :=
  if hit && tagCond w (b.tag r) then
    let src := mw w 0 1 = 1
    let pat := if src then m.lt.getD (mw w 41 8) 0 else mw w 22 8
    let ww := if src then m.lc.getD 1 0 % 8 + 1 else mw w 30 3 + 1
    let t := (List.range 4).foldl (fun t k => if (mw w 6 4).testBit k then putTag t k ((mw w 10 4).testBit k) else t) (b.tag r)
    (b.setField r (m.cp.getD (mw w 39 2) 0 + mw w 33 6) ww pat).setTag r t
  else b

/-- CT on a row (R241). -/
def Bank.compareRow (b : Bank) (m : Micro) (w : Dword) (r : Nat) : Bank :=
  let d := mw w 4 2
  let t := b.tag r
  let x := (b.matches m w r != (mw w 1 1 == 1)) && tagCond w t
  b.setTag r (putTag t d (match mw w 2 2 with
    | 0 => x
    | 1 => t.getLsbD d && x
    | _ => t.getLsbD d || x))

/-- TT on a row (R241). -/
def Bank.tableRow (b : Bank) (w : Dword) (r : Nat) : Bank :=
  let t := b.tag r
  let i := 2 * (t.getLsbD (mw w 56 2)).toNat + (t.getLsbD (mw w 54 2)).toNat
  b.setTag r (putTag t (mw w 58 2) ((mw w 50 4).testBit i))

/-- Rows that a tag condition holds in. -/
def Bank.tagged (b : Bank) (w : Dword) : List Nat := rowsOf.filter (fun r => tagCond w (b.tag r))

/-- A 4-bit increment of a pointer (Table 10.3). -/
def tinc (w : Dword) (n : Nat) : Int :=
  let x := mw w (47 - 4 * n) 4
  if x < 8 then x else Int.ofNat x - 16

/-- JMP (R242). -/
def Micro.jump (m : Micro) (w : Dword) : Micro :=
  let l := mw w 59 1
  let lc := m.lc.getD l 0
  if 1 < lc then
    { m with lc := m.lc.set l (lc - 1), ix := mw w 51 8,
             cp := (List.range 4).map (fun n => ((Int.ofNat (m.cp.getD n 0) + tinc w n) % 1024).toNat) }
  else
    let fact (n : Nat) : Nat := mw w (33 - 2 * n) 2
    let bp := (List.range 4).map (fun n => if fact n = 2 then (m.bp.getD n 0 + 1) % 1024 else m.bp.getD n 0)
    { m with lc := m.lc.set l (m.lr.getD l 0), ix := m.ix + 1, bp := bp,
             cp := (List.range 4).map (fun n => if fact n = 0 then m.cp.getD n 0 else bp.getD n 0) }

/-- One micro-operation but for JMP and END, on the bank and the result registers (R238, R241). -/
def microOp (b : Bank) (m : Micro) (w : Dword) : Bank × Micro :=
  match mwOp w with
  | 0 => (rowsOf.foldl (fun b r => b.writeRow m w (b.matches m w r) r) b, m)
  | 1 => (rowsOf.foldl (fun b r => b.compareRow m w r) b, m)
  | 2 => (rowsOf.foldl (fun b r => b.writeRow m w true r) b, m)
  | 3 => (rowsOf.foldl (fun b r => b.tableRow w r) b, m)
  | 4 => (b, { m with rv := m.rv.set (mw w 4 2) (b.tagged w).length })
  | 5 => (b, { m with rv := m.rv.set (mw w 4 2) ((b.tagged w).headD 1024) })
  | _ => (b, m)

/-- The next microword of a microprogram: the bank, the registers, and whether the program has ended. -/
def microStep (b : Bank) (m : Micro) : Bank × Micro × Bool :=
  let m := { m with xc := m.xc + 1 }
  match m.words[m.ix]? with
  | none => (b, m, true)
  | some w =>
    match mwOp w with
    | 7 => (b, m.jump w, false)
    | 8 => (b, m, true)
    | _ =>
      let (b, m) := microOp b m w
      (b, { m with ix := m.ix + 1 }, false)

/-- Largest number of micro-operations of a microprogram (R242). -/
def microCap : Nat := 65536

/-- Up to `n` micro-operations: the bank, the registers, and whether the program has ended. -/
def microRun : Nat → Bank → Micro → Bank × Micro × Bool
  | 0, b, m => (b, m, false)
  | n + 1, b, m =>
    if microCap ≤ m.xc then (b, m, false)
    else match microStep b m with
      | (b, m, true) => (b, m, true)
      | (b, m, false) => microRun n b m

-- ## Built-in slots given as microwords (R245, R246)

/-- A microword from fields (value, low bit). -/
def asm (fs : List (Nat × Nat)) : Dword := BitVec.ofNat 64 ((fs.map (fun f => f.1 * 2 ^ f.2)).sum)

/-- The four writes of the adding step on a pointer; `t3`: they test tg3 too (Table 10.5). -/
def addWrites (p : Nat) (t3 : Bool) : List Dword :=
  let one (key v : Nat) (tv tm : Nat) : Dword :=
    asm [(2, 60), (p, 39), (v, 22), (key + 8 * t3.toNat, 18), (7 + 8 * t3.toNat, 14), (tv, 10), (tm, 6)]
  [one 2 1 0 0, one 6 0 1 1, one 1 1 0 1, one 5 0 0 0]

/-- cx0 ADD and cx1 SUB (Table 10.5). -/
def addWords (sub : Bool) : List Dword :=
  [if sub then 0x303C000000000000 else 0x3000000000000000,
   if sub then 0x1000020000000012 else 0x1000020000000010, 0x1400020000000020] ++ addWrites 1 false
    ++ [0x7008880000000000, 0x8000000000000000]

/-- cx2 MUL as R246 lays it out. -/
def mulWords : List Dword :=
  [asm [(2, 60), (2, 39)],
   asm [(7, 60), (0, 59), (0, 51), (1, 39), (1, 29)],
   asm [(2, 60), (3, 39)],
   asm [(3, 60)],
   asm [(1, 60), (1, 58), (1, 41), (3, 4)],
   asm [(1, 60), (0, 58), (1, 41), (1, 4)],
   asm [(1, 60), (2, 58), (1, 41), (2, 4)]] ++ addWrites 2 true
    ++ [asm [(7, 60), (0, 59), (5, 51), (1, 47), (1, 39), (1, 33), (2, 29)],
        asm [(2, 60), (3, 39), (1, 22), (1, 18), (1, 14)],
        asm [(7, 60), (1, 59), (2, 51), (1, 43), (1, 35)],
        asm [(8, 60)]]

/-- The look-up words of cx3 and cx4 (R246). -/
def lutWords (w n : Nat) : List Dword :=
  (List.range n).map (fun k => asm [(0, 60), (w - 1, 49), (k, 41), (1, 39), (1, 0)])

/-- Microwords of the built-ins that the spec gives or lays out. -/
def builtinWords (cx : Nat) : Option (List Dword) :=
  match cx with
  | 0 => some (addWords false)
  | 1 => some (addWords true)
  | 2 => some mulWords
  | 3 => some (lutWords 4 16 ++ [asm [(8, 60)]])
  | 4 => some (lutWords 8 256)
  | _ => none

-- ## Built-in slots given by their effect (Table 10.4)

/-- Signed reading of a field. -/
def signedOf (w x : Nat) : Int := if x < 2 ^ (w - 1) then x else Int.ofNat x - 2 ^ w

/-- Columns of a field. -/
def colsOf (c w : Nat) : List Nat := (List.range w).map (fun k => (c + k) % 1024)
/-- Two fields share no column. -/
def apart (c w d v : Nat) : Bool := (colsOf c w).all (fun k => !(colsOf d v).contains k)

/-- A loop counter as a loop takes it: 0 runs once (R242). -/
def loops (n : Nat) : Nat := max 1 n

/-- Cycles of a built-in given by its effect (Table 10.4). -/
def builtinCycles (cx : Nat) (m : Micro) : Nat :=
  let a := loops (m.lc.getD 0 0)
  let b := loops (m.lc.getD 1 0)
  match cx with
  | 5 | 6 => 9 * b + 1
  | 7 => 5 * a + 3
  | 8 => 2 * a + 2
  | 9 => 5 * a + 2
  | 10 => 5 * (a + 1) + 1
  | 11 => 18 * b + 1
  | _ => 4 * (a + b) + 3 * a + 3

/-- The parameters of a built-in given by its effect meet the constraints of Table 10.4. -/
def builtinFits (cx : Nat) (m : Micro) : Bool :=
  let a := loops (m.lc.getD 0 0)
  let b := loops (m.lc.getD 1 0)
  let p (k : Nat) : Nat := m.cp.getD k 0
  match cx with
  | 5 | 6 | 11 => a + 1 == b
  | 7 | 8 => p 1 == (p 0 + a - 1) % 1024
  | 9 | 10 => true
  | _ => p 2 == (p 0 + a + b - 1) % 1024 && p 3 == (p 0 + a - 1) % 1024

/-- The field that a built-in given by its effect writes shares no column with another operand: what it only reads may
overlap. -/
def builtinApart (cx : Nat) (m : Micro) : Bool :=
  let a := loops (m.lc.getD 0 0)
  let b := loops (m.lc.getD 1 0)
  let p (k : Nat) : Nat := m.cp.getD k 0
  match cx with
  | 5 | 6 => apart (p 0) b (p 1) b
  | 7 | 8 | 9 | 10 => true
  | 11 => apart (p 0) b (p 1) b && apart (p 0) b (p 2) b
  | _ => apart (p 0) (a + b) (p 1) a

/-- That field: its first column and its width. -/
def builtinDest (cx : Nat) (m : Micro) : Nat × Nat :=
  let a := loops (m.lc.getD 0 0)
  let b := loops (m.lc.getD 1 0)
  match cx with
  | 5 | 6 => (m.cp.getD 1 0, b)
  | 7 | 8 => (m.cp.getD 0 0, a)
  | 11 => (m.cp.getD 0 0, b)
  | _ => (m.cp.getD 1 0, a)

/-- The effect on a row, and the value of tg0 when it is a result (Table 10.4). -/
def Bank.builtinRow (b : Bank) (cx : Nat) (m : Micro) (r : Nat) : Bank × Option Bool :=
  let x := loops (m.lc.getD 0 0)
  let y := loops (m.lc.getD 1 0)
  let p (k : Nat) : Nat := m.cp.getD k 0
  let val (k w : Nat) : Int := signedOf w (b.field r (p k) w)
  let put (k w : Nat) (v : Int) : Bank := b.setField r (p k) w ((v % 2 ^ w).toNat)
  match cx with
  | 5 => (put 1 y (min (val 0 y) (val 1 y)), some (decide (val 0 y < val 1 y)))
  | 6 => (put 1 y (max (val 0 y) (val 1 y)), some (decide (val 0 y < val 1 y)))
  | 7 => (put 0 x (if val 0 x < 0 then -(val 0 x) else val 0 x), none)
  | 8 => (put 0 x (max (val 0 x) 0), none)
  | 9 => (b, some (val 0 x == val 1 x))
  | 10 => (b, some (decide (val 0 (x + 1) < val 1 (x + 1))))
  | 11 => (put 0 y (min (max (val 0 y) (val 1 y)) (val 2 y)), none)
  | _ =>
    let v := clamp (val 0 (x + y)) (-2 ^ (x - 1)) (2 ^ (x - 1) - 1)
    (put 1 x v, some (v != val 0 (x + y)))

/-- Undefined values a built-in may take: a tag group and 128 bytes for each row, and the results. -/
def builtinUndefs : Nat := 1024 * 17 + 4

/-- Tags that are not results become undefined (R245). -/
def undefTags (base r : Nat) (t : Option Bool) : BitVec 4 :=
  let u := (Config.undef (base + r)).extractLsb' 0 4
  match t with
  | some v => putTag u 0 v
  | none => u

/-- The bank after a built-in given by its effect. Where the field it writes overlaps an operand, that field and the tags are
undefined, and outside the constraints the bank's cells, its tags and the results (R245): the words of these slots are not
listed. -/
def Bank.builtin (b : Bank) (cx : Nat) (m : Micro) (base : Nat) : Bank × Micro :=
  let m := { m with xc := builtinCycles cx m }
  let bytes (r : Nat) : List Byte := (List.range 16).flatMap (fun k => toLe 8 (Config.undef (base + 1024 + 16 * r + k)).toNat)
  if builtinFits cx m && builtinApart cx m then
    (rowsOf.foldl (fun b r =>
      let (b, t) := b.builtinRow cx m r
      b.setTag r (undefTags base r t)) b, m)
  else if builtinFits cx m then
    let d := builtinDest cx m
    (rowsOf.foldl (fun b r => (b.setField r d.1 d.2 (leNat (bytes r) % 2 ^ d.2)).setTag r (undefTags base r none)) b, m)
  else
    (rowsOf.foldl (fun b r => (({ b with cells := b.cells.setMany (128 * r) (bytes r) } : Bank)).setTag r (undefTags base r none)) b,
     { m with rv := (List.range 4).map (fun k => (Config.undef (base + 1024 * 17 + k)).toNat % 2 ^ 32) })

end Sys2Proof.Machine
end

