-- ==== Sys2Proof/Machine/Pass.lean ====
section
/-! DEFINITION. The matrix pass (R219, R226-R228), the column port (R233), key scales (R417), conversions of
protection (R218). -/

namespace Sys2Proof.Machine

/-- Rounds an exact sum to nearest even; an exact zero is +0 (R228). -/
def rneExact (f : FpFmt) (vs : List FVal) : Nat :=
  let lo := vs.foldl (fun l v => min l v.unit) ((vs.head?.map FVal.unit).getD 0)
  if vs.all (fun v => !v.isNan && !v.isInf) && sumUnits lo vs == 0 then 0 else (f.sum .rne false false vs).1

/-- Rounds an exact product to nearest even; an exact zero is +0 (R233). -/
def rneProduct (f : FpFmt) (a b : FVal) : Nat :=
  let p := a.mul b
  if p.2 then f.nan else rneExact f [p.1]

/-- Value of an aligned element: two's complement, unsigned for UINT8 (R220). -/
def formVal (ef x : Nat) : Int := if ef = 9 ∨ x < 2 ^ (formW ef - 1) then x else Int.ofNat x - 2 ^ formW ef

/-- Key element r of vector kv (R221). -/
def Bank.keyAt (b : Bank) (ef kv r : Nat) : Int := formVal ef (b.field r (formW ef * kv) (formW ef))
/-- Weight (r, n) (R222). -/
def Bank.weightAt (b : Bank) (ef r n : Nat) : Int := formVal ef (b.field r (outCol ef n) (formW ef))

/-- The block integer of a block and an output: the planes of R227 summed give the dot product of the
elements' integers. -/
def Bank.blockInt (b : Bank) (ef kv blk n : Nat) : Int :=
  ((List.range 32).map (fun k => b.keyAt ef kv (32 * blk + k) * b.weightAt ef (32 * blk + k) n)).sum

/-- The term t of a block and an output (R228). -/
def Bank.term (b : Bank) (fs : Dword) (kv blk n : Nat) : FVal :=
  let ks := (b.kscale.get 0 (32 * kv + blk)).toNat
  let se := (b.scale.get 0 (192 * blk + n)).toNat
  let one := slotSM fs = 1
  let fa := if one then bitsOf ks 0 2 else 0
  let aln := bitsOf ks 12 12
  let ea : Int := (if aln < 2048 then (Int.ofNat aln) else Int.ofNat aln - 4096) + (if one then Int.ofNat (bitsOf ks 2 8) - 127 else 0)
  let ew : Int := Int.ofNat (bitsOf se 2 12) - 2047
  let nan := ks.testBit 24 || se.testBit 14 || (one && bitsOf ks 2 8 == 0xFF)
  let i := b.blockInt (slotEF fs) kv blk n
  if nan then .nan false else .fin (decide (i < 0)) (i.natAbs * (4 + fa) * (4 + bitsOf se 0 2)) (ea + ew - 4)

/-- ACC of a slot. -/
def slotACC (w : Dword) : Nat := (w.extractLsb' 10 2).toNat

/-- A word of the accumulator file. -/
def Bank.acc32 (b : Bank) (n : Nat) : Word := b.acc.get 0 n
/-- A pair of the accumulator file (Table 9.5). -/
def Bank.acc64 (b : Bank) (n : Nat) : Nat := (b.acc32 (2 * n)).toNat + (b.acc32 (2 * n + 1)).toNat * 2 ^ 32
/-- The bank with a word of the accumulator file written. -/
def Bank.setAcc (b : Bank) (n x : Nat) : Bank := { b with acc := b.acc.set n (BitVec.ofNat 32 x) }

/-- The scale stage for one output (R228). -/
def Bank.scaleOut (b : Bank) (fs : Dword) (kv b0 nb n : Nat) : Bank :=
  let blks := (List.range nb).map (fun k => b0 + k)
  match slotACC fs with
  | 1 =>
    let sum := (blks.map (fun k => b.blockInt (slotEF fs) kv k n)).sum
    b.setAcc n ((clamp ((b.acc32 n).toInt + sum) (-2 ^ 31) (2 ^ 31 - 1) % 2 ^ 32).toNat)
  | 0 =>
    b.setAcc n (blks.foldl (fun a k => rneExact fp32 [fp32.read false a, b.term fs kv k n]) (b.acc32 n).toNat)
  | _ =>
    let x := blks.foldl (fun a k => rneExact fp64 [fp64.read false a, b.term fs kv k n]) (b.acc64 n)
    (b.setAcc (2 * n) (x % 2 ^ 32)).setAcc (2 * n + 1) (x / 2 ^ 32)

/-- Row groups with wrong parity in the blocks of a pass, lowest row and group first (R219). -/
def Bank.failing (b : Bank) (b0 nb : Nat) : List Nat :=
  sortNat (b.badG.filter (fun g => decide (256 * b0 ≤ g) && decide (g < 256 * (b0 + nb))))

/-- A row group rewritten as zero with correct parity (R155). -/
def Bank.zeroGroup (b : Bank) (g : Nat) : Bank :=
  { b with cells := (groupBytes (g % 8)).foldl (fun t k => t.set (128 * (g / 8) + k) 0) b.cells,
           badG := b.badG.filter (· != g) }

/-- A storage word rewritten as zero with correct check bits (R155). -/
def Bank.zeroWord (b : Bank) (w : Nat) : Bank :=
  { b with cells := b.cells.setMany (8 * w) (List.replicate 8 0), badW := b.badW.filter (· != w) }

/-- A pass (R219, R227, R228): the bank, and the lowest failing row group when parity fails. -/
def Bank.pass (b : Bank) (fs : Dword) (kv g0 ng b0 nb : Nat) : Bank × Option Nat :=
  let bad := b.failing b0 nb
  match bad with
  | g :: _ => (bad.foldl Bank.zeroGroup b, some g)
  | [] =>
    let opg := formOpg (slotEF fs)
    ((List.range (ng * opg)).foldl (fun b k => b.scaleOut fs kv b0 nb (g0 * opg + k)) b, none)

/-- What the column port delivers for lane i from window w (R233). -/
def Bank.port (b : Bank) (fs : Dword) (w i : Nat) : Word :=
  let n := 32 * w + i
  let sc := fp32.read false (fs.extractLsb' 16 32).toNat
  if slotSM fs ≠ 2 ∨ slotACC fs = 1 then b.acc32 n
  else if slotACC fs = 0 then BitVec.ofNat 32 (rneProduct fp32 (fp32.read false (b.acc32 n).toNat) sc)
  else
    let x := rneProduct fp64 (fp64.read false (b.acc64 (n / 2))) sc
    BitVec.ofNat 32 (if i % 2 = 0 then x % 2 ^ 32 else x / 2 ^ 32)

/-- The bank with the slots of a window cleared (R422). -/
def Bank.clearWindow (b : Bank) (w : Nat) : Bank := (List.range 32).foldl (fun b i => b.setAcc (32 * w + i) 0) b

/-- The bank with block scales written (R417). -/
def Bank.putScales (b : Bank) (kv : Nat) (vals : List (Nat × BitVec 10)) : Bank :=
  { b with kscale := vals.foldl (fun t v =>
      let e : Word := t.get 0 (32 * kv + v.1)
      t.set (32 * kv + v.1) ((e &&& 0xFFFFFC00) ||| v.2.zeroExtend 32)) b.kscale }

/-- `bclr` (R414). -/
def Bank.clear (b : Bank) (what : BitVec 4) : Bank :=
  { b with acc := if what.getLsbD 0 then [] else b.acc, tags := if what.getLsbD 1 then [] else b.tags,
           kscale := if what.getLsbD 2 then [] else b.kscale, scale := if what.getLsbD 3 then [] else b.scale }

/-- Row groups that hold a byte of a storage word. -/
def groupsOfWord (w : Nat) : List Nat :=
  ((List.range 8).map (fun k => 8 * (w / 16) + groupOf (8 * (w % 16) + k))).eraseDups
/-- Storage words that hold a byte of a row group. -/
def wordsOfGroup (g : Nat) : List Nat := ((groupBytes (g % 8)).map (fun k => 16 * (g / 8) + k / 8)).eraseDups

/-- The end of a conversion of the bank's protection (R218). -/
def Bank.convert (b : Bank) (compute : Bool) : Bank :=
  if compute then { b with mode := .compute, badG := (b.badG ++ b.badW.flatMap groupsOfWord).eraseDups, badW := [] }
  else { b with mode := .storage, badW := (b.badW ++ b.badG.flatMap wordsOfGroup).eraseDups, badG := [] }

end Sys2Proof.Machine
end

