-- ==== Sys2Proof/Machine/Banks.lean ====
section
/-! DEFINITION. The bank instructions (R214, R215, R409-R422). -/

namespace Sys2Proof.Machine

/-- The bank check and the mode check of R411: BANKBOUND, then BANKMODE for the compute instructions. -/
def Ictx.bankCheck (x : Ictx) (n : Nat) (compute : Bool) : Option Cause :=
  let k := x.s.core x.core
  let sh := k.shareOf x.q
  if sh.banks.length ≤ n then some .bankbound
  else
    let m := (k.bank (sh.banks.getD n 0)).mode
    if compute && (m == .storage || m == .toStor) then some .bankmode else none

/-- A bank instruction becomes an item of its bank; `o`: how it is outstanding (R410, R412). -/
def Ictx.pushWork (x : Ictx) (s : State) (n : Nat) (w : Work) (o : Option Outst) : State :=
  let b := (x.s.core x.core).physBank x.q n
  let (id, s) := s.take
  let it : Item := { work := w, slot := x.slot, lanes := x.lanes, pathLanes := x.path, pc := x.pc, lk := x.q.lk, ins := id }
  let s := match o with
    | none => s
    | some o =>
      ({ s with ins := s.ins.set id x.ins }).addOutst x.core x.slot x.lanes { o with id := id }
  s.pushItem x.core b it

/-- The checks of R411 in order, then the item. -/
def bankEff (x : Ictx) (n : BitVec 4) (compute : Bool) (third : Option Cause) (w : Work) (o : Option Outst) : Eff :=
  match x.bankCheck n.toNat compute, third with
  | some c, _ => .trap c x.lanes 0 0
  | none, some c => .trap c x.lanes 0 0
  | none, none => .ok (x.pushWork x.s n.toNat w o)

/-- BMODE (R214, R413): a transition begins at once; the conversion takes its place in the bank's order. -/
def execBmode (h : Head) (bank : BitVec 4) (compute : Bool) (la : BitVec 4) (s : State) :
    Host.Outcome State Fault Refusal :=
  issue (.bmode h bank compute la) h s (fun x =>
    match x.bankCheck bank.toNat false with
    | some c => .trap c x.lanes 0 0
    | none =>
      let b := (x.s.core x.core).physBank x.q bank.toNat
      let k := x.s.bank x.core b
      if (k.mode == .storage) == compute && (k.mode == .storage || k.mode == .compute) then
        let s := x.s.setBank x.core b { k with mode := if compute then .toComp else .toStor }
        .ok (x.pushWork s bank.toNat (.conv compute) none)
      else .ok x.s)

/-- BCLR (R414). -/
def execBclr (h : Head) (bank : BitVec 4) (what : BitVec 4) (la : BitVec 4) (s : State) :
    Host.Outcome State Fault Refusal :=
  issue (.bclr h bank what la) h s (fun x => bankEff x bank false none (.bclr what) none)

/-- What a `bwait` of a quire waits for on a bank is performed (R415): its items and accesses before it, and
a transition it found (Table 9.1). -/
def State.bwaitOver (s : State) (c j id b : Nat) : Bool :=
  (s.bank c b).queue.all (fun it => !(decide (it.ins < id) && (it.slot == j || (match it.work with
    | .conv _ => true
    | _ => false))))
    && s.reqs.all (fun e => !(e.2.space == 1 && e.2.ofQuire c j && decide (e.2.ins < id) && s.bankOf e.2 == b))

/-- BWAIT (R415). -/
def execBwait (h : Head) (bank : BitVec 4) (all : Bool) (la : BitVec 4) (s : State) :
    Host.Outcome State Fault Refusal :=
  issue (.bwait h bank all la) h s (fun x =>
    match x.bankCheck bank.toNat false with
    | some c => .trap c x.lanes 0 0
    | none =>
      let k := x.s.core x.core
      let bs := if all then (k.shareOf x.q).banks else [k.physBank x.q bank.toNat]
      let (id, s) := x.s.take
      if bs.all (s.bwaitOver x.core x.slot id) then .ok s
      else .ok (s.addOutst x.core x.slot x.lanes { id := id, la := la.toNat, reason := .bank, fpDone := true, banks := bs, pc := x.pc }))

/-- BKEY (R416): element, draw and participation of each lane; participants draw under SR. -/
def execBkey (h : Head) (bank : BitVec 4) (fslot : BitVec 3) (va : VReg) (kv : BitVec 4) (spos : BitVec 3)
    (blk : BitVec 5) (la : BitVec 4) (s : State) : Host.Outcome State Fault Refusal :=
  issue (.bkey h bank fslot va kv spos blk la) h s (fun x =>
    let fs := x.fslot fslot
    let ef := slotEF fs
    let bits := fmtBits ef
    let bad := decide (formKeys ef ≤ kv.toNat) || !posOk bits spos.toNat || !regOk bits va
    let sr := slotRND fs == 2
    let elems := (List.range 32).map (fun i =>
      let t := x.q.th i
      if x.lanes.getLsbD i then (t.at bits spos.toNat va, drawOf (lfsrDraw t.lfsr), true) else (0, 0, false))
    let q := if sr then x.q.mapLanes (lanesOf x.lanes) (fun _ t => { t with lfsr := lfsrDraw t.lfsr }) else x.q
    match bankEff x bank false (if bad then some .param else none) (.bkey fs kv.toNat blk.toNat elems) none with
    | .ok s => .ok (s.setQuire x.core x.slot q)
    | e => e)

/-- BKSCALE (R417). -/
def execBkscale (h : Head) (bank : BitVec 4) (va : VReg) (kv : BitVec 4) (hi : Bool) (l0 b0 : BitVec 5)
    (la : BitVec 4) (s : State) : Host.Outcome State Fault Refusal :=
  issue (.bkscale h bank va kv hi l0 b0 la) h s (fun x =>
    let vals := ((lanesOf x.lanes).filter (fun i => decide (l0.toNat ≤ i) && decide (b0.toNat + i - l0.toNat ≤ 31))).map
      (fun i => (b0.toNat + i - l0.toNat, ((x.q.th i).rv va).extractLsb' (if hi then 16 else 0) 10))
    bankEff x bank false none (.bkscale kv.toNat vals) none)

/-- BMVM (R226, R418). -/
def execBmvm (h : Head) (bank : BitVec 4) (fslot : BitVec 3) (kv : BitVec 4) (g0 ng1 : BitVec 3) (b0 nb1 : BitVec 5)
    (la : BitVec 4) (s : State) : Host.Outcome State Fault Refusal :=
  issue (.bmvm h bank fslot kv g0 ng1 b0 nb1 la) h s (fun x =>
    let fs := x.fslot fslot
    let bad := decide (formKeys (slotEF fs) ≤ kv.toNat)
    bankEff x bank true (if bad then some .param else none)
      (.bmvm fs kv.toNat g0.toNat (ng1.toNat + 1) b0.toNat (nb1.toNat + 1))
      (some { la := la.toNat, reason := .bank }))

/-- A slot may be used by `bexec` of a launch (R419). -/
def Core.mayExec (k : Core) (lk cx : Nat) : Bool :=
  decide (cx < 13) || (decide (32 ≤ cx) && (k.codex.get {} cx).owner == some lk)

/-- BEXEC (R419): start registers from fixed lanes. -/
def execBexec (h : Head) (bank : BitVec 4) (cx : BitVec 6) (vd va vb : VReg) (la : BitVec 4) (s : State) :
    Host.Outcome State Fault Refusal :=
  issue (.bexec h bank cx vd va vb la) h s (fun x =>
    let a (n : Nat) : Nat := ((x.q.th n).rv va).toNat
    let lt := (List.range 256).map (fun j =>
      if vb = 255 then 0 else bitsOf (x.q.v (j % 128 / 4) (vb.toNat + j / 128)).toNat (8 * (j % 4)) 8)
    let ok := (x.s.core x.core).mayExec x.q.lk cx.toNat
    bankEff x bank true (if ok then none else some .codex)
      (.bexec cx.toNat ((List.range 4).map (fun n => a n % 1024)) (a 4 % 256) (a 5 % 256) lt vd.toNat)
      (some { la := la.toNat, reason := .bank, regs := [vd.toNat] }))

/-- A single micro-operation (R250, R420). -/
def microEff (x : Ictx) (bank : BitVec 4) (op : Nat) (sa sb : SReg) (la : BitVec 4) (vd : Option VReg) : Eff :=
  let w := x.sh.s sa.toNat
  let p := (x.sh.s sb.toNat).toNat
  bankEff x bank true (if wordOk 256 w && mwOp w == op then none else some .codex)
    (.micro w ((List.range 4).map (fun n => bitsOf p (16 * n) 10)) (vd.map (·.toNat)))
    (vd.map (fun d => { la := la.toNat, reason := .bank, fpDone := true, regs := [d.toNat] }))

/-- BCW (R420). -/
def execBcw (h : Head) (bank : BitVec 4) (sa sb : SReg) (la : BitVec 4) (s : State) : Host.Outcome State Fault Refusal :=
  issue (.bcw h bank sa sb la) h s (fun x => microEff x bank 0 sa sb la none)

/-- BCT (R420). -/
def execBct (h : Head) (bank : BitVec 4) (sa sb : SReg) (la : BitVec 4) (s : State) : Host.Outcome State Fault Refusal :=
  issue (.bct h bank sa sb la) h s (fun x => microEff x bank 1 sa sb la none)

/-- BTW (R420). -/
def execBtw (h : Head) (bank : BitVec 4) (sa sb : SReg) (la : BitVec 4) (s : State) : Host.Outcome State Fault Refusal :=
  issue (.btw h bank sa sb la) h s (fun x => microEff x bank 2 sa sb la none)

/-- BTT (R420). -/
def execBtt (h : Head) (bank : BitVec 4) (sa sb : SReg) (la : BitVec 4) (s : State) : Host.Outcome State Fault Refusal :=
  issue (.btt h bank sa sb la) h s (fun x => microEff x bank 3 sa sb la none)

/-- BCNT (R420). -/
def execBcnt (h : Head) (bank : BitVec 4) (vd : VReg) (sa sb : SReg) (la : BitVec 4) (s : State) :
    Host.Outcome State Fault Refusal :=
  issue (.bcnt h bank vd sa sb la) h s (fun x => microEff x bank 4 sa sb la (some vd))

/-- BFIRST (R420). -/
def execBfirst (h : Head) (bank : BitVec 4) (vd : VReg) (sa sb : SReg) (la : BitVec 4) (s : State) :
    Host.Outcome State Fault Refusal :=
  issue (.bfirst h bank vd sa sb la) h s (fun x => microEff x bank 5 sa sb la (some vd))

/-- BACC (R233, R422). -/
def execBacc (h : Head) (bank : BitVec 4) (fslot : BitVec 3) (vd : VReg) (w : BitVec 3) (clr : Bool) (la : BitVec 4)
    (s : State) : Host.Outcome State Fault Refusal :=
  issue (.bacc h bank fslot vd w clr la) h s (fun x =>
    bankEff x bank false none (.bacc (x.fslot fslot) w.toNat clr vd.toNat)
      (some { la := la.toNat, reason := .bank, fpDone := true, regs := [vd.toNat] }))

/-- A Codex slot belongs to another launch, or is reserved for one that is being restored (R123, R247, R252). -/
def State.slotTaken (s : State) (c lk cx : Nat) : Bool :=
  let k := s.core c
  let o := ((k.codex.get {} cx : CxSlot)).owner
  (o.isSome && o != some lk) || (match s.restoring with
    | some r => r != lk && (s.launch r).saved.any (fun x => x.core == c && x.codex.any (fun e => e.1 == cx))
    | none => false)

/-- BCODEX (R247-R249, R421). -/
def execBcodex (h : Head) (cx : BitVec 6) (sa sb : SReg) (la : BitVec 4) (s : State) : Host.Outcome State Fault Refusal :=
  issue (.bcodex h cx sa sb la) h s (fun x =>
    let a := (x.sh.s sa.toNat).toNat
    let n := (x.sh.s sb.toNat).toNat
    let k := x.s.core x.core
    let slot : CxSlot := k.codex.get {} cx.toNat
    let lane := ((lanesOf x.lanes).head?).getD 0
    if a % 8 ≠ 0 then .trap .align x.lanes a 0
    else if x.s.slotTaken x.core x.q.lk cx.toNat then .trap .codex x.lanes 0 0
    else
      let id := x.s.fresh
      let own (w : Option (List Dword × Nat)) : State :=
        x.s.setCore x.core { k with codex := k.codex.set cx.toNat { slot with owner := some x.q.lk, writing := w } }
      let mark (s : State) : State :=
        s.setQuire x.core x.slot ((s.quire x.core x.slot).mapLanes (lanesOf x.lanes) (fun _ t =>
          { t with outst := t.outst.map (fun o => if o.id = id then { o with codex := true } else o) }))
      let s := own (some ([], id))
      if n = 0 ∨ 256 < n then
        let (id, s) := s.take
        let s := s.addOutst x.core x.slot x.lanes { id := id, la := la.toNat, reason := .mem }
        .ok ((mark s).due 0 { unit := x.core, sub := cx.toNat, item := id } .bcodexAccept)
      else
        match accessEff { x with s := s } { kind := .read, la := la.toNat, result := .codex cx.toNat n }
            ((List.range n).map (fun j => ({ lane := lane, ea := (a + 8 * j) % 2 ^ 64, size := 8, base := 8 * j } : LaneAcc))) with
        | .ok s => .ok (mark s)
        | .trap c m ad d => .trap c (if c = .lease ∨ c = .perm then x.lanes else m) ad d
        | e => e)

end Sys2Proof.Machine
end

