-- ==== Sys2Proof/Machine/Heat.lean ====
section
/-! DEFINITION. Heat tables: counting of taken backward branches, the start of a build, invalidation
(R253-R255, R270, R430). -/

namespace Sys2Proof.Machine

/-- An entry of a heat table. -/
def Core.heatAt (k : Core) (n : Nat) : Heat := k.heat.get {} n

/-- The entry of a share's loop. -/
def Core.heatFor (k : Core) (share : Nat) (hdr : Dword) : Option Nat :=
  (List.range 16).find? (fun n => (k.heatAt n).state != .empty && (k.heatAt n).share == share
    && (k.heatAt n).header == hdr)

/-- The less recently raised of two entries, the first of equals. -/
def Core.olderHeat (k : Core) (best : Option Nat) (n : Nat) : Option Nat :=
  match best with
  | none => some n
  | some m => if (k.heatAt n).raised < (k.heatAt m).raised then some n else some m

/-- The entry that a loop without one takes (R254). -/
def Core.newHeat (k : Core) : Option Nat :=
  match (List.range 16).find? (fun n => (k.heatAt n).state == .empty) with
  | some n => some n
  | none => ((List.range 16).filter (fun n => (k.heatAt n).state == .counting)).foldl k.olderHeat none

/-- Effective Binder threshold of an entry (R97, R255). -/
def State.threshold (s : State) (c : Nat) (e : Heat) : Nat :=
  let thr := (s.launch e.lk).rcd.bindThr
  let reg := (s.core c).heatReg.toNat
  if thr = 0 then reg else min thr reg

/-- An entry may be built (R255, R430). -/
def State.qualifies (s : State) (c : Nat) (e : Heat) : Bool :=
  e.state == .counting && s.threshold c e != 0 && (e.requested || decide (s.threshold c e ≤ e.count))

/-- The lowest-numbered entry that may be built (R255). -/
def State.buildable (s : State) (c : Nat) : Option Nat :=
  if (s.core c).building.isSome then none
  else (List.range 16).find? (fun n => s.qualifies c ((s.core c).heatAt n))

/-- A build starts when an entry qualifies. -/
def State.tryBuild (s : State) (c : Nat) : State :=
  if (s.buildable c).isSome then s.dueOnce 0 { unit := c } .buildStart else s

/-- A taken backward branch of a quire (R253, R254). -/
def State.feedHeat (s : State) (c j : Nat) (hdr latch : Dword) : State :=
  let k := s.core c
  let q := k.quire j
  if k.resident.isSome then s
  else match k.heatFor q.share hdr with
  | some n =>
    let e := k.heatAt n
    let e := { e with count := min 65535 (e.count + 1), latch := some (e.latch.getD latch), raised := s.cycle }
    (s.setCore c { k with heat := k.heat.set n e }).tryBuild c
  | none =>
    match k.newHeat with
    | none => s
    | some n =>
      let e : Heat := { state := .counting, share := q.share, lk := q.lk, header := hdr, latch := some latch,
                        count := 1, raised := s.cycle }
      (s.setCore c { k with heat := k.heat.set n e }).tryBuild c

/-- `bindnow` of a loop (R430). -/
def State.requestBuild (s : State) (c j : Nat) (hdr : Dword) : State :=
  let k := s.core c
  let q := k.quire j
  match k.heatFor q.share hdr with
  | some n =>
    if (k.heatAt n).state = .counting then
      (s.setCore c { k with heat := k.heat.set n { k.heatAt n with requested := true } }).tryBuild c
    else s
  | none =>
    match k.newHeat with
    | none => s
    | some n =>
      let e : Heat := { state := .counting, share := q.share, lk := q.lk, header := hdr, requested := true,
                        raised := s.cycle }
      (s.setCore c { k with heat := k.heat.set n e }).tryBuild c

/-- An entry after its folio or its build is given up (R270). -/
def Heat.giveUp (e : Heat) : Heat :=
  match e.state with
  | .bound => { e with state := .counting, count := 0, requested := false }
  | .building => { e with state := .counting, count := 0, requested := false, reason := 11 }
  | _ => e

/-- A folio invalidated: dropped, unless it is resident and drains (R270). -/
def Core.dropFolio (k : Core) (n : Nat) : Core :=
  match k.resident with
  | some r =>
    if r.folio = n then
      { k with resident := some { r with draining := true },
               folios := k.folios.set n { k.folios.get {} n with valid := false } }
    else { k with folios := k.folios.del n }
  | none => { k with folios := k.folios.del n }

/-- The threads of a quire leave the resident folio. -/
def Core.leaveFolio (k : Core) (j : Nat) : Core := k.outOfFolio (fun t => t.1 == j)

/-- Invalidates the folios of some entries of a core and abandons their build; `free`: the entries are
freed (R270). -/
def State.invalidate (s : State) (c : Nat) (f : Heat → Bool) (free : Bool) : State :=
  let k := s.core c
  let hit := (List.range 16).filter (fun n => f (k.heatAt n) && (k.heatAt n).state != .empty)
  let folios := (k.folios.filter (fun e => hit.contains e.2.entry && e.2.valid)).map Prod.fst
  let k := folios.foldl Core.dropFolio k
  let abandoned := match k.building with
    | some n => hit.contains n
    | none => false
  let k := { k with
    heat := hit.foldl (fun t n => t.set n (if free then {} else (k.heatAt n).giveUp)) k.heat,
    building := if abandoned then none else k.building }
  let s := s.setCore c k
  let s := if abandoned then s.undue (fun d => d.what = .buildComplete && d.here.unit == c) else s
  s.tryBuild c

end Sys2Proof.Machine
end

