-- ==== Sys2Proof/Machine/Group.lean ====
section
/-! DEFINITION. Groups, the register pool, quire-wide waits and the exit of a quire (R166-R181), package
barriers (R385, R386), special registers (R387), and the instructions of opcodes 0x64-0x67. -/

namespace Sys2Proof.Machine

-- ## Waits of a quire

/-- The quire without some of its waits, their status written to the lanes that issued them (R370). -/
def Quire.release (q : Quire) (f : QWait → Bool) (code : Nat) : Quire :=
  let hit := q.waits.filter f
  let q := { q with waits := q.waits.filter (fun w => !f w) }
  hit.foldl (fun q w => match w.kind with
    | .claim _ | .reclaim _ => q
    | _ => q.mapLanes (lanesOf w.lanes) (fun _ t =>
        if t.exited then t else t.setReg w.vd (BitVec.ofNat 32 code))) q

/-- Ends waits of a quire with a status; it performs an acquire at a scope before it issues again
(R174, R385). -/
def State.releaseQuire (s : State) (c j : Nat) (f : QWait → Bool) (code scope : Nat) : State :=
  let q := s.quire c j
  if q.waits.any f then (s.setQuire c j (q.release f code)).acquire c j scope else s

/-- A wait at a group's barrier. -/
def QWait.isGbar (g : Nat) (w : QWait) : Bool := w.kind == .gbar g
/-- A wait in a group's join queue. -/
def QWait.isJoin (g : Nat) (w : QWait) : Bool := w.kind == .join g
/-- A wait for a claim that is not queued yet. -/
def QWait.isReclaim (w : QWait) : Bool :=
  match w.kind with
  | .reclaim _ => true
  | _ => false
/-- A wait in the claim queue. -/
def QWait.isClaim (w : QWait) : Bool :=
  match w.kind with
  | .claim _ => true
  | _ => false

-- ## Groups (R169-R173)

/-- Key of a group record. -/
def groupKey (share g : Nat) : Nat := share * 64 + g

/-- Slots of a core whose quire is live and in a share. -/
def Core.shareSlots (k : Core) (share : Nat) : List Nat :=
  (List.range 64).filter (fun j => (k.quire j).live && (k.quire j).share == share)

/-- One quire of a join queue as a phase completes (R173). -/
def State.joinGroup (s : State) (c share g j : Nat) : State :=
  let k := s.core c
  let x := k.group share g
  let q := k.quire j
  if 32 ≤ x.members then s.releaseQuire c j (QWait.isJoin g) 4 1
  else if 4 ≤ q.groups.length then s.releaseQuire c j (QWait.isJoin g) 2 1
  else
    let k := { k with groups := k.groups.set (groupKey share g) { x with members := x.members + 1 } }
    let s := (s.setCore c k).setQuire c j { q with groups := q.groups ++ [g] }
    s.releaseQuire c j (QWait.isJoin g) 0 1

/-- A phase of a group completes (R173). -/
def State.completeGroup (s : State) (c share g : Nat) : State :=
  let k := s.core c
  let x := k.group share g
  let x' := { x with gph := x.gph + 1, arrived := 0, joinq := [] }
  let s := s.setCore c { k with groups := k.groups.set (groupKey share g) x' }
  let s := (k.shareSlots share).foldl (fun s j => s.releaseQuire c j (QWait.isGbar g) 0 1) s
  x.joinq.foldl (fun s j => s.joinGroup c share g j) s

/-- `leave` of a member (R172). With the last member the record goes, and a quire in its join queue waits on until its phase timer
expires: the spec does not say what becomes of it (log entry 66). -/
def State.leaveGroup (s : State) (c j g : Nat) : State :=
  let k := s.core c
  let q := k.quire j
  let x := k.group q.share g
  let k := k.setQuire j { q with groups := q.groups.filter (· != g) }
  if x.members ≤ 1 then s.setCore c { k with groups := k.groups.del (groupKey q.share g) }
  else
    let s := s.setCore c { k with groups := k.groups.set (groupKey q.share g) { x with members := x.members - 1 } }
    if x.arrived = x.members - 1 ∧ !q.waits.any (fun w => w.isGbar g && w.counted) then s.completeGroup c q.share g else s

/-- The arrival of a quire at a group's barrier counts (R173). -/
def State.countArrival (s : State) (c j g : Nat) : State :=
  let k := s.core c
  let q := k.quire j
  let x := k.group q.share g
  let mark (w : QWait) : QWait := if w.isGbar g then { w with counted := true } else w
  let k := k.setQuire j { q with waits := q.waits.map mark }
  let s := s.setCore c { k with groups := k.groups.set (groupKey q.share g) { x with arrived := x.arrived + 1 } }
  if x.arrived + 1 = x.members then s.completeGroup c q.share g else s

/-- A wait on completion times of a quire's arrival is still under way. -/
def State.arriving (s : State) (c j g : Nat) : Bool :=
  s.waits.any (fun e => e.2.goal == .gbar c j g)

/-- Arrivals of a quire whose release is over count once its bank instructions are performed (R174). -/
def State.retryArrivals (s : State) (c j : Nat) : State :=
  let q := s.quire c j
  q.waits.foldl (fun s w =>
    match w.kind with
    | .gbar g =>
      let now := (s.quire c j).waits.any (fun w => w.isGbar g && !w.counted)
      if now && !s.arriving c j g && s.banksIdle c j then s.countArrival c j g else s
    | _ => s) s

/-- The release of an arrival begins (R174). -/
def State.startArrival (s : State) (c j g : Nat) : State :=
  let w := { s.releaseSet c j none 1 s.fresh with goal := .gbar c j g }
  if s.waitOver w then s.retryArrivals c j else (s.addWait w).2

-- ## The register pool (R176-R180)

/-- Blocks of a core begin to be cleared (R177). -/
def State.clearBlocks (s : State) (c n : Nat) (ids : List Nat) : State :=
  if n = 0 then s
  else
    let k := s.core c
    (s.setCore c { k with clearing := k.clearing ++ [(n, ids)] }).due 2 { unit := c } .blockClearDone

/-- Asks X-die 0 to look for a launch to restore (R123). -/
def State.pokeRestore (s : State) : State :=
  if s.launches.any (fun e => e.2.state == .preempted) then s.dueOnce 0 {} .restore else s

/-- Asks a die's dispatcher to look for a placement, no sooner than 2 ticks after its last (R118). -/
def State.pokeDie (s : State) (d : Nat) : State :=
  (s.dueOnce ((s.die d).lastPlace + 2 - s.now) { unit := d } .groupPlace).pokeRestore

/-- Slots that have arrived and have not been popped (R290). -/
def Queue.arrived (x : Queue) : Nat := x.sram.length + x.spilled

/-- The queue's arrival launch may trigger, its core's room apart (R290). -/
def Queue.triggers (x : Queue) : Bool :=
  x.v && x.arm && decide (x.wmark ≤ x.arrived) && x.consumer.isNone && x.alive.isNone

/-- Looks whether the arrival launch of a queue triggers. -/
def State.pokeArrival (s : State) (q : Nat) : State :=
  if (s.queue q).triggers then s.dueOnce 0 { unit := q } .arrivalTrigger else s

/-- The core of a queue's consumer end. -/
def Queue.consumerCore (x : Queue) : Nat := 40 * x.cdie + x.ccore

/-- Room on a core may let the arrival launches of its queues trigger (R290). -/
def State.pokeArrivals (s : State) (c : Nat) : State :=
  s.queues.foldl (fun s e => if e.2.consumerCore = c then s.pokeArrival e.1 else s) s

/-- Resources of a core have come free: its dispatcher and its arrival launches look again. -/
def State.pokeRoom (s : State) (c : Nat) : State := (s.pokeDie (dieOf c)).pokeArrivals c

/-- Asks X-die 0 whether a launch may retire (R111). -/
def State.pokeRetire (s : State) (lk : Nat) : State := s.dueOnce 0 { unit := lk } .launchRetire

/-- Lets the head of the claim queue be granted (R179). -/
def State.pokeClaims (s : State) (c : Nat) : State :=
  if (s.core c).claims.isEmpty then s else s.dueOnce 0 { unit := c } .claimGrant

/-- Blocks a claim of a quire asks for. -/
def Quire.claimed (q : Quire) : Nat :=
  (q.waits.findSome? (fun w => match w.kind with
    | .claim n => some n
    | _ => none)).getD 0

/-- Grants claims from the head of the queue while they fit in the free blocks but for `held` ones (R179). -/
def grantClaims (held : Nat) (k : Core) : List Nat → Core
  | [] => k
  | j :: js =>
    let q := k.quire j
    let n := q.claimed
    if n + held ≤ k.freeBlocks then
      grantClaims held ({ k with freeBlocks := k.freeBlocks - n, claims := js }.setQuire j
        ({ q with blocks := q.blocks + n }.release QWait.isClaim 0)) js
    else k

-- ## Withdrawal of waits (R153, R385)

/-- A package barrier of a launch. -/
def Launch.pbar (l : Launch) (id : Nat) : PBar := l.pbars.get {} id

/-- A waiting instruction of a quire is abandoned: its claim, its place in a join queue, or its arrival
is taken back. -/
def State.withdraw (s : State) (c j : Nat) (w : QWait) : State :=
  let k := s.core c
  let q := k.quire j
  match w.kind with
  | .reclaim _ => s
  | .claim _ => (s.setCore c { k with claims := k.claims.filter (· != j) }).pokeClaims c
  | .join g =>
    match k.groups.find (groupKey q.share g) with
    | some x => s.setCore c { k with groups := k.groups.set (groupKey q.share g) { x with joinq := x.joinq.filter (· != j) } }
    | none => s
  | .gbar g =>
    let s := { s with waits := s.waits.filter (fun e => e.2.goal != .gbar c j g) }
    if w.counted then
      let x := k.group q.share g
      s.setCore c { k with groups := k.groups.set (groupKey q.share g) { x with arrived := x.arrived - 1 } }
    else s
  | .pbar id =>
    let s := { s with waits := s.waits.filter (fun e => e.2.goal != Goal.pbar c j id) }
    let s := s.undue (fun d => d.what = Instr.pbarArrival && d.here.unit == c && d.here.sub == j && d.here.item == id)
    if w.counted then
      let l := s.launch q.lk
      let b := l.pbar id
      s.setLaunch q.lk { l with
        pbars := l.pbars.set id { b with arrived := b.arrived - 1, waiters := b.waiters.erase (c, j) } }
    else s

-- ## Exit (R166, R119)

/-- A share ends with its last quire: its banks begin to be cleared, its heat entries, folios and Codex
slots are freed (R119, R247, R254). -/
def State.endShare (s : State) (c share : Nat) : State :=
  let k := s.core c
  let x : Share := k.shares.get {} share
  let k := { k with shares := k.shares.set share { x with clearing := true },
                    codex := k.codex.filter (fun e => e.2.owner != some x.lk) }
  let k := x.banks.foldl (fun k b => k.setBank b { k.bank b with clearing := true }) k
  ((s.setCore c k).invalidate c (fun e => e.share == share) true).due 256 { unit := c, sub := share } .shareClearDone

/-- A quire whose threads have all exited leaves its groups and its slot (R166). -/
def State.quireExit (s : State) (c j : Nat) : State :=
  let s := (sortNat (s.quire c j).groups).foldl (fun s g => s.leaveGroup c j g) s
  let q := s.quire c j
  let ids := ((q.threads.flatMap (fun e => e.2.outst.filter (fun o => !o.regs.isEmpty))).map (fun o => o.id)).eraseDups
  let s := s.undue (fun d => (d.what = .phaseExpiry || d.what = .sleepExpiry) && d.here.unit == c && d.here.sub == j)
  let k := s.core c
  let s := s.setCore c { k with quires := k.quires.del j, bar := k.bar.filter (· != j) }
  let s := s.clearBlocks c q.blocks ids
  let s := if ((s.core c).shareSlots q.share).isEmpty then s.endShare c q.share else s
  let l := s.launch q.lk
  let s := s.setLaunch q.lk { l with quires := l.quires - 1 }
  (if l.quires ≤ 1 then s.pokeRetire q.lk else s).pokeRoom c

/-- Threads of a quire exit; the quire exits with the last of them (R166). -/
def State.exitThreads (s : State) (c j : Nat) (m : Lanes) : State :=
  let q := (s.quire c j).mapLanes (lanesOf m) (fun _ t => { t with exited := true, pends := [], wait := none })
  let s := s.setQuire c j q
  if (List.range 32).all (fun i => (q.th i).exited) then s.quireExit c j else s

-- ## Instructions

/-- Group number of an operand (R383). -/
def Ictx.groupNo (x : Ictx) : CountOp → Nat
  | .reg r => (x.sh.s r.toNat).toNat % 64
  | .imm n => n.toNat

/-- Block count of an operand (R383). -/
def Ictx.blockNo (x : Ictx) : CountOp → Nat
  | .reg r => (x.sh.s r.toNat).toNat
  | .imm n => n.toNat

/-- The quire with a status written in every participant (R370). -/
def Quire.putStatus (q : Quire) (m : Lanes) (vd : VReg) (code : Nat) : Quire :=
  q.mapLanes (lanesOf m) (fun _ t => t.setReg vd.toNat (BitVec.ofNat 32 code))

/-- The wait that a word begins. -/
def Ictx.waitOf (x : Ictx) (kind : QWaitKind) (vd : Nat) : QWait :=
  { kind := kind, lanes := x.lanes, path := x.path, vd := vd, pc := x.pc, since := x.s.cycle }

/-- `join` of a group (R170, R171). -/
def joinEff (x : Ictx) (vd : VReg) (g : Nat) : State :=
  let k := x.s.core x.core
  let q := x.q
  let key := groupKey q.share g
  let found := k.groups.find key
  if q.groups.contains g then x.put (q.putStatus x.lanes vd 1)
  else if 4 ≤ q.groups.length then x.put (q.putStatus x.lanes vd 2)
  else match found with
    | none =>
      if 64 ≤ k.groups.length then x.put (q.putStatus x.lanes vd 3)
      else
        let s := x.s.setCore x.core { k with groups := k.groups.set key { members := 1 } }
        s.setQuire x.core x.slot { q.putStatus x.lanes vd 0 with groups := q.groups ++ [g] }
    | some r =>
      if r.arrived = 0 then
        if 32 ≤ r.members then x.put (q.putStatus x.lanes vd 4)
        else
          let s := x.s.setCore x.core { k with groups := k.groups.set key { r with members := r.members + 1 } }
          s.setQuire x.core x.slot { q.putStatus x.lanes vd 0 with groups := q.groups ++ [g] }
      else
        let r := if r.joinq.contains x.slot then r else { r with joinq := r.joinq ++ [x.slot] }
        let s := x.s.setCore x.core { k with groups := k.groups.set key r }
        s.setQuire x.core x.slot { q with waits := q.waits ++ [x.waitOf (.join g) vd.toNat] }

/-- JOIN (R170, R171, R384). -/
def execJoin (h : Head) (vd : VReg) (g : CountOp) (s : State) : Host.Outcome State Fault Refusal :=
  issue (.join h vd g) h s (fun x => .ok (joinEff x vd (x.groupNo g)))

/-- LEAVE (R170, R172, R384): a quire with a pending arrival at the group's barrier, which path A's word of the cycle made,
issues it after that phase. -/
def execLeave (h : Head) (vd : VReg) (g : CountOp) (s : State) : Host.Outcome State Fault Refusal :=
  issue (.leave h vd g) h s (fun x =>
    let q := x.q
    if q.waits.any (QWait.isGbar (x.groupNo g)) then .again
    else if q.groups.contains (x.groupNo g) then
      .ok ((x.put (q.putStatus x.lanes vd 0)).leaveGroup x.core x.slot (x.groupNo g))
    else .ok (x.put (q.putStatus x.lanes vd 5)))

/-- GBAR (R170, R173, R174, R384). -/
def execGbar (h : Head) (vd : VReg) (g : CountOp) (s : State) : Host.Outcome State Fault Refusal :=
  issue (.gbar h vd g) h s (fun x =>
    let q := x.q
    let n := x.groupNo g
    if !q.groups.contains n then .ok (x.put (q.putStatus x.lanes vd 5))
    else
      let pending := q.waits.find? (QWait.isGbar n)
      let w := { x.waitOf (.gbar n) vd.toNat with counted := (pending.map QWait.counted).getD false }
      let s := x.put { q with waits := q.waits ++ [w] }
      .ok (if pending.isSome then s else s.startArrival x.core x.slot n))

/-- An arrival at a package barrier is sent to X-die 0 (R385). -/
def State.sendPbar (s : State) (c j id : Nat) : State :=
  s.sendCtrl (dieOf c) 24 2 (s.launch (s.quire c j).lk).ctx { unit := c, sub := j, item := id } .pbarArrival

/-- PBAR (R385, R386). -/
def execPbar (h : Head) (vd : VReg) (id : BitVec 4) (sn : SReg) (s : State) : Host.Outcome State Fault Refusal :=
  issue (.pbar h vd id sn) h s (fun x =>
    let q := x.q
    let w := { x.waitOf (.pbar id.toNat) vd.toNat with count := (x.sh.s sn.toNat).toNat }
    let s := x.put { q with waits := q.waits ++ [w] }
    let r := { s.releaseSet x.core x.slot none 3 s.fresh with goal := .pbar x.core x.slot id.toNat }
    .ok (if s.waitOver r then s.sendPbar x.core x.slot id.toNat else (s.addWait r).2))

/-- A claim takes its place in the queue of its core (R179). -/
def State.queueClaim (s : State) (c j : Nat) (w : QWait) : State :=
  let k := s.core c
  let q := k.quire j
  ((s.setCore c { k with claims := k.claims ++ [j] }).setQuire c j { q with waits := q.waits ++ [w] }).pokeClaims c

/-- REGCLAIM (R179, R180, R384). -/
def execRegclaim (h : Head) (n : CountOp) (s : State) : Host.Outcome State Fault Refusal :=
  issue (.regclaim h n) h s (fun x =>
    let q := x.q
    let m := x.blockNo n
    if m = 0 then .ok x.s
    else if q.waits.any QWait.isClaim then .ok (x.put { q with waits := q.waits ++ [x.waitOf (.reclaim m) 0] })
    else if 32 < q.blocks + m then .trap .claim x.lanes 0 0
    else .ok (x.s.queueClaim x.core x.slot (x.waitOf (.claim m) 0)))

/-- The claim that waited behind one of its quire is checked and queued (R180). -/
def State.nextClaim (s : State) (c j : Nat) : State :=
  let q := s.quire c j
  if q.waits.any QWait.isClaim then s
  else match q.waits.find? QWait.isReclaim with
    | none => s
    | some w =>
      match w.kind with
      | .reclaim n =>
        let s := s.setQuire c j { q with waits := q.waits.filter (fun x => !x.isReclaim) }
        if 32 < q.blocks + n then
          s.takeFault c j (maskOf ((lanesOf w.path).filter (fun i => !(q.th i).exited))) { cause := .claim, fpc := w.pc, mask := w.lanes } 0 0
        else s.queueClaim c j { w with kind := .claim n }
      | _ => s

/-- The quire without its top `k` blocks (R178). -/
def Quire.dropBlocks (q : Quire) (k : Nat) : Quire :=
  let keep := 8 * (q.blocks - k)
  let cut (u : Thread) : Thread :=
    { u with v := u.v.filter (fun r => decide (r.1 < keep)), badV := u.badV.filter (fun k => decide (2 * k < keep)) }
  { q with blocks := q.blocks - k, threads := q.threads.map (fun e => (e.1, cut e.2)) }

/-- REGREL (R178, R384). -/
def execRegrel (h : Head) (n : CountOp) (s : State) : Host.Outcome State Fault Refusal :=
  issue (.regrel h n) h s (fun x =>
    let q := x.q
    let k := min (x.blockNo n) (q.blocks - 1)
    .ok ((x.put (q.dropBlocks k)).clearBlocks x.core k []))

-- ## Special registers (R182, R387)

/-- %tid of a lane (R167). -/
def Quire.tid (q : Quire) (i : Nat) : Nat := q.qid * 32 + i

/-- Value of a special register in a lane (Tables 7.3 and 17.6). -/
def special (x : Ictx) (k i : Nat) : Dword :=
  let t := x.q.th i
  match k with
  | 0 => BitVec.ofNat 64 (x.q.tid i)
  | 1 => BitVec.ofNat 64 i
  | 2 => BitVec.ofNat 64 x.q.qid
  | 3 => BitVec.ofNat 64 x.q.gid
  | 4 => BitVec.ofNat 64 x.q.grp
  | 5 => BitVec.ofNat 64 (x.core % 40)
  | 6 => BitVec.ofNat 64 (dieOf x.core)
  | 7 => BitVec.ofNat 64 (x.s.nowAt (dieOf x.core))
  | 8 => t.repc
  | 9 => t.fpc
  | 10 => t.cause
  | 11 => t.fpsr.zeroExtend 64
  | _ => BitVec.ofNat 64 ((x.s.launch x.q.lk).lid + (x.s.launch x.q.lk).ctx * 2 ^ 32)

/-- SGET (R387). -/
def execSget (h : Head) (sel : BitVec 4) (sc clr : Bool) (vd : VReg) (s : State) :
    Host.Outcome State Fault Refusal :=
  let k := sel.toNat
  if sc then scalarWord (.sget h sel sc clr vd) h s (vd.extractLsb' 0 6) (fun x => special x k 0)
  else
    issue (.sget h sel sc clr vd) h s (fun x =>
      let out (i : Nat) : LaneOut := if sgetPair k then out2 vd (special x k i) else out1 vd ((special x k i).extractLsb' 0 32)
      let q := x.q.laneWrite x.lanes (fun i _ => out i)
      .ok (x.put (if clr then q.mapLanes (lanesOf x.lanes) (fun _ t => { t with fpsr := 0 }) else q)))

end Sys2Proof.Machine
end

