-- ==== Sys2Proof/Machine/HostPage.lean ====
section
/-! DEFINITION. Launch states, the register area of launch pages (R87, R92-R95), notify stores (R89, R93),
dependence watches (R110), page-request responses (R102, R104), writes applied at a home (R24, R190). -/

namespace Sys2Proof.Machine

-- ## Launch states (R95, R96)

/-- A launch enters a state; QSTAT shows it from now on (R95). -/
def State.setState (s : State) (lk : Nat) (st : LState) : State :=
  let l := s.launch lk
  let x := s.ctx l.ctx
  let cause := if st = .fFault then (l.cause.map Cause.code).getD 0 else 0
  (s.setLaunch lk { l with state := st }).setCtx l.ctx
    { x with kept := x.kept.map (fun e => if e.1 = l.lid then (l.lid, st.code, cause) else e) }

/-- A launch starts nothing any more: it is stopping, or it ends. -/
def Launch.halted (l : Launch) : Bool := l.stopping || l.ending.isSome

/-- Accepted and not yet dispatched (R93). -/
def Launch.held (l : Launch) : Bool := l.ending.isNone && decide (l.state.code ≤ 5)

/-- Launches of a context that X-die 0 holds (R93). -/
def State.heldOfCtx (s : State) (ctx : Nat) : Nat :=
  (s.launches.filter (fun e => e.2.ctx == ctx && e.2.held)).length

/-- Lets a waiting notify store of a context leave its wait (R93). -/
def State.pokeWaiting (s : State) (ctx : Nat) : State :=
  if (s.ctx ctx).waiting.isEmpty then s else s.dueOnce 0 { unit := ctx } .notifyWaitRelease

/-- A launch fails before it is dispatched; retirement goes on with the state (R111). -/
def State.failLaunch (s : State) (lk : Nat) (st : LState) : State :=
  let l := s.launch lk
  if l.ending.isSome || l.state.final then s
  else ((s.setLaunch lk { l with ending := some st }).pokeRetire lk).pokeWaiting l.ctx

/-- LEASING begins (R102). -/
def State.enterLeasing (s : State) (lk : Nat) : State :=
  (s.setState lk .leasing).due 0 { unit := lk } .residencyCheck

-- ## Dependences (R110)

/-- The record of a die's failure (R20, Table 6.5). -/
def State.dieRec (s : State) (lk d : Nat) (cause : Cause) : FaultRec :=
  { cause := cause, deliv := 3, die := d, lid := (s.launch lk).lid, time := s.now, detail := d + d * 2 ^ 8 }

/-- A launch whose own reads or translations need a failed die fails with LINK (R20). -/
def State.failByDie (s : State) (lk d : Nat) : State := s.raiseFatal lk (s.dieRec lk d .link)

/-- Whether a dependence word meets its target, read at its home as `line` has just been written there, or as it stands when
nothing at its line has to be waited for (R75, R110). A word in a poisoned line does not: a read of it gives no value (R24,
log entry 62). -/
def State.depMet (s : State) (ctx : Nat) (line : Option Nat) (d : Dword × Dword) : Found Bool :=
  match (s.walk 24 ctx d.1.toNat).1 with
  | .leaf e lg _ =>
    let pa := physOf e lg d.1.toNat
    if s.unreachable 24 pa then .dead (homeDie (s.homeOf pa))
    else .ok (!s.poison.contains (pa / 128)
      && (line == some (pa / 128) || ((s.lineWaits 32 (pa / 128)).isEmpty && !s.moving pa true)) && decide (d.2.toNat ≤ s.num pa 8))
  | .link d => .dead d
  | _ => .ok false

/-- The die that a dependence word needs and that has failed (R20). -/
def Found.dead? {α : Type} : Found α → Option Nat
  | .dead d => some d
  | _ => none

/-- A launch in WAITING looks at its dependences again, as `line` has just been written; a dependence once met stays met
(R110). -/
def State.lookDeps (s : State) (lk : Nat) (line : Option Nat) : State :=
  let l := s.launch lk
  if l.state != .waiting || l.ending.isSome then s
  else
    let look (d : Nat) : Found Bool :=
      if l.depsMet.contains d then .ok true else s.depMet l.ctx line (l.rcd.deps.getD d (0, 0))
    match (List.range l.rcd.deps.length).findSome? (fun d => (look d).dead?) with
    | some d => if s.fatal.any (fun e => e.1 == lk) then s else s.failByDie lk d
    | none =>
      let met := (List.range l.rcd.deps.length).filter (fun d => look d == .ok true)
      let s := s.setLaunch lk { l with depsMet := met }
      if met.length = l.rcd.deps.length then s.enterLeasing lk else s

/-- The watches of dependences are looked at (R110). -/
def State.lookWatches (s : State) (line : Option Nat) : State :=
  s.launches.foldl (fun s e => if e.2.state = .waiting then s.lookDeps e.1 line else s) s

/-- Bytes applied at a home; `whole`: every byte of the line is written, which clears its poison (R24). The watches of
dependences look at the line as the write leaves it (R110, R202). -/
def State.applyPart (s : State) (pa : Nat) (bs : List Byte) (whole : Bool) : State :=
  let s := s.setBytes pa bs
  (if whole then { s with poison := s.poison.filter (· != pa / 128) } else s).lookWatches (some (pa / 128))

/-- A write applied at a home. -/
def State.applyWrite (s : State) (pa : Nat) (bs : List Byte) : State :=
  s.applyPart pa bs (pa % 128 == 0 && bs.length == 128)

/-- GWCT of a write applied now to a line (R190). -/
def State.gwctOf (s : State) (line : Nat) : Nat :=
  max (s.nowAt (homeDie (s.homeOf (128 * line)))) (s.expiry line) + 2

/-- A die has seen a GWCT answered (R194). -/
def State.seeGwct (s : State) (d g : Nat) : State := s.setDie d { s.die d with gwctMax := max (s.die d).gwctMax g }

/-- A request of X-die 0 or of the host takes its place at its home, in arrival order (R185). -/
def State.queueHome (s : State) (r : Req) (i : Instr) : Nat × State :=
  let (id, s) := s.take
  let (t, s) := s.take
  (id, (s.setReq id { r with stage := .home, core := 640, die := 24, space := 2, ticket := t, issued := s.now }).due 0
    { unit := id } i)

/-- What became of an add of X-die 0: applied, not applied by its home (R24), or a request that waits there. -/
inductive Added where
  | done
  | rejected
  | waits (req : Nat)
  deriving DecidableEq, Repr, Inhabited

/-- An atomic add that X-die 0 makes at a home (R89, R111), for a launch if there is one, or the request for it when others
stand before it. It is not applied to a poisoned line (R24). -/
def State.homeAdd (s : State) (lk ctx va pa : Nat) (v : Dword) : Added × State :=
  if s.lineFree pa then
    let s := s.countRac 24 pa
    if s.poison.contains (pa / 128) then (.rejected, s)
    else (.done, (s.seeGwct 24 (s.gwctOf (pa / 128))).applyWrite pa (toLe 8 (s.num pa 8 + v.toNat)))
  else
    let (id, s) := s.queueHome { agent := .logic, kind := .red, lk := lk, ctx := ctx, va := va, pa := pa, size := 8,
                                 data := toLe 8 v.toNat } .redHome
    (.waits id, s)

-- ## Notify stores (R89, R93)

/-- The three cases in which X-die 0 drops a notify or HNOTIFY store (R93). -/
def State.dropsNotify (s : State) (ctx : Nat) : Bool := !(s.ctx ctx).v || !s.ready || s.bridgeDown

/-- A device store that waited as a notify store is no longer outstanding; its response is sent. -/
def State.notifyAnswer (s : State) (n : Notify) : State :=
  match n.req with
  | none => s
  | some id =>
    let r := s.req id
    let s := s.finishOutst r.core r.slot (maskOf [r.lane]) r.ins
    (s.setReq id { r with gwct := s.now + 2 }).respondTo id

/-- A new launch of a context takes the next launch ID and its place in acceptance order (R93, R115). An arrival launch is
accepted also where 64 launches of the context are held, for R93 has notify stores alone wait (log entry 65). -/
def State.newLaunch (s : State) (ctx : Nat) (n : Notify) (arrival : Option Nat) : Nat × State :=
  let x := s.ctx ctx
  let lid := x.nextLid
  let lk := lkOf ctx lid
  let l : Launch := { ctx := ctx, lid := lid, order := s.acceptCount, recPtr := n.recPtr, argPtr := n.argPtr,
                      arrival := arrival }
  let s := s.setLaunch lk l
  let s := s.setCtx ctx { x with
    lid := BitVec.ofNat 32 lid, nextLid := if lid = 0xFFFFFFFF then 1 else lid + 1,
    kept := ((lid, 1, 0) :: x.kept).take 256 }
  (lk, { s with acceptCount := s.acceptCount + 1 })

/-- X-die 0 comes to accept a notify store: accepted with a launch ID, or dropped with NDROP (R93). The
accepted launch takes effect at max(t, HLX as at t + δ) (R89). -/
def State.acceptNotify (s : State) (ctx : Nat) (n : Notify) : State :=
  if s.dropsNotify ctx then (s.setCtx ctx { s.ctx ctx with ndrop := true }).notifyAnswer n
  else
    let (lk, s) := s.newLaunch ctx n none
    (s.due 2 { unit := lk } .notifyEffect).notifyAnswer n

/-- A notify store arrives at X-die 0 (R93). -/
def State.arriveNotify (s : State) (ctx : Nat) (n : Notify) : State :=
  let x := s.ctx ctx
  if x.waiting.isEmpty && decide (s.heldOfCtx ctx < 64) then s.acceptNotify ctx n
  else s.setCtx ctx { x with waiting := x.waiting ++ [n] }

/-- An HNOTIFY store arrives at X-die 0 (R89, R93). One of value zero sets NDROP where R93 drops a store (log entry 65). -/
def State.arriveHnotify (s : State) (ctx : Nat) (v : Dword) : State :=
  let x := s.ctx ctx
  if s.dropsNotify ctx then s.setCtx ctx { x with ndrop := true }
  else if v = 0 then s
  else (s.setCtx ctx { x with hnotify := x.hnotify ++ [v] }).due 2 { unit := ctx } .hnotifyEffect

-- ## Residency (R102, R104)

/-- A 64 KiB unit is resident for a set of permissions, RD WR EX as bits 0 to 2 (R102). The walk raises the leaf's read heat,
as the walk of a read does: R67 has every walk raise heat and does not say which of the two this one raises (log entry 50). -/
def State.unitResident (s : State) (ctx unit acc : Nat) : Found Bool × State :=
  match s.walk 24 ctx (unit * 65536) with
  | (.leaf e lg a, s) =>
    let s := s.raiseHeat 24 a false
    (.ok ((acc % 2 == 0 || e.getLsbD 1) && (acc / 2 % 2 == 0 || e.getLsbD 2) && (acc / 4 % 2 == 0 || e.getLsbD 3)
      && (List.range 16).all (fun k => s.homeOf (physOf e lg (unit * 65536 + 4096 * k)) != .hole)), s)
  | (.link d, s) => (.dead d, s)
  | (_, s) => (.ok false, s)

/-- Units of a list that are not resident, with the walks' counts, unless a walk needs a failed die (R20). -/
def State.missing (s : State) (ctx acc : Nat) : List Nat → Found (List Nat) × State
  | [] => (.ok [], s)
  | u :: us => Found.andThen (s.unitResident ctx u acc) (fun ok s =>
      Found.andThen (State.missing s ctx acc us) (fun m s => (.ok (if ok then m else u :: m), s)))

/-- Permissions of a range, RD WR EX as bits 0 to 2. -/
def Range.acc (r : Range) : Nat := r.rd.toNat + 2 * r.wr.toNat + 4 * r.ex.toNat

/-- A range as its cache entry: first unit, units, permissions (R102). -/
def Range.entry (r : Range) : Nat × Nat × Nat := (r.base / 65536, r.npage, r.acc)

/-- A range found resident enters the cache of 256 entries (R102). Which entry leaves a full cache is not said: the oldest goes
(log entry 65). -/
def State.cacheRange (s : State) (ctx : Nat) (e : Nat × Nat × Nat) : State :=
  let x := s.ctx ctx
  if x.resident.contains e then s else s.setCtx ctx { x with resident := (e :: x.resident).take 256 }

/-- Two spans of units with the same permissions overlap: first unit, units, permissions. -/
def spansMeet (e f : Nat × Nat × Nat) : Bool :=
  e.2.2 == f.2.2 && decide (e.1 < f.1 + f.2.1) && decide (f.1 < e.1 + e.2.1)

/-- The ranges of a launch whose last missing units a grant has just found resident (R102, R104). -/
def Launch.rangesMade (l : Launch) (u : Nat × Nat × Nat) : List (Nat × Nat × Nat) :=
  (l.ranges.map Range.entry).filter (fun e => spansMeet e u
    && !l.requests.any (fun q => spansMeet e q.2) && !l.asks.any (spansMeet e))

/-- LEASING ends: the launch holds its resident lease, and CHECKING begins (R102, R109). -/
def State.enterChecking (s : State) (lk : Nat) : State :=
  (s.setState lk .checking).due 0 { unit := lk } .layoutCheck

/-- The request ID of a page request (Table 4.12). -/
def ridOf (ctx gen seq : Nat) : Nat := seq % 2 ^ 18 + ctx * 2 ^ 18 + gen * 2 ^ 24

/-- A response to a page request (R104). -/
def State.respond (s : State) (ctx : Nat) (v : Dword) : State :=
  let x := s.ctx ctx
  let rid := bitsOf v.toNat 0 32
  let seq := bitsOf rid 0 18
  if !x.v || bitsOf rid 18 6 != ctx || bitsOf rid 24 8 != x.gen.toNat || !x.rids.any (fun e => e.1 == seq) then
    s.setCtx ctx { x with pdrop := true }
  else
    match s.launches.find? (fun e => e.2.ctx == ctx && e.2.state == .leasing && e.2.ending.isNone
        && e.2.requests.any (fun q => q.1 == seq)) with
    | none => s
    | some (lk, l) =>
      if v.getLsbD 32 then s.failLaunch lk .fPageReq
      else
        let q := (l.requests.find? (fun q => q.1 == seq)).getD (0, 0, 0, 0)
        match s.missing ctx q.2.2.2 ((List.range q.2.2.1).map (fun k => q.2.1 + k)) with
        | (.ok [], s) =>
          let rest := l.requests.filter (fun q => q.1 != seq)
          let l := { l with requests := rest }
          let s := (l.rangesMade q.2).foldl (fun s e => s.cacheRange ctx e) (s.setLaunch lk l)
          if rest.isEmpty && l.asks.isEmpty then s.enterChecking lk else s
        | (.dead d, s) => s.failByDie lk d
        | (_, s) => s.failLaunch lk .fPageReq

-- ## The register area (Table 4.5)

/-- The launch status word of the queried launch (Table 4.6). -/
def Ctx.status (x : Ctx) : Nat :=
  let e := (x.kept.find? (fun e => e.1 == x.query.toNat)).getD (0, 0, 0)
  e.2.1 + e.2.2 * 2 ^ 8 + x.query.toNat * 2 ^ 32

/-- The 64-bit word at an offset of a register area; write-only and reserved offsets read zero (R92). -/
def Ctx.pageWord (x : Ctx) (off : Nat) : Nat :=
  match off with
  | 0x10 => x.lid.toNat
  | 0x20 => x.status
  | 0x38 => x.v.toNat + x.gen.toNat * 2 ^ 8 + x.ndrop.toNat * 2 ^ 16 + x.pdrop.toNat * 2 ^ 17
  | _ => 0

/-- Bytes of a register area. -/
def Ctx.pageBytes (x : Ctx) (off n : Nat) : List Byte :=
  (List.range n).map (fun k => BitVec.ofNat 8 (bitsOf (x.pageWord ((off + k) / 8 * 8)) (8 * ((off + k) % 8)) 8))

/-- The bytes of a write that fall on a field, when they cover all of it. -/
def covering (off : Nat) (bs : List Byte) (lo n : Nat) : Option Nat :=
  if off ≤ lo ∧ lo + n ≤ off + bs.length then some (leNat (slice bs (lo - off) n)) else none

/-- One byte of a write, if it falls on an address. -/
def byteAt (off : Nat) (bs : List Byte) (a : Nat) : Byte := if off ≤ a then bs.getD (a - off) 0 else 0

/-- A write to a register area other than a notify store (R92, R93): QUERY takes the bytes written, HNOTIFY
and PRESP act on a write of all their bytes, NDROP and PDROP clear where a one is written. -/
def State.pageWrite (s : State) (ctx off : Nat) (bs : List Byte) : State :=
  let s := if off < 16 then s.setCtx ctx { s.ctx ctx with ndrop := true } else s
  let x := s.ctx ctx
  let qb (k : Nat) : Byte := if off ≤ 0x18 + k ∧ 0x18 + k < off + bs.length then bs.getD (0x18 + k - off) 0
    else x.query.extractLsb' (8 * k) 8
  let flags := byteAt off bs 0x3A
  let x := { x with
    query := BitVec.ofNat 32 (leNat [qb 0, qb 1, qb 2, qb 3]),
    ndrop := x.ndrop && !flags.getLsbD 0,
    pdrop := x.pdrop && !flags.getLsbD 1 }
  let s := s.setCtx ctx x
  let s := match covering off bs 0x28 8 with
    | some v => s.arriveHnotify ctx (BitVec.ofNat 64 v)
    | none => s
  match covering off bs 0x30 8 with
  | some v => s.respond ctx (BitVec.ofNat 64 v)
  | none => s

end Sys2Proof.Machine
end

