-- ==== Sys2Proof/Machine/Engine.lean ====
section
/-! DEFINITION. Copy engines (R146, R204, R272-R281, R300): reads and writes of an engine, chunks, stealing,
completion, and the steps CHUNK_START, CHUNK_COMPLETE, ENGINE_STEAL and COMMAND_COMPLETE. -/

namespace Sys2Proof.Machine

-- ## Commands of a core

/-- A command of a core's list. -/
def Core.cmd? (k : Core) (id : Nat) : Option Cmd := k.cmds.find? (fun c => c.id == id)
/-- The core with a command replaced. -/
def Core.putCmd (k : Core) (x : Cmd) : Core := { k with cmds := k.cmds.map (fun c => if c.id = x.id then x else c) }
/-- The state with a command of a core replaced. -/
def State.putCmd (s : State) (c : Nat) (x : Cmd) : State := s.setCore c ((s.core c).putCmd x)

/-- The state without a command of a core. -/
def State.dropCmd (s : State) (c id : Nat) : State :=
  s.setCore c { s.core c with cmds := (s.core c).cmds.filter (fun y => y.id != id) }

/-- Chunks in flight on the engine of a core, its own and stolen ones (R272). -/
def State.inFlight (s : State) (c : Nat) : Nat :=
  let d := dieOf c
  ((List.range 40).map (fun i => (((s.core (40 * d + i)).cmds.flatMap Cmd.flying).filter (fun f => f.1 == c)).length)).sum

/-- The engine of a core looks for a chunk to start. -/
def State.pokeEngine (s : State) (c : Nat) : State := s.dueOnce 0 { unit := c } .chunkStart

/-- The idle engines of a die look for chunks to steal (R276). -/
def State.pokeThieves (s : State) (c : Nat) : State :=
  (List.range 40).foldl (fun s i =>
    let e := 40 * dieOf c + i
    if e = c then s else s.dueOnce 0 { unit := e } .engineSteal) s

-- ## Geometry of a command (R273, R274)

/-- Bytes of the stream of a byte copy. -/
def Cmd.len (x : Cmd) : Nat :=
  match x.kind with
  | .cp2d => bitsOf x.sl.toNat 0 32 * bitsOf x.sl.toNat 32 24
  | _ => x.sl.toNat

/-- Blocks the command converts, rather than bytes it copies. -/
def Cmd.byBlock (x : Cmd) : Bool := x.kind == .cpretile || x.kind == .cpkey
/-- The destination is a bank. -/
def Cmd.toBank (x : Cmd) : Bool := x.db || x.byBlock
/-- First block, B0. -/
def Cmd.b0 (x : Cmd) : Nat := bitsOf x.sl.toNat 0 5
/-- G0 of `cpretile`. -/
def Cmd.g0 (x : Cmd) : Nat := bitsOf x.sl.toNat 5 3
/-- NB of `cpkey`. -/
def Cmd.nb (x : Cmd) : Nat := bitsOf x.sl.toNat 5 5 + 1
/-- KV of `cpkey`. -/
def Cmd.kv (x : Cmd) : Nat := bitsOf x.sl.toNat 10 4

/-- A run of bytes lies within one bank of a share (R212). -/
def inShare (nbank a n : Nat) : Bool :=
  decide (a < 2 ^ 21) && decide (a / 2 ^ 17 < nbank) && decide (a % 2 ^ 17 + n ≤ 2 ^ 17)

/-- Rows, row length, and strides of source and destination. -/
def Cmd.rows (x : Cmd) : Nat × Nat × Nat × Nat :=
  match x.kind with
  | .cp2d => (bitsOf x.sl.toNat 32 24, bitsOf x.sl.toNat 0 32, bitsOf x.sl1.toNat 0 32, bitsOf x.sl1.toNat 32 32)
  | _ => (1, x.sl.toNat, 0, 0)

/-- The bytes of a command's rows from an address lie in one bank. -/
def Cmd.rowsIn (x : Cmd) (nbank a stride : Nat) : Bool :=
  let (n, len, _, _) := x.rows
  inShare nbank a len && inShare nbank (a + (n - 1) * stride) len
    && a / 2 ^ 17 == (a + (n - 1) * stride) / 2 ^ 17

/-- A bank operand of `cpretile` or `cpkey`. -/
def bankOperand (nbank a : Nat) : Bool := a % 2 ^ 17 == 0 && decide (a / 2 ^ 17 < nbank)

/-- The checks of Table 12.1 and R274 that acceptance can make. -/
def Cmd.fits (x : Cmd) (nbank : Nat) : Bool :=
  match x.kind with
  | .cpretile =>
    x.sa.toNat % 64 == 0 && bankOperand nbank x.sd.toNat && decide (x.sl.toNat < 2 ^ 8)
  | .cpkey =>
    bankOperand nbank x.sd.toNat && decide (x.sl.toNat < 2 ^ 14) && decide (x.kv < formKeys (slotEF x.fs))
      && decide (x.b0 + x.nb ≤ 32)
  | k =>
    decide (1 ≤ x.len) && decide (x.len ≤ 0x3FFFFFC0)
      && (k != .cp2d || decide (x.sl.toNat < 2 ^ 56))
      && (!x.db || x.rowsIn nbank x.sd.toNat x.rows.2.2.2)
      && (k != .cpbank || inShare nbank x.sa.toNat x.len)

/-- The pieces of a chunk: source, destination and bytes of each, in stream order and within one row and one
line of the destination, so that a chunk that covers a whole line writes it whole (R24, R274). -/
def segsFrom (x : Cmd) (hi : Nat) : Nat → Nat → List (Nat × Nat × Nat)
  | 0, _ => []
  | fuel + 1, p =>
    if hi ≤ p then []
    else
      let (_, len, ss, ds) := x.rows
      let row := p / len
      let col := p % len
      let a := (x.sa.toNat + row * ss + col) % 2 ^ 64
      let d := (x.sd.toNat + row * ds + col) % 2 ^ 64
      let n := min (min (hi - p) (len - col)) (128 - d % 128)
      (a, d, n) :: segsFrom x hi fuel (p + n)

/-- Stream bytes of chunk k of a byte copy: first, and the byte after the last. -/
def Cmd.chunkSpan (x : Cmd) (k : Nat) : Nat × Nat := (4096 * k, min (4096 * k + 4096) x.len)

/-- The pieces of chunk k (Table 12.1). -/
def Cmd.segs (x : Cmd) (k : Nat) : List (Nat × Nat × Nat) :=
  segsFrom x (x.chunkSpan k).2 4096 (x.chunkSpan k).1

/-- Bytes of the fill pattern from a stream byte on. -/
def Cmd.pattern (x : Cmd) (p n : Nat) : List Byte :=
  (List.range n).map (fun j => BitVec.ofNat 8 (bitsOf x.sa.toNat (8 * ((p + j) % 8)) 8))

-- ## Reads and writes of an engine

/-- What an engine's access ends with: the bytes, or the cause that fails its command. -/
abbrev EngRes := Except Cause (List Byte)

/-- The leaf that translates an access of an engine, from the TLBs; a page whose walk failed for the chunk has its cause, and
one that has left the TLBs since its walk is walked again and installed (R65, R66). -/
def State.engineLeaf (s : State) (c : Nat) (x : Cmd) (ctx va : Nat) (write : Bool) : Except Cause (Dword × Nat) × State :=
  match s.tlbLook c ctx va write with
  | (some e, s) => (.ok (e.leaf, e.lg), s)
  | (none, s) =>
    match x.walkBad.find? (fun b => b.2.1 == va / 65536) with
    | some b => (.error b.2.2, s)
    | none =>
      match s.walk (dieOf c) ctx va with
      | (.leaf e lg pa, s) =>
        (.ok (e, lg), (s.raiseHeat (dieOf c) pa write).installLeaf (dieOf c) [c]
          { ctx := ctx, va := va / 2 ^ lg * 2 ^ lg, lg := lg, leaf := e, entryPa := pa })
      | (.perm, s) => (.error .perm, s)
      | (.ecc, s) => (.error .engine, s)
      | (.link _, s) => (.error .link, s)

/-- Physical address of an access of an engine, its lease and permission checked (R106, R274). -/
def State.enginePa (s : State) (c : Nat) (x : Cmd) (va n : Nat) (write : Bool) : Except Cause Nat × State :=
  let l := s.launch x.lk
  if !l.leased va n then (.error .lease, s)
  else match s.engineLeaf c x l.ctx va write with
    | (.error e, s) => (.error e, s)
    | (.ok (e, lg), s) =>
      let pa := physOf e lg va
      if s.unreachable (dieOf c) pa then (.error .link, s)
      else if leafPermits e (if write then .store else .load) && s.homeOf pa != .hole then (.ok pa, s)
      else (.error .perm, s)

/-- The line of `n` bytes for an engine: a usable copy in its die cache, or a fill with its lease (R186, R188). -/
def State.engineLine (s : State) (c : Nat) (x : Cmd) (va pa n : Nat) : EngRes × State :=
  let d := dieOf c
  let line := pa / 128
  match s.dieCopy d x.atP line with
  | some l => if l.wrong (pa % 128) n then (.error .engine, s.dropDie d line) else (.ok l.data, s.useDie d line)
  | none =>
    let s := s.countRac d pa
    let host := s.homeOf pa = .host
    let s := if host then s.tell (.snoop line) else s
    if s.poison.contains line then (.error .engine, s)
    else
      let l := s.launch x.lk
      let cls := min ((l.rangeOf va).map Range.lclass |>.getD 0) s.leaseCap.toNat
      let g := max (s.nowAt (homeDie (s.homeOf pa))) (s.nowAt d)
      let e := g + leaseLen cls
      let s := { s with lease := s.lease.set line (max e (s.lease.get 0 line)), hlx := if host then max s.hlx e else s.hlx }
      let bs := s.bytes (line * 128) 128
      let (n, s) := s.take
      (.ok bs, s.fillDie d l.ctx va line { data := bs, g := g, x := e, serial := n })

/-- An engine reads bytes within one line. -/
def State.engineRead (s : State) (c : Nat) (x : Cmd) (va n : Nat) : EngRes × State :=
  match s.enginePa c x va n false with
  | (.error e, s) => (.error e, s)
  | (.ok pa, s) =>
    if isRegArea pa then
      let p := bitsOf pa 12 6
      (.ok (if p = (s.launch x.lk).ctx then (s.ctx p).pageBytes (pa % 4096) n else List.replicate n 0), s)
    else match s.engineLine c x va pa n with
      | (.error e, s) => (.error e, s)
      | (.ok bs, s) => (.ok (slice bs (pa % 128) n), s)

/-- Pieces of a run of bytes, each within one line. -/
def linePieces : Nat → Nat → Nat → List (Nat × Nat)
  | 0, _, _ => []
  | fuel + 1, va, n =>
    if n = 0 then [] else (va, min n (128 - va % 128)) :: linePieces fuel (va + min n (128 - va % 128)) (n - min n (128 - va % 128))

/-- An engine reads the pieces of a list, up to the first that fails. -/
def State.engineReads (s : State) (c : Nat) (x : Cmd) : List (Nat × Nat) → EngRes × State
  | [] => (.ok [], s)
  | (va, n) :: ps =>
    match s.engineRead c x va n with
    | (.error e, s) => (.error e, s)
    | (.ok bs, s) =>
      match State.engineReads s c x ps with
      | (.error e, s) => (.error e, s)
      | (.ok more, s) => (.ok (bs ++ more), s)

/-- An engine reads a run of bytes. -/
def State.engineSpan (s : State) (c : Nat) (x : Cmd) (va n : Nat) : EngRes × State :=
  s.engineReads c x (linePieces (n / 128 + 2) va n)

/-- A write of an engine for a command of another core passes that core's L1 as a store of its quire would (R205). -/
def State.passOwner (s : State) (owner pa : Nat) (bs : List Byte) : State :=
  let s := s.passFills owner (pa / 128)
  s.setCore owner { s.core owner with l1 := patchLine (s.core owner).l1 pa bs }

/-- An engine writes bytes within one line; the owner keeps the GWCT (R204). A write of part of a poisoned
line is applied and fails the command (R24, R274). -/
def State.engineWrite (s : State) (c owner : Nat) (x : Cmd) (va : Nat) (bs : List Byte) : Option Cause × State :=
  match s.enginePa c x va bs.length true with
  | (.error e, s) => (some e, s)
  | (.ok pa, s) =>
    if isRegArea pa then
      let p := bitsOf pa 12 6
      (none, if p = (s.launch x.lk).ctx then s.pageWrite p (pa % 4096) bs else s)
    else
      let d := dieOf c
      let part := s.poison.contains (pa / 128) && decide (bs.length < 128)
      let g := s.gwctOf (pa / 128)
      let s := (s.countRac d pa).passStore c pa bs
      let s := (if owner = c then s else s.passOwner owner pa bs).applyWrite pa bs
      let s := s.seeGwct d g
      let k := s.core owner
      let s := match k.cmd? x.id with
        | some y => s.setCore owner (k.putCmd { y with gwct := max y.gwct g })
        | none => s
      (if part then some .engine else none, s)

/-- Numbers that stand, beside those of a command's chunks, for its read of the shape record and its write of LAYOUT, which
go to memory as chunks do (R279, R280). -/
def shapeChunk : Nat := 2 ^ 32
/-- The write of LAYOUT. -/
def layoutChunk : Nat := 2 ^ 32 + 1

-- ## Completion (R146, R277)

/-- The owner looks whether a command completes. -/
def State.pokeCmd (s : State) (c id : Nat) : State := s.dueOnce 0 { unit := c, sub := id } .commandComplete

/-- A command fails: no further chunk of it starts (R274, R277). -/
def State.failCmd (s : State) (c : Nat) (x : Cmd) (e : Cause) (addr : Nat) : State :=
  let y := { x with failed := some (x.failed.getD e), addr := if x.failed.isNone then addr else x.addr,
                    todo := [], stolen := [] }
  (s.putCmd c y).pokeCmd c x.id

/-- A chunk has ended: performed, or failed with the stream bytes it wrote. -/
def State.endChunk (s : State) (c id k : Nat) (res : Option (Cause × Nat)) (written : Nat) : State :=
  match (s.core c).cmd? id with
  | none => s
  | some x =>
    let s := (x.flying.filter (fun f => f.2 == k)).foldl (fun s f => s.pokeEngine f.1) s
    let x := { x with flying := x.flying.filter (fun f => f.2 != k) }
    let s := match res with
      | none => s.putCmd c { x with finished := k :: x.finished }
      | some (e, addr) => s.failCmd c { x with part := (k, written) :: x.part } e addr
    s.pokeCmd c id

/-- Stream bytes of chunk k when performed whole. -/
def Cmd.chunkBytes (x : Cmd) (k : Nat) : Nat :=
  if x.byBlock then 4096 else (x.chunkSpan k).2 - (x.chunkSpan k).1

/-- Rows of its bank that a chunk writes or reads, one a cycle (R275, Table 9.8). -/
def Cmd.chunkRows (x : Cmd) (k : Nat) (write : Bool) : Nat :=
  if x.byBlock then 32
  else ((x.segs k).flatMap (fun (a, d, n) =>
    let p := (if write then d else a) % 2 ^ 17
    [p / 128, (p + n - 1) / 128])).eraseDups.length

/-- Bytes of the longest prefix of the stream that was written (R277). -/
def Cmd.prefixBytes (x : Cmd) : List Nat → Nat
  | [] => 0
  | k :: ks =>
    if x.finished.contains k then x.chunkBytes k + Cmd.prefixBytes x ks
    else ((x.part.find? (fun p => p.1 == k)).map Prod.snd).getD 0

/-- UNITS (R277): the whole stream rounds up, a prefix counts its whole units. -/
def Cmd.units (x : Cmd) : Nat :=
  let n := x.prefixBytes (List.range x.nchunks)
  if !x.byBlock && n == x.len then (n + 63) / 64 else n / 64

/-- The status word (Table 12.5). -/
def Cmd.status (x : Cmd) : Nat :=
  x.units + (x.failed.map Cause.code).getD 0 * 2 ^ 24 + x.failed.isSome.toNat * 2 ^ 30 + 2 ^ 31

/-- The quire that issued a command still holds its slot. -/
def State.cmdQuire (s : State) (c : Nat) (x : Cmd) : Bool :=
  let q := s.quire c x.slot
  q.live && q.lk == x.lk && q.qid == x.qid && q.gid == x.gid

/-- The fault record of a failed command (R146, Table 6.4). LANEMASK is the participants that issued it, and INHDL the handler
flag of the lowest as the fault is found (log entry 29). -/
def State.cmdRec (s : State) (c : Nat) (x : Cmd) (e : Cause) : FaultRec :=
  let there := s.cmdQuire c x
  let q := s.quire c x.slot
  { cause := e, deliv := 2, isFatal := e.isFatal, exited := !there,
    inHdl := there && (q.th ((lanesOf x.lanes).headD 0)).handler, die := dieOf c, core := c % 40, mask := x.lanes,
    lid := (s.launch x.lk).lid, slot := x.slot, stall := if there then q.stallCode else 0,
    phid := if there && q.timer.armed then q.timer.phid.toNat else 0, qid := x.qid, gid := x.gid, fpc := x.pc,
    repc := if there then (q.th ((lanesOf x.lanes).headD 0)).repc else 0, addr := x.addr, time := s.now,
    detail := x.status + x.vs * 2 ^ 32 }

/-- The status word is written, vs is no longer pending, and a failure leaves its record or ends the launch
(R146, R277, R278). -/
def State.writeStatus (s : State) (c : Nat) (x : Cmd) : State :=
  let q := s.quire c x.slot
  let s := if s.cmdQuire c x && x.vs != 0 then
      s.setQuire c x.slot ({ q with pend := q.pend.filter (· != x.vs) }.setS x.vs (BitVec.ofNat 64 x.status))
    else s
  let s := s.dropCmd c x.id
  let s := match x.failed with
    | none => s
    | some e =>
      if e.isFatal then s.raiseFatal x.lk (s.cmdRec c x e)
      else s.writeRecord (s.launch x.lk).ctx (s.cmdRec c x e)
  s.pokeRetire x.lk

/-- LAYOUT that a finished `cpretile` leaves (R280). -/
def Cmd.layout (x : Cmd) (nbank : Nat) : Nat :=
  2 + formCode (slotEF x.fs) * 2 ^ 4 + nbank * 2 ^ 32 + bitsOf x.layoutTag.toNat 36 28 * 2 ^ 36

/-- The writes of a command wait to complete, or its status is written (R204). -/
def State.releaseCmd (s : State) (c : Nat) (x : Cmd) : State :=
  let x := { x with releasing := true }
  let s := s.putCmd c x
  let w : Wait := { goal := .cmdRel c x.id, need := if x.rel && decide (3 ≤ x.scope) then x.gwct else 0, die := dieOf c }
  if s.waitOver w then s.writeStatus c x else (s.addWait w).2

/-- The rewrite of LAYOUT by a `cpretile` whose chunks are done, and then its release (R280). -/
def State.writeLayout (s : State) (c : Nat) (x : Cmd) : State :=
  let (e, s) := match s.enginePa c x (x.sa.toNat + 48) 8 true with
    | (.error e, s) => (some e, s)
    | (.ok pa, s) =>
      if s.poison.contains (pa / 128) then (some .engine, s)
      else s.engineWrite c c x (x.sa.toNat + 48) (toLe 8 (x.layout (s.launch x.lk).rcd.nbank))
  let x := ((s.core c).cmd? x.id).getD x
  let x := { x with got := x.got.del layoutChunk }
  match e with
  | none => s.releaseCmd c x
  | some e => s.releaseCmd c { x with failed := some e, addr := x.sa.toNat + 48 }

/-- COMMAND_COMPLETE (R277, R280): once every chunk has ended, the rewrite of LAYOUT, the release, the status. In a launch
that ends a command that failed leaves its status and its record, and any other goes (R146, R148). -/
def execCommandComplete (s : State) : Host.Outcome State Fault Refusal :=
  let c := s.here.unit
  match (s.core c).cmd? s.here.sub with
  | none => .next s
  | some x =>
    let l := s.launch x.lk
    if !x.flying.isEmpty then .next s
    else if l.ending.isSome then
      .next (if x.failed.isSome then s.writeStatus c x else (s.dropCmd c x.id).pokeRetire x.lk)
    else if !x.got.isEmpty then .next s
    else if x.releasing then
      .next (if s.waits.any (fun e => e.2.goal == .cmdRel c x.id) then s else s.writeStatus c x)
    else if !x.todo.isEmpty || !x.stolen.isEmpty || !x.ready then .next s
    else if x.kind == .cpretile && x.failed.isNone then
      let x := { x with got := x.got.set layoutChunk [] }
      .next ((s.putCmd c x).due 0 { unit := c, sub := x.id, item := layoutChunk } .chunkComplete)
    else .next (s.releaseCmd c x)

-- ## The start of a command

/-- The shape record meets R279. -/
def Cmd.shapeOk (x : Cmd) (rank ef dim0 dim1 scales : Nat) : Bool :=
  let e := slotEF x.fs
  rank == 2 && ef == e && decide (1 ≤ dim0) && decide (1 ≤ dim1) && decide (dim1 ≤ 32 * (32 - x.b0))
    && decide (dim0 ≤ (8 - x.g0) * formOpg e) && (slotSM x.fs != 1 || scales != 0)

/-- A command gets its chunks (R272). -/
def State.beginCmd (s : State) (c : Nat) (x : Cmd) (n : Nat) : State :=
  let s := s.putCmd c { x with ready := true, nchunks := n, todo := List.range n }
  (s.pokeEngine c).pokeThieves c

/-- The read of a command's shape record, and its chunks (R279). -/
def State.readShape (s : State) (c : Nat) (x : Cmd) : State :=
  match s.engineRead c x x.sa.toNat 64 with
  | (.error e, s) => s.failCmd c { x with got := x.got.del shapeChunk } e x.sa.toNat
  | (.ok bs, s) =>
    let f (k n : Nat) : Nat := leNat (slice bs k n)
    let x := { x with got := x.got.del shapeChunk, shape := [f 0 8, f 0x10 4, f 0x14 4, f 0x24 4, f 0x38 8], layoutTag := BitVec.ofNat 64 (f 0x30 8) }
    if x.shapeOk (f 9 1) (f 8 1) (f 0x10 4) (f 0x14 4) (f 0x38 8) then s.beginCmd c x ((f 0x14 4 + 31) / 32)
    else s.failCmd c x .engine x.sa.toNat

/-- A command that has performed its acquire reads its shape record and gets its chunks (R272, R279). -/
def State.startCmd (s : State) (c : Nat) (x : Cmd) : State :=
  match x.kind with
  | .cpretile => (s.putCmd c { x with ready := true, got := x.got.set shapeChunk [] }).due 0 { unit := c, sub := x.id, item := shapeChunk } .chunkComplete
  | .cpkey => s.beginCmd c x x.nb
  | _ => s.beginCmd c x ((x.len + 4095) / 4096)

/-- What the acquire of a command waits for: the quire's earlier stores (R204). -/
def State.cmdAcqWait (s : State) (c : Nat) (x : Cmd) : Wait :=
  let w := s.releaseSet c x.slot none x.scope s.fresh
  { w with reqs := w.reqs.filter (fun k => (s.req k).isStore), goal := .cmdAcq c x.id }

/-- The acquire of a command is performed: its AT values, and its start (R204). -/
def State.endCmdAcq (s : State) (c id : Nat) : State :=
  match (s.core c).cmd? id with
  | none => s
  | some x =>
    if x.ready then s
    else
      let n := s.nowAt (dieOf c)
      s.startCmd c { x with atD := if 2 ≤ x.scope then n else x.atD, atP := if 3 ≤ x.scope then n else x.atP }

/-- The engine of a core takes a command into its list (R272, R274). -/
def State.acceptCmd (s : State) (c : Nat) (x : Cmd) : State :=
  let k := s.core c
  let n := k.accepted.get 0 x.lk
  let (id, s) := s.take
  let x := { x with id := id, number := n, ready := !x.acq }
  let s := s.setCore c { k with cmds := k.cmds ++ [x], accepted := k.accepted.set x.lk (n + 1) }
  if !x.fits (s.launch x.lk).rcd.nbank then s.failCmd c { x with ready := true } .engine 0
  else if x.acq then
    let w := s.cmdAcqWait c x
    if s.waitOver w then s.endCmdAcq c id else (s.addWait w).2
  else s.startCmd c x

-- ## Chunks (R272, R275)

/-- The chunk an engine starts next: of its own commands in acceptance order, then of those it stole. -/
def State.nextChunk (s : State) (c : Nat) : Option (Nat × Cmd × Nat) :=
  let own := (s.core c).cmds.findSome? (fun x =>
    if x.ready && !(s.launch x.lk).halted then x.todo.head?.map (fun k => (c, x, k)) else none)
  own.orElse (fun _ =>
    (List.range 40).findSome? (fun i =>
      let o := 40 * dieOf c + i
      (s.core o).cmds.findSome? (fun x =>
        if (s.launch x.lk).halted then none
        else (x.stolen.find? (fun e => e.1 == c)).map (fun e => (o, x, e.2)))))

/-- Cycles of a chunk at 64 bytes a cycle (R272). -/
def Cmd.chunkCycles (x : Cmd) (k : Nat) : Nat := (x.chunkBytes k + 63) / 64

/-- CHUNK_START (R272): at most four chunks are in flight, and none starts during an island pause (R17). -/
def execChunkStart (s : State) : Host.Outcome State Fault Refusal :=
  let c := s.here.unit
  if s.paused.contains (islandOf c) || decide (4 ≤ s.inFlight c) then .next s
  else match s.nextChunk c with
    | none => .next (s.dueOnce 0 { unit := c } .engineSteal)
    | some (o, x, k) =>
      let x := { x with todo := if o = c then x.todo.filter (· != k) else x.todo,
                        stolen := x.stolen.filter (fun e => e.2 != k), flying := x.flying ++ [(c, k)] }
      let s := s.putCmd o x
      let t := x.chunkCycles k * 1000 / max 1 (s.islandMhz (islandOf c)) + 120
      .next ((s.due t { unit := o, sub := x.id, item := k } .chunkComplete).pokeEngine c)

/-- An engine is idle: no command of its own list has an unstarted chunk. A command before its acquire or the read of its
shape record has them all unstarted (R276). -/
def State.engineIdle (s : State) (c : Nat) : Bool :=
  (s.core c).cmds.all (fun x => x.todo.isEmpty && x.stolen.isEmpty && x.ready && (x.got.find shapeChunk).isNone)

/-- The better of two candidates of R276: more unstarted chunks; the first of equals. -/
def richer (best : Option (Nat × Cmd)) (o : Nat × Cmd) : Option (Nat × Cmd) :=
  match best with
  | none => some o
  | some b => if b.2.todo.length < o.2.todo.length then some o else some b

/-- ENGINE_STEAL (R276). -/
def execEngineSteal (s : State) : Host.Outcome State Fault Refusal :=
  let c := s.here.unit
  if !s.engineIdle c then .next s
  else
    let cands := (List.range 40).flatMap (fun i =>
      let o := 40 * dieOf c + i
      if o = c then [] else
      ((s.core o).cmds.filter (fun x => x.ready && decide (2 ≤ x.todo.length) && !(s.launch x.lk).halted)).map (fun x => (o, x)))
    match cands.foldl richer none with
    | none => .next s
    | some (o, x) =>
      let n := x.todo.length
      let take := x.todo.drop (n - n / 2)
      let x := { x with todo := x.todo.take (n - n / 2), stolen := x.stolen ++ take.map (fun k => (c, k)) }
      .next ((s.putCmd o x).pokeEngine c)

/-- A copy of bytes, piece by piece, and the stream bytes written so far (R202, R274). -/
def State.copyPieces (s : State) (c o : Nat) (x : Cmd) : List (Nat × Nat × Nat) → Nat → Nat → (Option (Cause × Nat) × Nat) × State
  | [], _, w => ((none, w), s)
  | (a, d, n) :: ps, p, w =>
    let (r, s) := if x.kind = .cpfill then (Except.ok (x.pattern p n), s) else s.engineSpan c x a n
    match r with
    | .error e => ((some (e, a), w), s)
    | .ok bs =>
      match s.engineWrite c o x d bs with
      | (some e, s) => ((some (e, d), if e = .engine then w + n else w), s)
      | (none, s) => State.copyPieces s c o x ps (p + n) (w + n)

/-- The source bytes of a chunk that a bank will take. -/
def State.gather (s : State) (c : Nat) (x : Cmd) (k : Nat) : EngRes × State :=
  if x.kind = .cpfill then (.ok (x.pattern (x.chunkSpan k).1 (x.chunkBytes k)), s)
  else s.engineReads c x ((x.segs k).flatMap (fun g => linePieces (g.2.2 / 128 + 2) g.1 g.2.2))

/-- Element `n` of packed elements of `w` bits (R279). -/
def packed (bs : List Byte) (w n : Nat) : Nat := bitsOf (leNat (slice bs (n * w / 8) ((w + 7) / 8))) (n * w % 8) w

/-- The rows of a tensor block, each as its packed bytes; a row at or beyond DIM1 is empty (R279). -/
def State.tensorRows (s : State) (c : Nat) (x : Cmd) (blk : Nat) : List Nat → Except Cause (List (List Byte)) × State
  | [] => (.ok [], s)
  | r :: rs =>
    let row := 32 * blk + r
    let w := fmtBits (slotEF x.fs)
    let g (k : Nat) : Nat := x.shape.getD k 0
    let (res, s) := if row < g 2 then s.engineSpan c x ((g 0 + row * g 3) % 2 ^ 64) ((g 1 * w + 7) / 8) else (.ok [], s)
    match res with
    | .error e => (.error e, s)
    | .ok bs =>
      match State.tensorRows s c x blk rs with
      | (.error e, s) => (.error e, s)
      | (.ok more, s) => (.ok (bs :: more), s)

/-- Block scales of a tensor block, one an output; a nonzero reserved bit breaks R279. -/
def State.blockScales (s : State) (c : Nat) (x : Cmd) (blk : Nat) : Except Cause (List Nat) × State :=
  let g (k : Nat) : Nat := x.shape.getD k 0
  if slotSM x.fs != 1 then (.ok (List.replicate (g 1) 0), s)
  else match s.engineSpan c x ((g 4 + 2 * (blk * g 1)) % 2 ^ 64) (2 * g 1) with
    | (.error e, s) => (.error e, s)
    | (.ok bs, s) =>
      let v := (List.range (g 1)).map (fun n => leNat (slice bs (2 * n) 2))
      (if v.any (fun y => decide (1024 ≤ y)) then .error .engine else .ok v, s)

/-- Element codes of a tensor block in the order of R300, output by output, and its scales. -/
def State.tensorBlock (s : State) (c : Nat) (x : Cmd) (blk : Nat) : Except Cause (List Nat) × State :=
  match s.tensorRows c x blk (List.range 32) with
  | (.error e, s) => (.error e, s)
  | (.ok rows, s) =>
    match s.blockScales c x blk with
    | (.error e, s) => (.error e, s)
    | (.ok scales, s) =>
      let w := fmtBits (slotEF x.fs)
      (.ok (scales ++ (List.range (x.shape.getD 1 0)).flatMap (fun n =>
        (List.range 32).map (fun r => if (rows.getD r []).isEmpty then 0 else packed (rows.getD r []) w n))), s)

/-- The share of a command's owner, while it may be written. -/
def State.cmdBank (s : State) (o : Nat) (x : Cmd) (addr : Nat) : Option Nat :=
  let sh : Share := (s.core o).shares.get {} x.share
  if sh.lk != x.lk || sh.clearing then none else sh.banks[addr / 2 ^ 17]?

/-- Hands a chunk to a bank as one item of its order, or fails it when the share is gone (R275). -/
def State.chunkToBank (s : State) (o : Nat) (x : Cmd) (k addr : Nat) (w : Work) : State :=
  match s.cmdBank o x addr with
  | none => s.endChunk o x.id k (some (.engine, addr)) 0
  | some b => s.pushItem o b { work := w, slot := 64, lk := x.lk }

/-- A chunk whose source or converted elements were read goes on to its bank. -/
def State.chunkData (s : State) (o : Nat) (x : Cmd) (k addr : Nat) (r : Except Cause (List Byte × List Nat)) : State :=
  match r with
  | .error e => s.endChunk o x.id k (some (e, addr)) 0
  | .ok (bs, vs) => s.chunkToBank o x k x.sd.toNat (.chunkW o x.id k bs vs)

/-- The bytes that a chunk has in hand from a bank go to their destination in memory, piece by piece. -/
def State.putPieces (s : State) (c o : Nat) (x : Cmd) : List (Nat × Nat × Nat) → List Byte → Nat → (Option (Cause × Nat) × Nat) × State
  | [], _, w => ((none, w), s)
  | (_, d, n) :: ps, bs, w =>
    match s.engineWrite c o x d (bs.take n) with
    | (some e, s) => ((some (e, d), if e = .engine then w + n else w), s)
    | (none, s) => State.putPieces s c o x ps (bs.drop n) (w + n)

/-- A chunk no longer has bytes in hand. -/
def State.dropGot (s : State) (o id k : Nat) : State :=
  match (s.core o).cmd? id with
  | some x => s.putCmd o { x with got := x.got.del k }
  | none => s

/-- An engine performs a chunk: reads, and writes or hands the data to a bank (R275). -/
def State.performChunk (s : State) (c o : Nat) (x : Cmd) (k : Nat) : State :=
  if k = shapeChunk then s.readShape o x
  else if k = layoutChunk then s.writeLayout o x
  else match x.kind with
  | .cpbank =>
    (match x.got.find k with
      | some bs =>
        let ((r, w), s) := s.putPieces c o x (x.segs k) bs 0
        (s.dropGot o x.id k).endChunk o x.id k r w
      | none => s.chunkToBank o x k x.sa.toNat (.chunkR o x.id k))
  | .cpretile =>
    let (r, s) := s.tensorBlock c x k
    s.chunkData o x k x.sa.toNat (r.map (fun v => ([], v)))
  | .cpkey =>
    let w := fmtBits (slotEF x.fs)
    let (r, s) := s.engineSpan c x ((x.sa.toNat + 4 * w * k) % 2 ^ 64) (4 * w)
    s.chunkData o x k x.sa.toNat (r.map (fun bs => ([], (List.range 32).map (packed bs w))))
  | _ =>
    if x.db then
      let (r, s) := s.gather c x k
      s.chunkData o x k x.sa.toNat (r.map (fun bs => (bs, [])))
    else
      let ((r, w), s) := s.copyPieces c o x (x.segs k) (x.chunkSpan k).1 0
      s.endChunk o x.id k r w

-- ## What a chunk waits for before it is performed (R66, R74, R86, R185, R189)

/-- What a chunk reads and writes in memory: address, bytes, and whether it writes. -/
def Cmd.spans (x : Cmd) (k : Nat) : List (Nat × Nat × Bool) :=
  if k = shapeChunk then [(x.sa.toNat, 64, false)]
  else if k = layoutChunk then [(x.sa.toNat + 48, 8, true)]
  else
    let w := fmtBits (slotEF x.fs)
    let g (n : Nat) : Nat := x.shape.getD n 0
    match x.kind with
    | .cpretile =>
      let rows := (List.range 32).filter (fun r => decide (32 * k + r < g 2))
      rows.map (fun r => ((g 0 + (32 * k + r) * g 3) % 2 ^ 64, (g 1 * w + 7) / 8, false))
        ++ (if slotSM x.fs = 1 then [((g 4 + 2 * (k * g 1)) % 2 ^ 64, 2 * g 1, false)] else [])
    | .cpkey => [((x.sa.toNat + 4 * w * k) % 2 ^ 64, 4 * w, false)]
    | .cpbank => if x.db ∨ (x.got.find k).isNone then [] else (x.segs k).map (fun p => (p.2.1, p.2.2, true))
    | .cpfill => if x.db then [] else (x.segs k).map (fun p => (p.2.1, p.2.2, true))
    | _ => (x.segs k).flatMap (fun p => (p.1, p.2.2, false) :: (if x.db then [] else [(p.2.1, p.2.2, true)]))

/-- The same in pieces, each within one line; those outside the leased ranges are left out, their fault comes as the chunk is
performed. -/
def State.chunkPieces (s : State) (x : Cmd) (k : Nat) : List (Nat × Bool) :=
  ((x.spans k).flatMap (fun a => (linePieces (a.2.1 / 128 + 2) a.1 a.2.1).map (fun p => (p, a.2.2)))).filterMap (fun p =>
    if (s.launch x.lk).leased p.1.1 p.1.2 then some (p.1.1, p.2) else none)

/-- What keeps a chunk from being performed. -/
inductive Gate where
  | go
  /-- Pages that no TLB holds: address, and whether it is written (R66). -/
  | walk (pages : List (Nat × Bool))
  /-- A page move holds a line (R74). -/
  | moving
  /-- Requests that stand before it at a line (R185, R189). -/
  | stand (reqs : List Nat)
  /-- Lines that the host may cache and the chunk writes (R86). -/
  | snoop (lines : List Nat)
  deriving DecidableEq, Repr, Inhabited

/-- Pages of a chunk that have to be walked for: one address of each. -/
def State.chunkMisses (s : State) (c : Nat) (x : Cmd) (k : Nat) : List (Nat × Bool) :=
  let miss (p : Nat × Bool) : Bool := (s.tlbPeek c (s.launch x.lk).ctx p.1).isNone
    && !x.walkBad.any (fun b => b.1 == k && b.2.1 == p.1 / 65536)
  ((s.chunkPieces x k).filter miss).foldl (fun ps p => if ps.any (fun q => q.1 / 65536 == p.1 / 65536) then ps else ps ++ [p]) []

/-- Physical addresses of a chunk's pieces, and whether each is written. -/
def State.chunkPas (s : State) (c : Nat) (x : Cmd) (k : Nat) : List (Nat × Bool) :=
  (s.chunkPieces x k).filterMap (fun p =>
    (s.tlbPeek c (s.launch x.lk).ctx p.1).map (fun e => (physOf e.leaf e.lg p.1, p.2)))

/-- What keeps a chunk from being performed. It reads and fills its lines only while no store of its die is on its way to them,
so that no copy it fills is older than a store that has passed the die cache (R189, R190). -/
def State.chunkGate (s : State) (c : Nat) (x : Cmd) (k : Nat) : Gate :=
  let misses := s.chunkMisses c x k
  if !misses.isEmpty then .walk misses
  else
    let ps := s.chunkPas c x k
    if ps.any (fun p => s.moving p.1 (!p.2)) then .moving
    else
      let stand := (ps.flatMap (fun p =>
        if !p.2 && (s.dieCopy (dieOf c) x.atP (p.1 / 128)).isSome then [] else s.lineWaits (dieOf c) (p.1 / 128))).eraseDups
      let held := ((ps.filter (fun p => p.2 && s.hostCached.contains (p.1 / 128) && !isRegArea p.1)).map (fun p => p.1 / 128)).eraseDups
      if !stand.isEmpty then .stand stand
      else if !held.isEmpty then .snoop held
      else .go

/-- A chunk of a command is performed, or waits for what keeps it. The host's answer to a snoop holds the line for it
meanwhile. -/
def State.chunkTry (s : State) (c o : Nat) (x : Cmd) (k : Nat) : State :=
  let base : Req := { agent := .chunk o x.id k, core := c, die := dieOf c, lk := x.lk, ctx := (s.launch x.lk).ctx, space := 0 }
  let await (s : State) (ids : List Nat) : State := (s.addWait { goal := .chunk o x.id k, reqs := ids, die := dieOf c }).2
  match s.chunkGate c x k with
  | .go => ((s.performChunk c o { x with walkBad := x.walkBad.filter (fun b => b.1 == k) } k).pokeEngine c).pokeEngine o
  | .moving => s.due 100 { unit := o, sub := x.id, item := k } .chunkComplete
  | .stand ids => await s ids
  | .walk ps =>
    let (ids, s) := ps.foldl (fun acc p =>
      let (id, s) := acc.2.walkFor { base with kind := if p.2 then .write else .read, va := p.1 }
      (acc.1 ++ [id], s)) (([] : List Nat), s)
    await s ids
  | .snoop lines =>
    let (ids, s) := lines.foldl (fun acc l =>
      let (id, s) := acc.2.queueHome { base with kind := .write, pa := 128 * l } .backInvalidateResponse
      let s := (s.undue (fun d => d.what = .backInvalidateResponse && d.here.unit == id)).setReq id
        { s.req id with stage := .snoop, slot := 64 }
      (acc.1 ++ [id], (s.tell (.snoop l)).due 1000 { unit := id } .backInvalidateResponse)) (([] : List Nat), s)
    await s ids

/-- What a chunk waited for is over (R66, R86, R185). -/
def State.chunkResume (s : State) (o id k : Nat) : State :=
  match (s.core o).cmd? id with
  | none => s
  | some x =>
    match x.flying.find? (fun f => f.2 == k) with
    | some (c, _) => s.chunkTry c o x k
    | none => if (x.got.find k).isSome then s.chunkTry o o x k else s

/-- CHUNK_COMPLETE (R275). -/
def execChunkComplete (s : State) : Host.Outcome State Fault Refusal :=
  .next (s.chunkResume s.here.unit s.here.sub s.here.item)

-- ## Chunks at a bank (R275, R300)

/-- The bank after the chunk of a byte copy. -/
def Bank.copyIn (b : Bank) : List (Nat × Nat × Nat) → List Byte → Bank
  | [], _ => b
  | (_, d, n) :: ps, bs => Bank.copyIn (b.write (d % 2 ^ 17) (bs.take n)) ps (bs.drop n)

/-- The outputs of a block of a weight matrix, one after another (R279, R300). -/
def Bank.retile (b : Bank) (fs : Dword) (blk : Nat) : Nat → List Nat → List Nat → Word → Bank
  | _, [], _, _ => b
  | n, sc :: scs, codes, l =>
    let (rnds, l) := drawMany fs 32 l
    Bank.retile (b.putWeight fs blk n sc rnds (codes.take 32)) fs blk (n + 1) scs (codes.drop 32) l

/-- The bank after a chunk that writes it (R275, R279, R281). -/
def Bank.takeChunk (b : Bank) (x : Cmd) (lid k : Nat) (bs : List Byte) (vals : List Nat) : Bank :=
  let l := lfsrSeed lid (x.number * 4096 + k)
  match x.kind with
  | .cpretile =>
    let n := x.shape.getD 1 0
    b.retile x.fs (x.b0 + k) (x.g0 * formOpg (slotEF x.fs)) (vals.take n) (vals.drop n) l
  | .cpkey => b.putKey x.fs x.kv (x.b0 + k) (drawMany x.fs 32 l).1 vals
  | _ => b.copyIn (x.segs k) bs

/-- A chunk that writes a bank is performed. -/
def State.bankTakes (s : State) (c b o id k : Nat) (bs : List Byte) (vals : List Nat) : State :=
  match (s.core o).cmd? id with
  | none => s
  | some x =>
    let s := s.setBank c b ((s.bank c b).takeChunk x (s.launch x.lk).lid k bs vals)
    s.endChunk o id k none 0

/-- A chunk that reads a bank is performed: it fails on a word or row group with an error among its bytes, and else has them in
hand. -/
def State.bankGives (s : State) (c b o id k : Nat) : State :=
  match (s.core o).cmd? id with
  | none => s
  | some x =>
    let bank := s.bank c b
    let (lo, hi) := x.chunkSpan k
    let off := (x.sa.toNat + lo) % 2 ^ 17
    if bank.badIn off (hi - lo) then s.endChunk o id k (some (.engine, x.sa.toNat + lo)) 0
    else
      let bs := bank.bytes off (hi - lo)
      if x.db then s.chunkToBank o x k x.sd.toNat (.chunkW o id k bs [])
      else (s.putCmd o { x with got := x.got.set k bs }).chunkResume o id k

end Sys2Proof.Machine
end

