-- ==== Sys2Proof/Machine/Home.lean ====
section
/-! DEFINITION. Requests at their homes and responses at their requesters (R185-R191, R194): the steps READ,
WRITE, WMASK, ATOM_REQUEST, RED_REQUEST, DATA, DONE, BACK_INVALIDATE_RESPONSE, HOST_READ_COMPLETION and
BRIDGE_REQ_TIMEOUT. A step whose item is not there does nothing. -/

namespace Sys2Proof.Machine

-- ## Atomics (Table 18.4)

/-- Signed number of `n` bytes. -/
def sBytes (bs : List Byte) : Int :=
  let v := leNat bs
  if v < 2 ^ (8 * bs.length - 1) then v else Int.ofNat v - 2 ^ (8 * bs.length)

/-- FP32 or FP64 by size. -/
def floatOf (n : Nat) : FpFmt := if n = 8 then fp64 else fp32

/-- New value of an atomic (R399): operand bytes are d, or comparand and new value. -/
def atomNew (aop n : Nat) (old d : List Byte) : List Byte :=
  let a := leNat old
  let b := leNat (d.take n)
  let f := floatOf n
  let half (k : Nat) : Nat :=
    (bf16.add .rne false (bf16.read false (bitsOf a (16 * k) 16)) (bf16.read false (bitsOf b (16 * k) 16))).1
  match aop with
  | 0x00 => toLe n (a + b)
  | 0x01 => if sBytes (d.take n) < sBytes old then d.take n else old
  | 0x02 => if sBytes old < sBytes (d.take n) then d.take n else old
  | 0x03 => toLe n (min a b)
  | 0x04 => toLe n (max a b)
  | 0x05 => toLe n (a &&& b)
  | 0x06 => toLe n (a ||| b)
  | 0x07 => toLe n (a ^^^ b)
  | 0x08 => d.take n
  | 0x09 => if a = b then slice d n n else old
  | 0x0A => toLe n (f.add .rne false (f.read false a) (f.read false b)).1
  | 0x0B => toLe 2 (half 0) ++ toLe 2 (half 1)
  | 0x0C => toLe n (f.minMax false false false a b).1
  | _ => toLe n (f.minMax true false false a b).1

-- ## Order at a home (R74, R75, R185)

/-- Another request stands before one at its home: it is being served by the host, or it waits, and came before. -/
def Req.ahead (r o : Req) : Bool :=
  o.line == r.line && (o.stage == .snoop || o.stage == .host
    || ((o.stage == .held || (o.stage == .home && o.ticket != 0)) && (r.ticket == 0 || decide (o.ticket < r.ticket))))

/-- The line of a request is busy. -/
def State.lineBusy (s : State) (id : Nat) (r : Req) : Bool :=
  s.reqs.any (fun e => e.1 != id && e.2.space != 3 && e.2.space != 1 && r.ahead e.2)

/-- The move that holds a request (R74). -/
def State.movedBy (s : State) (r : Req) : Option Nat := if r.space = 1 then none else (s.moves.find? (fun e => s.moveStops e.2 r.pa (r.kind == .read))).map Prod.fst

/-- A request is held by a move. -/
def State.holdMove (s : State) (id m : Nat) : State :=
  { s with moves := s.moves.upd {} m (fun x => { x with held := x.held ++ [id] }) }

/-- A request waits at its home; it keeps the place it has, if it waited before. -/
def State.holdReq (s : State) (id : Nat) (st : Stage) : State :=
  let r := s.req id
  if r.ticket = 0 then
    let (t, s) := s.take
    s.setReq id { r with stage := st, ticket := t }
  else s.setReq id { r with stage := st }

/-- Requests held at a line, in arrival order, come up again. -/
def State.wakeLine (s : State) (line : Nat) : State :=
  let moved := s.moves.flatMap (fun e => e.2.held)
  let hits := sortBy (fun (a b : Nat × Req) => decide (a.2.ticket ≤ b.2.ticket))
    (s.reqs.filter (fun e => e.2.stage == .held && e.2.line == line && !moved.contains e.1))
  hits.foldl (fun s e =>
    if (s.req e.1).stage = .held then
      (s.setReq e.1 { s.req e.1 with stage := .home }).due 0 { unit := e.1 } (homeStep e.2.kind)
    else s) s

/-- A request is due at a requester. -/
def State.reply (s : State) (id : Nat) : State :=
  let r := s.req id
  let s := s.respondTo id
  if r.ticket = 0 then s else s.wakeLine r.line

/-- A request that its home rejects (R57, R147): data that never comes, or a late fault. -/
def State.reject (s : State) (id : Nat) : State :=
  let r := s.req id
  let s := s.setReq id { r with status := 1 }
  match r.kind with
  | .read | .atom => s.reply id
  | _ => (if r.agent != .thread || r.srcDev.isSome then s else s.raiseLate r.lk (s.lateRec r .perm r.die 0)).reply id

-- ## READ (R186)

/-- The home of a request, or its requester, has failed by its time base (R20). -/
def State.deadDie (s : State) (r : Req) : Option Nat :=
  let h := homeDie (s.homeOf r.pa)
  if (s.die h).failed then some h else if (s.die r.srcDie).failed then some r.srcDie else none

/-- The home serves a fill: the line's value now, a lease, or the error of a poisoned line (R24, R186). -/
def State.serveRead (s : State) (id : Nat) : State :=
  let r := s.req id
  let miss := s.missTicks r.pa
  let s := s.countRac r.die r.pa
  let g := max (s.nowAt (homeDie (s.homeOf r.pa))) r.q
  let x := g + leaseLen (min r.lclass s.leaseCap.toNat)
  let s := if r.cacheable then
      { s with lease := s.lease.set r.line (max x (s.lease.get 0 r.line)),
               hlx := if s.homeOf r.pa = .host then max s.hlx x else s.hlx }
    else s
  let st := if s.poison.contains r.line then 2 else 0
  let (n, s) := s.take
  (s.setReq id { r with g := g, x := x, serial := n, status := st, miss := miss, answer := s.bytes r.pa r.size,
                        data := s.bytes (r.line * 128) 128 }).reply id

/-- READ (R186, R87): a register area answers with its own registers, host memory is read over the host
port (R185), any other home serves the line. -/
def execReadHome (s : State) : Host.Outcome State Fault Refusal :=
  let id := s.here.unit
  match s.reqs.find id with
  | none => .next s
  | some r =>
    if r.stage != .home then .next s
    else if let some d := s.deadDie r then .next (s.failDead id d)
    else if s.lineBusy id r then .next (s.holdReq id .held)
    else if let some m := s.movedBy r then .next ((s.holdReq id .held).holdMove id m)
    else if isRegArea r.pa then
      let p := bitsOf r.pa 12 6
      let bs := if p = r.ctx ∧ r.srcDev.isNone then (s.ctx p).pageBytes (r.pa % 4096) r.size
        else List.replicate r.size 0
      .next ((s.setReq id { r with answer := bs }).reply id)
    else match s.homeOf r.pa with
      | .hole => .next (s.reject id)
      | .host => .next (((s.holdReq id .host).tell (.snoop r.line)).due 1440 { unit := id } .hostReadCompletion)
      | _ => .next (s.serveRead id)

-- ## WRITE, WMASK (R190)

/-- Bytes a request writes: a masked write keeps the bytes outside its mask. -/
def State.newBytes (s : State) (r : Req) : List Byte :=
  match r.kind with
  | .wmask => (List.range r.size).map (fun k => if r.mask.getD k false then r.data.getD k 0 else s.byte (r.pa + k))
  | _ => r.data.take r.size

/-- A store that was applied to part of a poisoned line: a late fault of a thread's launch, or an error response to another
device (R24, R55, R147). -/
def State.lateEcc (s : State) (id : Nat) : State :=
  let r := s.req id
  if r.agent != .thread then s
  else if r.srcDev.isSome then s.setReq id { r with status := 2 } else s.raiseLate r.lk (s.lateRec r .ecc r.die 0)

/-- A request writes every byte of its line. -/
def Req.whole (r : Req) : Bool :=
  r.pa % 128 == 0 && r.size == 128 && (r.kind != .wmask || (List.range 128).all (fun k => r.mask.getD k false))

/-- A write is applied at its home, which answers with the GWCT (R190); one that writes part of a poisoned
line is also a late fault (R24, R147). A line that the host writes is one it may cache (R86). -/
def State.serveWrite (s : State) (id : Nat) : State :=
  let r := s.req id
  let part := s.poison.contains r.line && !r.whole
  let s := (s.setReq id { r with gwct := s.gwctOf r.line, miss := s.missTicks r.pa }).countRac r.die r.pa
  let s := s.applyPart r.pa (s.newBytes r) r.whole
  let s := if part then s.lateEcc id else s
  let s := if r.agent = .host then { s with hostCached := r.line :: s.hostCached.filter (· != r.line) } else s
  s.reply id

/-- A device write to a host-window line that the host may cache waits for the host (R86). -/
def State.mustSnoop (s : State) (r : Req) : Bool :=
  s.homeOf r.pa == .window && r.agent != .host && s.hostCached.contains r.line

/-- A write to a register area (R87, R93): its own context's notify store, or a register write. -/
def State.serveRegWrite (s : State) (id : Nat) : State :=
  let r := s.req id
  let p := bitsOf r.pa 12 6
  if p = r.ctx ∧ r.srcDev.isNone ∧ r.isNotify then
    let s := s.setReq id { r with stage := .resp }
    s.arriveNotify p { recPtr := BitVec.ofNat 64 (leNat (r.data.take 8)),
                       argPtr := BitVec.ofNat 64 (leNat (slice r.data 8 8)), req := some id }
  else if r.isNotify then s.notifyAnswer { req := some id }
  else
    let s := if p = r.ctx ∧ r.srcDev.isNone then s.pageWrite p (r.pa % 4096) (s.newBytes r) else s
    (s.setReq id { r with gwct := s.now + 2 }).reply id

/-- A write at its home. -/
def writeStep (s : State) : State :=
  let id := s.here.unit
  match s.reqs.find id with
  | none => s
  | some r =>
    if r.stage != .home then s
    else if let some d := s.deadDie r then s.failDead id d
    else if s.lineBusy id r then s.holdReq id .held
    else match s.movedBy r with
      | some m =>
        (s.holdReq id .held).holdMove id m
      | none =>
        if isRegArea r.pa then s.serveRegWrite id
        else if s.homeOf r.pa = .hole then s.reject id
        else if s.mustSnoop r then ((s.holdReq id .snoop).tell (.snoop r.line)).due 1000 { unit := id } .backInvalidateResponse
        else s.serveWrite id

/-- WRITE (R190, R86, R110). -/
def execWriteHome (s : State) : Host.Outcome State Fault Refusal := .next (writeStep s)

/-- WMASK (R190). -/
def execWmaskHome (s : State) : Host.Outcome State Fault Refusal := .next (writeStep s)

-- ## ATOM_REQUEST, RED_REQUEST (R191)

/-- Atomics with return of the same instruction whose lines are poisoned, by their numbers (R141). -/
def State.badAtoms (s : State) (r : Req) : List Nat :=
  if r.agent != .thread || r.srcDev.isSome then []
  else s.reqsWith (fun _ o => o.ins == r.ins && o.kind == .atom && o.local && o.stage != .resp && s.poison.contains o.line)

/-- Another atomic with return of the instruction has met an error, or would: the instruction is performed for no lane. -/
def State.atomSpoilt (s : State) (r : Req) : Bool :=
  r.kind == .atom && r.agent == .thread && r.srcDev.isNone
    && (!(s.badAtoms r).isEmpty || ((s.ins.find r.ins).map (fun n => n.bad != 0)).getD false)

/-- The lanes of accesses that read bad data stand in the mask of their instruction's fault, the lowest with its DETAIL (R141). -/
def Ins.spoil (n : Ins) (rs : List (Req × Nat)) : Ins :=
  rs.foldl (fun n r => n.note r.1.lane .ecc r.1.va r.2) n

/-- An atomic is applied at its home as one step (R191, R399); one with return to a poisoned line is not
applied, nor any other of its instruction from then on; one without return is, as a late fault (R24, R141, R147). -/
def State.serveAtom (s : State) (id : Nat) : State :=
  let r := s.req id
  let g := s.gwctOf r.line
  let miss := s.missTicks r.pa
  let s := s.countRac r.die r.pa
  let bad := s.poison.contains r.line
  let old := s.bytes r.pa r.size
  if (r.kind = .atom ∨ r.agent = .logic) ∧ bad then (s.setReq id { r with status := 2, miss := miss }).reply id
  else if s.atomSpoilt r then
    let n := (s.ins.get {} r.ins).spoil ((s.badAtoms r).map (fun k => (s.req k, 0)))
    (({ s with ins := s.ins.set r.ins n }).setReq id { r with status := 4, miss := miss }).reply id
  else
    let s := s.setReq id { r with gwct := g, answer := old, miss := miss }
    let s := s.applyWrite r.pa (atomNew r.aop r.size old r.data)
    let s := if bad then s.lateEcc id else s
    s.reply id

/-- An atomic in a register area reads the registers and writes the result as any write (R87). -/
def State.serveRegAtom (s : State) (id : Nat) : State :=
  let r := s.req id
  let p := bitsOf r.pa 12 6
  let own := p == r.ctx && r.srcDev.isNone
  let old := if own then (s.ctx p).pageBytes (r.pa % 4096) r.size else List.replicate r.size 0
  let s := if own then s.pageWrite p (r.pa % 4096) (atomNew r.aop r.size old r.data) else s
  (s.setReq id { r with gwct := s.now + 2, answer := old }).reply id

/-- An atomic at its home: in host memory the read half goes over the host port (R203). -/
def atomStep (s : State) : State :=
  let id := s.here.unit
  match s.reqs.find id with
  | none => s
  | some r =>
    if r.stage != .home then s
    else if let some d := s.deadDie r then s.failDead id d
    else if s.lineBusy id r then s.holdReq id .held
    else match s.movedBy r with
      | some m =>
        (s.holdReq id .held).holdMove id m
      | none =>
        if isRegArea r.pa then s.serveRegAtom id
        else match s.homeOf r.pa with
          | .hole => s.reject id
          | .host => ((s.holdReq id .host).tell (.snoop r.line)).due 1440 { unit := id } .hostReadCompletion
          | _ => if s.mustSnoop r then
                ((s.holdReq id .snoop).tell (.snoop r.line)).due 1000 { unit := id } .backInvalidateResponse
              else s.serveAtom id

/-- ATOM_REQUEST (R191, R399). -/
def execAtomHome (s : State) : Host.Outcome State Fault Refusal := .next (atomStep s)

/-- RED_REQUEST (R191, R399). -/
def execRedHome (s : State) : Host.Outcome State Fault Refusal := .next (atomStep s)

/-- The host's answer to a snoop: it caches the line no more, and the held write is applied (R86). -/
def execBackInvalidateResponse (s : State) : Host.Outcome State Fault Refusal :=
  let id := s.here.unit
  match s.reqs.find id with
  | none => .next s
  | some r =>
    if r.stage != .snoop then .next s
    else
      let s := { s with hostCached := s.hostCached.filter (· != r.line) }
      if r.agent != .thread && r.agent != .logic then
        .next (((s.dropReq id).touchWaits (fun w => w.without id 0)).wakeLine r.line)
      else
      .next (match r.kind with
        | .atom | .red => s.serveAtom id
        | _ => s.serveWrite id)

/-- Data of a host-memory read return; the fill or the atomic goes on (R185, R203). -/
def execHostReadCompletion (s : State) : Host.Outcome State Fault Refusal :=
  let id := s.here.unit
  match s.reqs.find id with
  | none => .next s
  | some r =>
    if r.stage != .host then .next s
    else .next (match r.kind with
      | .read => s.serveRead id
      | _ => s.serveAtom id)

-- ## DATA and DONE at the requester

/-- The copies a fill installs at the levels it passes (R186, R189). -/
def State.install (s : State) (r : Req) : State :=
  if r.kind != .read || !r.cacheable || r.status != 0 then s
  else
    let l : Line := { data := r.data, g := r.g, x := r.x, serial := r.serial }
    let s := if r.passedDie then s else s.fillDie (dieOf r.core) r.ctx r.va r.line l
    if r.passedL1 || r.dieOnly then s else s.fillL1 r.core r.line l

/-- A retire add that its home has not applied is waited for as such (R111). -/
def Wait.spoilt (w : Wait) (id : Nat) : Wait :=
  match w.goal with
  | .added lk _ => if w.reqs.contains id then { w with goal := .added lk false } else w
  | _ => w

/-- A response is counted by every wait and by the die that forwarded it (R194). -/
def State.counted (s : State) (id : Nat) (r : Req) : State :=
  let s := if r.isStore then s.seeGwct r.srcDie r.gwct else s
  s.touchWaits (fun w => (if r.status = 0 then w else w.spoilt id).without id r.gwct)

/-- A request has its response: its time is no longer counted (R43). -/
def State.untime (s : State) (id : Nat) : State :=
  s.undue (fun d => d.what = .bridgeReqTimeout && d.here.unit == id)

/-- The response to a request of another device leaves once its GWCT has passed (R208). -/
def State.answerRemote (s : State) (id : Nat) : State :=
  ((s.touchWaits (fun w => w.without id 0)).addWait { goal := .remote id, need := (s.req id).gwct, die := (s.req id).die }).2

/-- A response is taken by its requester: a copy is kept, waits count it, and the thread has its bytes, or what failed. -/
def State.takeResponse (s : State) (id : Nat) (r : Req) : State :=
  if r.srcDev.isSome then (s.untime id).answerRemote id
  else
    let s := ((s.install r).counted id r).untime id
    if r.prefetch then s.dropReq id
    else
      let s := match r.kind, r.status with
        | .read, 0 | .atom, 0 => s.answerReq id r.answer
        | .read, 1 | .atom, 1 => s.failReq id .perm r.va 0
        | .read, 2 | .atom, 2 => s.failReq id .ecc r.va 0
        | _, _ => s.answerReq id []
      (s.settleIns r.ins).pumpCore r.core

/-- The data or the result of a bank is written (R213, R412). -/
def State.bankArrive (s : State) (id : Nat) : State :=
  match s.ins.find id with
  | none => s
  | some n =>
    let s := (s.finishLoad id).pumpCore n.core
    if (s.launch (s.quire n.core n.slot).lk).stopping then s.dueOnce 0 { unit := n.core } .engineStopAck else s

/-- The value another device answers with, undefined here: nothing says what stands in its memory (log entry 52). -/
def State.farBytes (s : State) (id : Nat) : State :=
  let r := s.req id
  let (v, s) := s.undef
  let (u, s) := s.undef
  s.setReq id { r with stage := .resp, answer := (toLe 8 v.toNat ++ toLe 8 u.toNat).take r.size }

/-- DATA (R189, R196); of a remote access, the answer of the other device (R54). -/
def execDataArrive (s : State) : Host.Outcome State Fault Refusal :=
  if s.here.sub = 1 then .next (s.bankArrive s.here.unit) else
  let id := s.here.unit
  match s.reqs.find id with
  | none => .next s
  | some r =>
    if r.stage == .remote && !r.lost && r.brings then
      let s := s.farBytes id
      .next (s.takeResponse id (s.req id))
    else if r.stage != .resp then .next s
    else .next (s.takeResponse id r)

/-- DONE (R194). -/
def execDoneArrive (s : State) : Host.Outcome State Fault Refusal :=
  let id := s.here.unit
  match s.reqs.find id with
  | none => .next s
  | some r =>
    if r.stage != .resp && (r.stage != .remote || r.lost || r.brings) then .next s
    else .next (s.takeResponse id r)

/-- A request under way on the bridges or at its home. -/
def Req.bridged (r : Req) : Bool :=
  !r.lost && (r.stage == .snoop || r.stage == .host || r.stage == .held || r.stage == .home || r.stage == .resp)

/-- A bridge request without a response after 200 µs completes no more: it fails its launch with LINK, a prefetch raises no
fault, and that of another device is answered with LINK (R40, R43, R55, R147, R402, Table 6.5). -/
def execBridgeReqTimeout (s : State) : Host.Outcome State Fault Refusal :=
  let id := s.here.unit
  match s.reqs.find id with
  | none => .next s
  | some r =>
    if !r.bridged || decide (s.now < r.issued + 200000) then .next s
    else if r.prefetch then .next ((s.dropReq id).wakeLine r.line)
    else if r.srcDev.isSome then .next ((s.setReq id { r with stage := .resp, status := 3 }).answerRemote id)
    else
      let h := homeDie (s.homeOf r.pa)
      .next (((s.raiseLate r.lk (s.lateRec r .link r.die h)).loseReq id).wakeLine r.line)

end Sys2Proof.Machine
end

