-- ==== Sys2Proof/Machine/BankWork.lean ====
section
/-! DEFINITION. The work orders of banks and the Codex store (R206, R213-R219, R230, R241-R252): the steps
BANK_CONVERSION_START, BANK_CONVERSION_COMPLETE, BANK_ITEM_BEGIN, PASS_END, BEXEC_START, END, CAP, BCODEX_ACCEPT
and CODEX_WRITE_COMPLETE. -/

namespace Sys2Proof.Machine

/-- Ticks of some cycles of a core's island, rounded up. -/
def State.ticksOf (s : State) (c n : Nat) : Nat := (s.parts c n + (tickParts - 1)) / tickParts

/-- A moment of a bank's work: as counted, or now where the work stood still in between. -/
def State.moment (s : State) (m : Nat) : Nat := if s.now * tickParts ≤ m + tickParts then m else s.now * tickParts

/-- An engine of a core that is being stopped looks whether it may acknowledge (R159). -/
def State.pokeStop (s : State) (c lk : Nat) : State :=
  if (s.launch lk).stopping then s.dueOnce 0 { unit := c } .engineStopAck else s

/-- The `bwait`s of a core that are complete end (R415). -/
def State.retryBwaits (s : State) (c : Nat) : State :=
  (s.core c).quires.foldl (fun s e =>
    let j := e.1
    let ids := ((e.2.threads.flatMap (fun t => t.2.outst.filter (fun o => !o.banks.isEmpty))).map (fun o => (o.id, o.banks))).eraseDups
    ids.foldl (fun s o =>
      if o.2.all (s.bwaitOver c j o.1) then s.finishOutst c j (maskOf (List.range 32)) o.1 else s) s) s

/-- Moment at which the head of a bank's order began: as it reached the bank, or as the item before it ended. -/
def State.beganAt (s : State) (c b : Nat) (it : Item) : Nat := s.moment (max it.since (s.bank c b).freeAt)

/-- Makes a step of a bank due at a moment. -/
def State.dueMoment (s : State) (m : Nat) (h : Here) (i : Instr) : State := s.due (s.ticksTo m) h i

/-- The item at the head of a bank's order has been performed; it occupies the bank until a time (Table 9.8). -/
def State.itemDone (s : State) (c b free : Nat) (it : Item) : State :=
  let k := s.bank c b
  let s := (s.setBank c b { k with queue := k.queue.drop 1, busy := false, freeAt := free, lastPass := match it.work with
    | .bmvm .. => true
    | _ => false }).kickBank c b
  let s := s.retryBwaits c
  let s := if it.slot < 64 then s.retryArrivals c it.slot else s
  s.pokeStop c it.lk

/-- The result of a bank instruction is on its way to the lanes that await it: it is written 8 cycles from a moment
(R412). -/
def State.bankResult (s : State) (c t id vd : Nat) (f : Nat → Word) : State :=
  match s.ins.find id with
  | none => s
  | some n =>
    let buf := (lanesOf n.lanes).foldl (fun buf i => Tab.setMany buf (64 * i) (toLe 4 (f i).toNat)) n.buf
    let s := { s with ins := s.ins.set id { n with buf := buf, result := .load 2 vd } }
    s.dueMoment (t + s.parts c 8) { unit := id, sub := 1 } .dataArrive

-- ## Lane accesses at a bank (R206, R213, R390)

/-- Share bank index of a physical bank, for a fault record. -/
def Core.bankIndex (k : Core) (b : Nat) : Nat :=
  ((Tab.vals k.shares).findSome? (fun (x : Share) => x.banks.findIdx? (· == b))).getD 0

/-- DETAIL of an ECC fault in a storage word (Table 6.5). -/
def wordDetail (idx w : Nat) : Nat :=
  idx + w / 16 * 2 ^ 4 + (if w % 16 = 0 then 0 else groupOf (8 * (w % 16))) * 2 ^ 14 + 2 ^ 17 + w % 16 * 2 ^ 20

/-- Storage words with wrong check bits among some bytes, lowest first. -/
def Bank.wrongWords (b : Bank) (off n : Nat) : List Nat :=
  sortNat (b.badW.filter (fun w => decide (off < 8 * w + 8) && decide (8 * w < off + n)))

/-- DETAIL of the error that an access meets at its bank. -/
def State.bankDetail (s : State) (r : Req) : Nat :=
  wordDetail ((s.core r.core).bankIndex r.bank) (((s.bank r.core r.bank).wrongWords (r.va % 2 ^ 17) r.size).headD 0)

/-- Atomics with return of an instruction that a wrong word awaits at their banks, with the DETAIL of each (R141). -/
def State.badBankAtoms (s : State) (ins : Nat) : List (Req × Nat) :=
  ((s.reqs.filter (fun e => e.2.ins == ins && e.2.space == 1 && e.2.kind == .atom
    && !((s.bank e.2.core e.2.bank).wrongWords (e.2.va % 2 ^ 17) e.2.size).isEmpty)).map Prod.snd).map (fun r => (r, s.bankDetail r))

/-- An atomic with return is not applied once another of its instruction has met an error, or would (R141). -/
def State.spoilBank (s : State) (ins : Nat) : State :=
  match s.ins.find ins with
  | some n => { s with ins := s.ins.set ins (n.spoil (s.badBankAtoms ins)) }
  | none => s

/-- The instruction of an access has met an error. -/
def State.insBad (s : State) (ins : Nat) : Bool := ((s.ins.find ins).map (fun n => n.bad != 0)).getD false

/-- One access of a lane is applied (R24, R206, R390). `k0` is the bank before the instruction: every lane
that reads a wrong word stands in the mask (R141), though the first one that meets it has it scrubbed (R155). -/
def State.bankAccess (s : State) (c b : Nat) (k0 : Bank) (id : Nat) : State :=
  match s.reqs.find id with
  | none => s
  | some r =>
    let k := s.bank c b
    let off := r.va % 2 ^ 17
    let s := s.touchWaits (fun w => w.without id 0)
    match r.kind, k0.wrongWords off r.size with
    | .write, _ | .wmask, _ => (s.setBank c b (k.write off (r.data.take r.size))).answerReq id []
    | kind, w :: ws =>
      let s := s.setBank c b ((w :: ws).foldl Bank.zeroWord k)
      let d := wordDetail ((s.core c).bankIndex b) w
      if kind = .red then (s.raiseLate r.lk (s.lateRec r .ecc (dieOf c) d)).answerReq id []
      else s.failReq id .ecc r.va d
    | .read, [] => s.answerReq id (k.bytes off r.size)
    | kind, [] =>
      if kind = .atom ∧ s.insBad r.ins then s.answerReq id []
      else
        let old := k.bytes off r.size
        let s := s.setBank c b (k.write off (atomNew r.aop r.size old r.data))
        s.answerReq id (if kind = .atom then old else [])

/-- Rows of a bank that an access reads or writes: a `.b` access may straddle two (R391). -/
def Req.rows (r : Req) : List Nat := [r.va % 2 ^ 17 / 128, (r.va % 2 ^ 17 + r.size - 1) / 128]

/-- Cycles an item occupies its bank (Table 9.8). -/
def Work.cycles (s : State) : Work → Nat
  | .access reqs => max 1 ((reqs.flatMap (fun k => (s.req k).rows)).eraseDups.length)
  | .bclr _ | .bkey .. => 4
  | .bkscale .. | .bacc .. => 2
  | .micro .. => 1
  | .chunkW o id n .. => (((s.core o).cmd? id).map (fun x => x.chunkRows n true)).getD 0
  | .chunkR o id n => (((s.core o).cmd? id).map (fun x => x.chunkRows n false)).getD 0
  | _ => 0

/-- The accesses of one instruction at a bank, in ascending lane order. -/
def State.bankAccesses (s : State) (c b : Nat) (it : Item) (reqs : List Nat) : State :=
  let k0 := s.bank c b
  let wait (r : Req) : Nat := if r.kind = .read then 11 else if r.kind = .atom then 15 else 0
  let lat := (reqs.map (fun k => wait (s.req k))).foldl max 0
  let s := match s.ins.find it.ins with
    | some n =>
      if lat = 0 then s
      else
        let t := s.beganAt c b it + s.parts c (lat + Work.cycles s (.access reqs))
        { s with ins := s.ins.set it.ins { n with arrives := max n.arrives (s.now + s.ticksTo t) } }
    | none => s
  let s := s.spoilBank it.ins
  let s := (reqs.foldl (fun s k => s.bankAccess c b k0 k) s).settleIns it.ins
  s.pumpCore c

-- ## Items

/-- Roundings of the elements of a `bkey` (R299, R416). -/
def keyRounds (fs : Dword) (elems : List (Nat × Nat × Bool)) : List Rnd :=
  elems.map (fun e => match slotRND fs with
    | 0 => .rne
    | 1 => .rtz
    | _ => .sr e.2.1)

/-- Registers of a single micro-operation (R420). -/
def singleMicro (w : Dword) (cp : List Nat) : Micro := { words := [w], cp := cp, bp := cp }

/-- An item other than a pass, a microprogram or a conversion is performed. -/
def State.performItem (s : State) (c b : Nat) (it : Item) : State :=
  let k := s.bank c b
  match it.work with
  | .access reqs => s.bankAccesses c b it reqs
  | .bclr what => s.setBank c b (k.clear what)
  | .bkey fs kv blk elems => s.setBank c b (k.putKey fs kv blk (keyRounds fs elems) (elems.map Prod.fst))
  | .bkscale kv vals => s.setBank c b (k.putScales kv vals)
  | .micro w cp vd =>
    let (k, m) := microOp k (singleMicro w cp) w
    let s := s.setBank c b k
    match vd with
    | none => s
    | some d => s.bankResult c (s.beganAt c b it) it.ins d (fun i => if i % 4 = mw w 4 2 then BitVec.ofNat 32 (m.rv.getD (mw w 4 2) 0 % 2 ^ 31) else 0)
  | .bacc fs w clr vd =>
    let s := s.bankResult c (s.beganAt c b it) it.ins vd (k.port fs w)
    if clr then s.setBank c b (k.clearWindow w) else s
  | .chunkW o id n bs vals => s.bankTakes c b o id n bs vals
  | .chunkR o id n => s.bankGives c b o id n
  | _ => s

/-- An item does not begin in a pause of its bank's island: a pass, a microprogram, a conversion, and a chunk that an engine of
another island performs. What an instruction issued before the pause does in a few cycles goes on, and so does a chunk in
flight on an engine of the island (R17, log entry 40). -/
def State.itemPaused (s : State) (c : Nat) (it : Item) : Bool :=
  s.paused.contains (islandOf c) && (match it.work with
    | .chunkW o id n .. | .chunkR o id n =>
      !(((s.core o).cmd? id).map (fun x => x.flying.any (fun f => f.2 == n && islandOf f.1 == islandOf c))).getD false
    | .bmvm .. | .bexec .. | .conv _ => true
    | _ => false)

/-- BANK_ITEM_BEGIN (R230): the head of the order is performed, or a pass begins to count. In an island pause nothing begins
but a chunk of the island's own engines (R17). -/
def execBankItemBegin (s : State) : Host.Outcome State Fault Refusal :=
  let c := s.here.unit
  let b := s.here.sub
  let k := s.bank c b
  if k.busy then .next s
  else match k.queue with
    | [] => .next s
    | it :: _ =>
      if s.itemHeld it || s.itemPaused c it then .next s else
      let s1 := s.setBank c b { k with busy := true }
      match it.work with
      | .conv _ | .bexec .. => .next (s.kickBank c b)
      | .bmvm fs _ _ ng _ _ =>
        let t := if k.lastPass && s.ticksTo k.freeAt == 0 && decide (s.now * tickParts ≤ k.freeAt + tickParts) then
            max it.since (k.freeAt - s.parts c 12) else s.beganAt c b it
        let e := t + s.parts c (ng * formW (slotEF fs) + 12)
        .next ((s1.setBank c b { s1.bank c b with freeAt := e }).dueMoment e { unit := c, sub := b } .passEnd)
      | w => .next ((s1.performItem c b it).itemDone c b (s.beganAt c b it + s.parts c (w.cycles s)) it)

/-- PASS_END (R219, R228). -/
def execPassEnd (s : State) : Host.Outcome State Fault Refusal :=
  let c := s.here.unit
  let b := s.here.sub
  let k := s.bank c b
  match k.queue with
  | it :: _ =>
    match it.work with
    | .bmvm fs kv g0 ng b0 nb =>
      if !k.busy then .next s
      else
        let (k, bad) := k.pass fs kv g0 ng b0 nb
        let s := s.setBank c b k
        let s := match bad with
          | none => { s.finishOutst c it.slot it.lanes it.ins with ins := s.ins.del it.ins }
          | some g => s.faultIns it.ins .ecc it.lanes 0
              ((s.core c).bankIndex b + g / 8 * 2 ^ 4 + g % 8 * 2 ^ 14 + 4 * 2 ^ 17)
        .next (s.itemDone c b (s.bank c b).freeAt it)
    | _ => .next s
  | [] => .next s

-- ## Conversions (R214, R218)

/-- A lane access issued before a conversion was asked for has not been applied (R214). -/
def State.accessBefore (s : State) (c b key : Nat) : Bool :=
  s.reqs.any (fun e => e.2.space == 1 && e.2.core == c && decide (e.2.ins < key) && e.2.bank == b)

/-- The lane accesses that waited for STORAGE wait no more: a store or `red` is over for its threads, and a load or atomic
waits for its data as any other (R215). -/
def State.endToStor (s : State) (c b : Nat) : State :=
  (s.bank c b).queue.foldl (fun s it =>
    match it.work with
    | .access ids =>
      let rs := ids.map s.req
      let lanes := maskOf (rs.map Req.lane)
      if rs.all (fun r => r.isStore && r.kind != .atom) then s.finishOutst c it.slot lanes it.ins
      else s.setQuire c it.slot ((s.quire c it.slot).mapLanes (lanesOf lanes) (fun _ t =>
        { t with outst := t.outst.map (fun o => if o.id = it.ins then { o with reason := .mem } else o) }))
    | _ => s) s

/-- BANK_CONVERSION_START (R214). -/
def execBankConversionStart (s : State) : Host.Outcome State Fault Refusal :=
  let c := s.here.unit
  let b := s.here.sub
  let k := s.bank c b
  match k.queue with
  | it :: _ =>
    match it.work with
    | .conv _ =>
      if k.busy || s.paused.contains (islandOf c) then .next s
      else if s.accessBefore c b it.ins then .next (s.due 4 s.here .bankConversionStart)
      else
        let e := s.beganAt c b it + s.parts c 144
        .next ((s.setBank c b { k with busy := true, freeAt := e }).dueMoment e { unit := c, sub := b } .bankConversionComplete)
    | _ => .next s
  | [] => .next s

/-- BANK_CONVERSION_COMPLETE (R214, R218). -/
def execBankConversionComplete (s : State) : Host.Outcome State Fault Refusal :=
  let c := s.here.unit
  let b := s.here.sub
  let k := s.bank c b
  match k.queue with
  | it :: _ =>
    match it.work with
    | .conv compute =>
      if k.busy then
        let s := (s.setBank c b (k.convert compute)).itemDone c b k.freeAt it
        .next (if compute then s else s.endToStor c b)
      else .next s
    | _ => .next s
  | [] => .next s

-- ## Microprograms (R242, R244, R248, R252)

/-- The words of a slot that a start uses, and whether that copy is malformed (R243, R248). -/
def Core.slotWords (k : Core) (cx : Nat) : List Dword × Bool :=
  if cx < 32 then ((builtinWords cx).getD [], false)
  else
    let x : CxSlot := k.codex.get {} cx
    let y := if x.cur2 then x.second else x.first
    (y.words, y.bad)

/-- The slot after a write: the spare copy becomes the current one (R248). -/
def CxSlot.swap (x : CxSlot) (ws : List Dword) : CxSlot :=
  let y : Copy := { words := ws, bad := badCopy ws }
  { x with first := if x.cur2 then y else x.first, second := if x.cur2 then x.second else y, cur2 := !x.cur2,
           writing := none }

/-- The write into a Codex slot of an instruction completes (R243, R248). -/
def State.finishCodex (s : State) (c cx id : Nat) : State :=
  let k := s.core c
  let x : CxSlot := k.codex.get {} cx
  match x.writing with
  | some (ws, n) =>
    if n != id then s
    else
      let s := s.setCore c { k with codex := k.codex.set cx (x.swap ws) }
      let s := (s.core c).quires.foldl (fun s e => s.finishOutst c e.1 (maskOf (List.range 32)) id) s
      s.pokeStop c (x.owner.getD 0)
  | none => s

/-- The instruction whose write into a slot completes in this very tick: a start in it uses the new copy (R248). -/
def State.completing (s : State) (c cx : Nat) : Option Nat :=
  (s.agenda.find? (fun d => d.what = .codexWriteComplete && d.here.unit == c && d.here.sub == cx && decide (d.tick ≤ s.now))).map
    (fun d => d.here.item)

/-- BEXEC_START (R243, R248). -/
def execBexecStart (s : State) : Host.Outcome State Fault Refusal :=
  let c := s.here.unit
  let b := s.here.sub
  let k := s.bank c b
  match k.queue with
  | it :: _ =>
    match it.work with
    | .bexec cx cp lc0 lc1 lt _ =>
      if k.busy || s.paused.contains (islandOf c) then .next s
      else
        let s := match s.completing c cx with
          | some id => s.finishCodex c cx id
          | none => s
        let (ws, bad) := (s.core c).slotWords cx
        if bad then
          .next (((s.setBank c b { k with busy := true }).faultIns it.ins .codex it.lanes 0 0).itemDone c b (s.beganAt c b it) it)
        else
          let m : Micro := { words := ws, cx := cx, second := ((s.core c).codex.get {} cx : CxSlot).cur2, cp := cp, bp := cp,
                             lc := [lc0, lc1], lr := [lc0, lc1], lt := lt }
          let t := s.beganAt c b it
          .next (((s.setBank c b { k with busy := true, micro := some m, freeAt := t }).passFault c it.slot it.lanes it.ins).dueMoment
            t { unit := c, sub := b } .mpEnd)
    | _ => .next s
  | [] => .next s

/-- A microprogram ends: its results go to the destination (R244). -/
def State.endMicro (s : State) (c b : Nat) (it : Item) (vd : Nat) (m : Micro) (cap : Bool) : State :=
  let t := (s.bank c b).freeAt
  let s := s.setBank c b { s.bank c b with micro := none }
  let s := s.bankResult c t it.ins vd (fun i => BitVec.ofNat 32 (m.rv.getD (i % 4) 0 % 2 ^ 31 + cap.toNat * 2 ^ 31))
  s.itemDone c b t it

/-- A launch is gone, or ends. -/
def State.dead (s : State) (lk : Nat) : Bool :=
  match s.launches.find lk with
  | none => true
  | some l => l.ending.isSome

/-- A built-in that the spec gives by its effect. -/
def Micro.byEffect (m : Micro) : Bool := decide (m.cx < 32) && (builtinWords m.cx).isNone

/-- Up to the next checkpoint of a microprogram: the bank, the registers, and whether it has ended (R238, R252). One given by
its effect counts its micro-operations, and its effect comes with the last. -/
def microLeg (k : Bank) (m : Micro) : Bank × Micro × Bool :=
  let n := 64 - m.xc % 64
  if m.byEffect then
    let all := builtinCycles m.cx m
    (k, { m with xc := min all (m.xc + n) }, decide (all ≤ m.xc + n))
  else microRun n k m

/-- Undefined tags and results that a built-in leaves as it ends (R245). -/
def State.settleMicro (s : State) (c b : Nat) (m : Micro) : Micro × State :=
  let k := s.bank c b
  if m.byEffect then
    let (k, m) := k.builtin m.cx m s.undefs
    (m, ({ s with undefs := s.undefs + builtinUndefs }).setBank c b k)
  else if m.cx = 2 then
    (m, ({ s with undefs := s.undefs + builtinUndefs }).setBank c b
      (rowsOf.foldl (fun x r => x.setTag r (undefTags s.undefs r none)) k))
  else (m, s)

/-- A microprogram stands at a checkpoint and stops there for a pre-emption (R252): nothing has arrived behind it, which would
have to be performed before the save (R159, R217, log entry 26). -/
def State.stopsAt (s : State) (m : Micro) (lk : Nat) (rest : List Item) : Bool :=
  (s.launch lk).stopping && m.xc != 0 && m.xc % 64 == 0 && rest.isEmpty

/-- A microprogram goes on to its next checkpoint; it ends at END or at the cap, and stops at the checkpoint for a
pre-emption that no work behind it holds up, and for the end of its launch (R148, R242, R244, R252). -/
def microTurn (s : State) : State :=
  let c := s.here.unit
  let b := s.here.sub
  let k := s.bank c b
  match k.queue, k.micro with
  | it :: rest, some m =>
    match it.work with
    | .bexec _ _ _ _ _ vd =>
      if s.paused.contains (islandOf c) then s
      else if s.dead it.lk then
        { (s.setBank c b { k with micro := none }).itemDone c b (s.moment k.freeAt) it with ins := s.ins.del it.ins }
      else match m.ending with
      | some cap =>
        let (m, s) := s.settleMicro c b m
        s.endMicro c b it vd m cap
      | none =>
        if s.stopsAt m it.lk rest then s.pokeStop c it.lk
        else
          let (k', m', ended) := microLeg k m
          let cap := decide (microCap ≤ m'.xc)
          let t := s.moment k.freeAt + s.parts c (m'.xc - m.xc)
          let m' := if ended || cap then { m' with ending := some cap } else m'
          (s.setBank c b { k' with micro := some m', freeAt := t }).dueMoment t { unit := c, sub := b } (if cap then .mpCap else .mpEnd)
    | _ => s
  | _, _ => s

/-- END (R244). -/
def execMpEnd (s : State) : Host.Outcome State Fault Refusal := .next (microTurn s)

/-- CAP (R242, R244). -/
def execMpCap (s : State) : Host.Outcome State Fault Refusal := .next (microTurn s)

-- ## The Codex store (R248, R249, R421)

/-- A `bcodex` of a quire is accepted: it is outstanding no more, and later starts of its threads wait for its write (R248,
R318). -/
def State.passCodex (s : State) (c j id : Nat) : State :=
  s.setQuire c j ((s.quire c j).mapLanes (List.range 32) (fun _ t =>
    { t with outst := t.outst.map (fun o => if o.id = id then { o with fpDone := true, past := true } else o) }))

/-- BCODEX_ACCEPT (R249, R421): the fault point; one word a cycle from here. -/
def execBcodexAccept (s : State) : Host.Outcome State Fault Refusal :=
  let c := s.here.unit
  let x : CxSlot := (s.core c).codex.get {} s.here.sub
  match x.writing with
  | some (ws, id) =>
    if id != s.here.item then .next s
    else
      let s1 := (s.core c).quires.foldl (fun s e => s.passCodex c e.1 id) s
      .next (s1.due (s.ticksOf c ws.length) s.here .codexWriteComplete)
  | none => .next s

/-- CODEX_WRITE_COMPLETE (R243, R248). -/
def execCodexWriteComplete (s : State) : Host.Outcome State Fault Refusal :=
  .next (s.finishCodex s.here.unit s.here.sub s.here.item)

end Sys2Proof.Machine
end

