-- ==== Sys2Proof/Machine/Control.lean ====
section
/-! DEFINITION. Control transfers, `exit`, `nop`, `sleep` and phase timers (R152, R371-R377). -/

namespace Sys2Proof.Machine

/-- Target of a label form (R321). -/
def labelOf (pc : Dword) (off : BitVec 24) : Dword := pc + 8 * off.signExtend 64

/-- The quire with every thread of the path at its next PC: a target for some lanes, and the next word for
the others. -/
def Ictx.goTo (x : Ictx) (q : Quire) (f : Nat → Option Dword) : Quire :=
  q.mapLanes (lanesOf x.path) (fun i t => { t with pc := (f i).getD (x.pc + 8) })

/-- A taken backward `bra` or `dbra` feeds the heat table (R253, R372). -/
def Ictx.heat (x : Ictx) (s : State) (target : Dword) : State :=
  if target.toNat ≤ x.pc.toNat then s.feedHeat x.core x.slot target x.pc else s

/-- BRA (R372). -/
def execBra (h : Head) (hint : BitVec 2) (off : BitVec 24) (s : State) : Host.Outcome State Fault Refusal :=
  issue (.bra h hint off) h s (fun x =>
    let t := labelOf x.pc off
    .jump (x.heat (x.put (x.goTo x.q (fun i => if x.lanes.getLsbD i then some t else none))) t))

/-- DBRA (R372). -/
def execDbra (h : Head) (hint : BitVec 2) (va : VReg) (off : BitVec 24) (s : State) :
    Host.Outcome State Fault Refusal :=
  issue (.dbra h hint va off) h s (fun x =>
    let t := labelOf x.pc off
    let q := x.q.laneWrite x.lanes (fun _ th => out1 va (th.rv va - 1))
    let taken (i : Nat) : Bool := x.lanes.getLsbD i && (q.th i).rv va != 0
    let s := x.put (x.goTo q (fun i => if taken i then some t else none))
    .jump (if (lanesOf x.lanes).any taken then x.heat s t else s))

/-- An indirect transfer: the targets of the participants, ALIGN when one is no word address, and the link
pair (R373). -/
def transfer (x : Ictx) (tgt : Nat → Dword) (link : Option VReg) : Eff :=
  let bad := maskOf ((lanesOf x.lanes).filter (fun i => tgt i &&& 7 != 0))
  if bad ≠ 0 then .trap .align bad (tgt ((lanesOf bad).headD 0)).toNat 0
  else
    let q := match link with
      | some va => x.q.laneWrite x.lanes (fun _ _ => out2 va (x.pc + 8))
      | none => x.q
    .jump (x.put (x.goTo q (fun i => if x.lanes.getLsbD i then some (tgt i) else none)))

/-- BRX (R373). -/
def execBrx (h : Head) (hint : BitVec 2) (va : VReg) (s : State) : Host.Outcome State Fault Refusal :=
  issue (.brx h hint va) h s (fun x => transfer x (fun i => (x.q.th i).pair va) none)

/-- CALL (R373). -/
def execCall (h : Head) (hint : BitVec 2) (va : VReg) (off : BitVec 24) (s : State) :
    Host.Outcome State Fault Refusal :=
  issue (.call h hint va off) h s (fun x => transfer x (fun _ => labelOf x.pc off) (some va))

/-- CALL_R (R373). -/
def execCallR (h : Head) (hint : BitVec 2) (va : VReg) (s : State) : Host.Outcome State Fault Refusal :=
  issue (.callR h hint va) h s (fun x => transfer x (fun i => (x.q.th i).pair va) (some va))

/-- RET (R373): as `brx` but for its timing. -/
def execRet (h : Head) (hint : BitVec 2) (va : VReg) (s : State) : Host.Outcome State Fault Refusal :=
  issue (.ret h hint va) h s (fun x => transfer x (fun i => (x.q.th i).pair va) none)

/-- EXIT (R166, R374). -/
def execExit (h : Head) (s : State) : Host.Outcome State Fault Refusal :=
  issue (.exit h) h s (fun x => .ok (x.s.exitThreads x.core x.slot x.lanes))

/-- NOP (R374). -/
def execNop (h : Head) (s : State) : Host.Outcome State Fault Refusal :=
  issue (.nop h) h s (fun x => .ok x.s)

/-- SLEEP (R376). -/
def execSleep (h : Head) (imm : Word) (s : State) : Host.Outcome State Fault Refusal :=
  issue (.sleep h imm) h s (fun x =>
    if imm = 0 then .ok x.s
    else
      let w : TWait := { reason := .sleep, pc := x.pc, deadline := x.s.nowAt (dieOf x.core) + imm.toNat,
                         since := x.s.cycle }
      let s := x.put (x.q.mapLanes (lanesOf x.lanes) (fun _ t => { t with wait := some w }))
      .ok (s.due imm.toNat { unit := x.core, sub := x.slot } .sleepExpiry))

-- ## Phase timers (R152)

/-- COUNT of an armed timer now (R152): it stands still during an island pause. -/
def State.timerCount (s : State) (c : Nat) (t : PhaseTimer) : Nat :=
  if s.paused.contains (islandOf c) then t.count
  else t.count + (s.now - t.asOf) * s.islandMhz (islandOf c) / 1000

/-- Largest COUNT before a timer expires (R152). -/
def PhaseTimer.limit (t : PhaseTimer) : Nat := t.budget.toNat * t.margin / 4 + 4096

/-- The moment an armed timer of a quire expires is put down, in place of an earlier one. -/
def State.armTimer (s : State) (c j : Nat) : State :=
  let s := s.undue (fun d => d.what = .phaseExpiry && d.here.unit == c && d.here.sub == j)
  let t := (s.quire c j).timer
  let mhz := s.islandMhz (islandOf c)
  if !t.armed || mhz == 0 || s.paused.contains (islandOf c) then s
  else
    let left := t.limit + 1 - s.timerCount c t
    s.due ((left * 1000 + mhz - 1) / mhz) { unit := c, sub := j } .phaseExpiry

/-- PHASE (R152, R377). -/
def execPhase (h : Head) (id : BitVec 8) (imm : Word) (s : State) : Host.Outcome State Fault Refusal :=
  issue (.phase h id imm) h s (fun x =>
    let m := (x.s.launch x.q.lk).rcd.phMargin
    let t : PhaseTimer := { armed := imm != 0, phid := id, budget := imm, count := 0, asOf := x.s.now,
                            margin := if m = 0 then x.s.margin.toNat else m }
    .ok ((x.put { x.q with timer := t }).armTimer x.core x.slot))

end Sys2Proof.Machine
end

