-- ==== Sys2Proof/Machine/System.lean ====
section
/-! DEFINITION. System registers, `trap`, `brk`, handler return, Binder control (R72, R79, R80, R256, R257,
R423-R430), and the writes BINDCTL_WRITE, RACVA_WRITE, WAYRES_WRITE. -/

namespace Sys2Proof.Machine

-- ## Reads (Table 19.6)

/-- CAPDEV (Table 19.7); STEP is fixed for the part (log entry 5). -/
def capdev : Nat :=
  16 + 40 * 2 ^ 8 + 12 * 2 ^ 16 + 512 * 2 ^ 20 + 4 * 2 ^ 32 + 16 * 2 ^ 36 + 64 * 2 ^ 44 + Config.step.toNat * 2 ^ 52
/-- CAPATOM (Table 8.7). -/
def capatom : Nat := 6 + 5 * 2 ^ 4 + 4 * 2 ^ 8 + 3 * 2 ^ 12 + 3 * 2 ^ 16

/-- CHMIN: fewest channels of an in-service M-die (Table 3.12); 32 where none is in service, which the table leaves open (log
entry 65). -/
def State.chmin (s : State) : Nat :=
  ((List.range 8).filter (fun m => s.geomMdie.getLsbD m)).foldl (fun n m => min n (s.chans m)) 32
/-- GEOM (Table 3.12). -/
def State.geom (s : State) : Nat :=
  s.geomMdie.toNat + s.chmin * 2 ^ 8 + s.geomAnnex.toNat * 2 ^ 16 + s.geomGen.toNat * 2 ^ 32
/-- DOMID (Table 2.4). -/
def State.domid (s : State) : Nat := s.domDev.toNat + s.domValid.toNat * 2 ^ 16 + s.domUp.toNat * 2 ^ 32

/-- A WAYRES register (Table 3.13). -/
def WayRes.word (w : WayRes) : Nat := w.base + w.size * 2 ^ 31 + w.ways * 2 ^ 47 + w.k * 2 ^ 51 + w.ctx * 2 ^ 56

/-- STATE codes of Table 11.2. -/
def HeatState.code : HeatState → Nat
  | .empty => 0 | .counting => 1 | .building => 2 | .bound => 3 | .unbindable => 4

/-- BINDINFO of an entry (Table 11.2). -/
def Heat.info (e : Heat) : Nat :=
  let b := e.state == .bound
  e.count + e.state.code * 2 ^ 16 + e.reason * 2 ^ 20 + (if b then e.folio * 2 ^ 24 + e.ii * 2 ^ 32 else 0)
    + e.nops * 2 ^ 40 + e.nmem * 2 ^ 48

/-- The entry BINDSEL selects, as a launch sees it (R257). -/
def Core.selected (k : Core) (lk : Nat) : Heat :=
  let e := k.heatAt k.bindSel.toNat
  if e.state = .empty ∨ e.lk ≠ lk then {} else e

/-- RACDATA (R72, Table 3.10). -/
def State.racdata (s : State) (c lk : Nat) : Nat :=
  let l := s.launch lk
  let va := (s.core c).racva.toNat
  match s.peek l.ctx va with
  | some (pa, e) =>
    match s.homeOf pa with
    | .hbm m =>
      if l.leased va 1 && decide (leafPlc e ≤ 1) then
        let r : Rac := s.rac.get {} (pa / 4096)
        r.loc.toNat + r.rem.toNat * 2 ^ 24 + r.last.toNat * 2 ^ 48 + m * 2 ^ 60 + 2 ^ 63
      else 0
    | _ => 0
  | none => 0

/-- TLBINV of the host's instance: PAGE, CTX and ALL are write-only (R70, Table 3.8). -/
def State.tlbinvWord (s : State) (writer : Nat) : Nat :=
  let t : TlbInv := s.tlbinv.get {} writer
  t.ign.toNat * 2 ^ 59 + t.pend.toNat * 2 ^ 63

/-- The value of a system register for a core and a launch (Table 19.6). -/
def State.sysreg (s : State) (c lk num : Nat) : Nat :=
  let k := s.core c
  match num with
  | 0x000 => s.islandMhz (islandOf c) + islandOf c * 2 ^ 16
  | 0x001 => k.heatReg.toNat
  | 0x002 => k.bindSel.toNat
  | 0x003 => (k.selected lk).header.toNat % 2 ^ 52
  | 0x004 => (k.selected lk).info
  | 0x005 => k.racva.toNat
  | 0x006 => s.racdata c lk
  | 0x100 => capdev
  | 0x101 => capatom
  | 0x102 => s.geom
  | 0x103 => s.domid
  | 0x104 => s.leaseCap.toNat
  | 0x105 => s.margin.toNat
  | 0x106 => s.sweepPeriod.toNat
  | 0x107 => s.tlbinvWord 0
  | n => if 0x010 ≤ n ∧ n < 0x018 then WayRes.word ((s.die (dieOf c)).wayres.get {} (n - 0x010)) else 0

/-- SYSRD (R424-R426). -/
def execSysrd (h : Head) (sd : SReg) (num : BitVec 12) (s : State) : Host.Outcome State Fault Refusal :=
  issue (.sysrd h sd num) h s (fun x =>
    .ok (x.put (x.q.setS sd.toNat (BitVec.ofNat 64 (x.s.sysreg x.core x.q.lk num.toNat)))))

-- ## Writes

/-- A write of BINDCTL: the threshold, and every folio of the core invalidated (R256, R270). -/
def State.writeBindctl (s : State) (c : Nat) (v : Dword) : State :=
  (s.setCore c { s.core c with heatReg := v.extractLsb' 0 16 }).invalidate c (fun _ => true) false

/-- A write of RACVA (R72). -/
def State.writeRacva (s : State) (c : Nat) (v : Dword) : State :=
  s.setCore c { s.core c with racva := v.extractLsb' 0 52 }

/-- A write of a WAYRES register by a context (R80): the sum of WAYS stays at most 15. Lines it retained become ordinary
lines (R81). -/
def State.writeWayres (s : State) (d n ctx : Nat) (v : Dword) : State :=
  let x := v.toNat
  let die := s.die d
  let size := bitsOf x 31 16
  let others := ((List.range 8).filter (fun k => k != n)).map (fun k => (die.wayres.get {} k : WayRes))
  let used := ((others.filter (fun (w : WayRes) => w.size != 0)).map WayRes.ways).sum
  let ways := if size = 0 then bitsOf x 47 4 else min (bitsOf x 47 4) (15 - used)
  let w : WayRes := { base := bitsOf x 0 31, size := size, ways := ways, k := min 16 (bitsOf x 51 5), ctx := ctx }
  s.setDie d { die.unretain n with wayres := die.wayres.set n w }

/-- Whether a launch may write a system register (Table 19.6). -/
def sysWritable (num : Nat) : Bool :=
  num == 0x001 || num == 0x002 || num == 0x005 || (decide (0x010 ≤ num) && decide (num < 0x018))

/-- SYSWR (R424, R426). -/
def execSyswr (h : Head) (num : BitVec 12) (sa : SReg) (s : State) : Host.Outcome State Fault Refusal :=
  issue (.syswr h num sa) h s (fun x =>
    let v := x.sh.s sa.toNat
    let n := num.toNat
    let k := x.s.core x.core
    if !sysWritable n then .trap .priv x.lanes 0 0
    else if n = 0x001 then .ok (x.s.writeBindctl x.core v)
    else if n = 0x002 then .ok (x.s.setCore x.core { k with bindSel := v.extractLsb' 0 4 })
    else if n = 0x005 then .ok (x.s.writeRacva x.core v)
    else .ok (x.s.writeWayres (dieOf x.core) (n - 0x010) (x.s.launch x.q.lk).ctx v))

/-- BINDCTL_WRITE (R256). -/
def execBindctlWrite (core : Nat) (v : Dword) (s : State) : Host.Outcome State Fault Refusal :=
  .next (if core < 640 then s.writeBindctl core v else s)

/-- RACVA_WRITE (R72). -/
def execRacvaWrite (core : Nat) (v : Dword) (s : State) : Host.Outcome State Fault Refusal :=
  .next (if core < 640 then s.writeRacva core v else s)

/-- WAYRES_WRITE (R80). -/
def execWayresWrite (die n ctx : Nat) (v : Dword) (s : State) : Host.Outcome State Fault Refusal :=
  .next (if die < 16 ∧ n < 8 ∧ ctx < 64 then s.writeWayres die n ctx v else s)

-- ## Traps and handler return

/-- TRAP (R427): USER, precise. -/
def execTrap (h : Head) (imm : BitVec 16) (s : State) : Host.Outcome State Fault Refusal :=
  issue (.trap h imm) h s (fun x => .trap .user x.lanes 0 0)

/-- Participants whose handler flag is set. -/
def Ictx.inHandler (x : Ictx) : List Nat := (lanesOf x.lanes).filter (fun i => (x.q.th i).handler)

/-- BRK (R427): as `trap` in a launch with a handler and outside it, else nothing. -/
def execBrk (h : Head) (imm : BitVec 16) (s : State) : Host.Outcome State Fault Refusal :=
  issue (.brk h imm) h s (fun x =>
    if (x.s.launch x.q.lk).rcd.handler == noHandler || !x.inHandler.isEmpty then .ok x.s
    else .trap .user x.lanes 0 0)

/-- Handler return of the participants: PRIV when one is in no handler; else each goes on at its own target
(R144, R428). -/
def returnEff (x : Ictx) (f : Thread → Thread) : Eff :=
  let bad := maskOf ((lanesOf x.lanes).filter (fun i => !(x.q.th i).handler))
  if bad ≠ 0 then .trap .priv bad 0 0
  else
    .jump (x.put (x.q.mapLanes (lanesOf x.path) (fun i t => if x.lanes.getLsbD i then f t else { t with pc := x.pc + 8 })))

/-- ERET (R144, R428). -/
def execEret (h : Head) (s : State) : Host.Outcome State Fault Refusal :=
  issue (.eret h) h s (fun x => returnEff x Thread.eret)

/-- ERET_NEXT (R144, R428). -/
def execEretNext (h : Head) (s : State) : Host.Outcome State Fault Refusal :=
  issue (.eretNext h) h s (fun x => returnEff x Thread.eretNext)

-- ## Binder control

/-- BUNBIND (R270, R429). -/
def execBunbind (h : Head) (s : State) : Host.Outcome State Fault Refusal :=
  issue (.bunbind h) h s (fun x => .ok (x.s.invalidate x.core (fun e => e.share == x.q.share) false))

/-- BINDNOW (R430). -/
def execBindnow (h : Head) (off : BitVec 21) (s : State) : Host.Outcome State Fault Refusal :=
  issue (.bindnow h off) h s (fun x => .ok (x.s.requestBuild x.core x.slot (x.pc + 8 * off.signExtend 64)))

end Sys2Proof.Machine
end

