-- ==== Sys2Proof/Machine/Launch.lean ====
section
/-! DEFINITION. From a notify store to READY (R89, R93-R110, R113, R116, R284): the host's launch-page writes
and the steps NOTIFY_WAIT_RELEASE, NOTIFY_EFFECT, HNOTIFY_EFFECT, RECORD_CHECK, RESIDENCY_CHECK,
PAGE_REQUEST_WRITE and LAYOUT_CHECK. -/

namespace Sys2Proof.Machine

-- ## Launch-page writes of the host

/-- NOTIFY_STORE (R93): a 16-byte write through BAR2. -/
def execNotifyStore (ctx : Nat) (recptr argptr : Dword) (s : State) : Host.Outcome State Fault Refusal :=
  .next (if ctx < 64 then s.arriveNotify ctx { recPtr := recptr, argPtr := argptr } else s)

/-- HNOTIFY (R89, R93). -/
def execHnotify (ctx : Nat) (v : Dword) (s : State) : Host.Outcome State Fault Refusal :=
  .next (if ctx < 64 then s.arriveHnotify ctx v else s)

/-- QUERY (R95). -/
def execQuery (ctx : Nat) (v : Dword) (s : State) : Host.Outcome State Fault Refusal :=
  .next (if ctx < 64 then s.setCtx ctx { s.ctx ctx with query := v.extractLsb' 0 32 } else s)

/-- PRESP (R104). -/
def execPresp (ctx : Nat) (v : Dword) (s : State) : Host.Outcome State Fault Refusal :=
  .next (if ctx < 64 then s.respond ctx v else s)

/-- NOTIFY_WAIT_RELEASE (R93): the oldest waiting notify store leaves its wait once fewer than 64 launches are
held. -/
def execNotifyWaitRelease (s : State) : Host.Outcome State Fault Refusal :=
  let ctx := s.here.unit
  let x := s.ctx ctx
  match x.waiting with
  | [] => .next s
  | n :: rest =>
    if 64 ≤ s.heldOfCtx ctx then .next s
    else .next (((s.setCtx ctx { x with waiting := rest }).acceptNotify ctx n).pokeWaiting ctx)

/-- A launch whose step may still run: it is there, and nothing has ended it. -/
def State.stage? (s : State) (lk : Nat) (st : LState) : Option Launch :=
  match s.launches.find lk with
  | some l => if l.state == st && l.ending.isNone then some l else none
  | none => none

/-- NOTIFY_EFFECT (R89): max(t, HLX as at t + δ); HLX is looked at once, δ after the arrival. -/
def execNotifyEffect (s : State) : Host.Outcome State Fault Refusal :=
  let lk := s.here.unit
  match s.stage? lk .queued with
  | none => .next s
  | some _ =>
    if s.here.sub = 0 ∧ s.now < s.hlx then .next (s.dueAt s.hlx { unit := lk, sub := 1 } .notifyEffect)
    else .next (s.due 28 { unit := lk } .recordCheck)

/-- The add of an HNOTIFY value, or NDROP (R89). -/
def State.hnotifyAdd (s : State) (ctx : Nat) (v : Dword) : State :=
  let drop (s : State) : State := s.setCtx ctx { s.ctx ctx with ndrop := true }
  if v.toNat % 8 ≠ 0 then drop s
  else match s.logicPa ctx v.toNat .atomic with
    | (.ok pa, s) =>
      match s.homeOf pa with
      | .hbm _ => (s.homeAdd 0 ctx v.toNat pa 1).2
      | .window => if isRegArea pa then drop s else (s.homeAdd 0 ctx v.toNat pa 1).2
      | _ => drop s
    | (_, s) => drop s

/-- What the release before that add waits for: the adds of X-die 0 and the window writes of the host that came before, and
their completion times (R89, R194). -/
def State.hnotifyWait (s : State) (ctx : Nat) (v : Dword) : Wait :=
  { goal := .hadd ctx v, reqs := s.reqsWith (fun _ r => r.agent == .logic || r.agent == .host), need := (s.die 24).gwctMax, die := 24 }

/-- HNOTIFY_EFFECT (R89): a package-scope release, then the add. -/
def execHnotifyEffect (s : State) : Host.Outcome State Fault Refusal :=
  let ctx := s.here.unit
  let x := s.ctx ctx
  match x.hnotify with
  | [] => .next s
  | v :: rest =>
    if s.here.sub = 0 ∧ s.now < s.hlx then .next (s.dueAt s.hlx { unit := ctx, sub := 1 } .hnotifyEffect)
    else
      let s := s.setCtx ctx { x with hnotify := rest }
      .next (if s.waitOver (s.hnotifyWait ctx v) then s.hnotifyAdd ctx v else (s.addWait (s.hnotifyWait ctx v)).2)

-- ## Reads of the device's own logic (R98)

/-- Pieces of a run of bytes, each within one 4 KiB granule. -/
def granules : Nat → Nat → Nat → List (Nat × Nat)
  | 0, _, _ => []
  | fuel + 1, va, n =>
    if n = 0 then []
    else (va, min n (4096 - va % 4096)) :: granules fuel (va + min n (4096 - va % 4096)) (n - min n (4096 - va % 4096))

/-- A byte as a context's accesses to the host window see it (R87). -/
def State.seenByte (s : State) (ctx pa : Nat) : Byte :=
  if isRegArea pa then (if bitsOf pa 12 6 = ctx then ((s.ctx ctx).pageBytes (pa % 4096) 1).headD 0 else 0)
  else s.byte pa

/-- The lines of a run of physical bytes. -/
def linesOf (pa n : Nat) : List Nat := (List.range ((pa % 128 + n + 127) / 128)).map (fun k => pa / 128 + k)

/-- Lines of a run of physical bytes as the logic of X-die 0 reads them at their homes: it waits where a request stands at a
line (R75, R185), and meets the errors of poisoned lines (R24). -/
def State.readLines (s : State) (pa n : Nat) : Found Unit × State :=
  if (linesOf pa n).any (fun l => !(s.lineWaits 32 l).isEmpty || s.moving (128 * l) true) then (.busy, s)
  else Found.check (!(linesOf pa n).any (fun l => s.poison.contains l)) ((linesOf pa n).foldl (fun s l => s.countRac 24 (128 * l)) s)

/-- Bytes that the logic of X-die 0 reads for a context; none when a read fails translation or meets a poisoned
line. -/
def State.logicPieces (s : State) (ctx : Nat) : List (Nat × Nat) → Found (List Byte) × State
  | [] => (.ok [], s)
  | (va, n) :: ps =>
    Found.andThen (s.logicPa ctx va .load) (fun pa s =>
      Found.andThen (s.readLines pa n) (fun _ s =>
        Found.andThen (State.logicPieces s ctx ps) (fun more s =>
          (.ok ((List.range n).map (fun k => s.seenByte ctx (pa + k)) ++ more), s))))

/-- `n` bytes from a virtual address, read by the logic of X-die 0. -/
def State.logicRead (s : State) (ctx va n : Nat) : Found (List Byte) × State :=
  s.logicPieces ctx (granules (n / 4096 + 2) va n)

/-- A step of X-die 0 for a launch goes on with what it found: `s0` is the state before it looked. A line at which it has to
wait makes it look again a tick later (R185), a failed die ends the launch with LINK (R20), and anything it may not use ends
it in a state. -/
def State.found {α : Type} (s0 : State) (lk : Nat) (st : LState) (i : Instr) (r : Found α × State) (f : α → State → State) : State :=
  match r with
  | (.ok x, s) => f x s
  | (.no, s) => s.failLaunch lk st
  | (.dead d, s) => s.failByDie lk d
  | (.busy, _) => s0.due 1 { unit := lk } i

-- ## The record (R97-R100)

/-- A format slot is well formed (R99). -/
def slotOk (v : Dword) : Bool :=
  let x := v.toNat
  let ef := bitsOf x 0 4
  let sm := bitsOf x 4 2
  let acc := bitsOf x 10 2
  ef != 1 && decide (ef ≤ 9) && sm != 3 && bitsOf x 6 2 != 3 && acc != 3
    && bitsOf x 12 4 == 0 && bitsOf x 48 16 == 0 && (sm == 2 || bitsOf x 16 32 == 0)
    && (acc != 1 || ((ef == 0 || ef == 9) && sm == 0)) && (acc == 2) == (ef == 8)
    && (sm != 1 || (ef != 7 && ef != 8))

/-- A virtual address has bits [63:52] zero (R97). -/
def vaOk (a : Nat) : Bool := decide (a < 2 ^ 52)

/-- A field of a record. -/
def fieldAt (bs : List Byte) (k n : Nat) : Nat := leNat (slice bs k n)

/-- A binding of a record, if it is in use (Table 4.8). -/
def bindingAt (bs : List Byte) (n : Nat) : Option (Nat × Bool) :=
  let b := fieldAt bs (0xA8 + 2 * n) 2
  if b.testBit 15 then some (bitsOf b 0 12, b.testBit 12) else none

/-- The fields of a record; a nonzero ARGPTR replaces PWBASE0 (R100). -/
def Record.parse (bs : List Byte) (arg : Dword) : Record :=
  let f (k n : Nat) : Nat := fieldAt bs k n
  let d (k : Nat) : Dword := BitVec.ofNat 64 (f k 8)
  let ndep := f 0x1E 1
  { code := d 0, entry := f 8 4, handler := f 0x0C 4, groups := f 0x10 4, qpg := f 0x14 1, blocks := f 0x15 1,
    nbank := f 0x16 1, prio := bitsOf (f 0x17 1) 0 2, failAdd := (f 0x17 1).testBit 2, bmode := bitsOf (f 0x18 2) 0 12,
    bindThr := f 0x1A 2, phMargin := f 0x1C 2, ndep := ndep,
    fslot := (List.range 8).map (fun n => d (0x20 + 8 * n)),
    pwBase := (List.range 4).map (fun n => if n = 0 ∧ arg ≠ 0 then arg else d (0x60 + 8 * n)),
    pwSize := (List.range 4).map (fun n => f (0x80 + 4 * n) 4),
    rangeCnt := f 0x98 2, layCnt := f 0x9A 2, layPtr := d 0xA0,
    binds := (List.range 4).map (bindingAt bs),
    retPtr := d 0xB0, retAdd := d 0xB8,
    deps := (List.range (min ndep 4)).map (fun n => (d (0xC0 + 16 * n), d (0xC8 + 16 * n))) }

/-- Limits and reserved fields of Table 4.8, and the format slots (R97-R99). -/
def recordOk (bs : List Byte) (r : Record) (arg : Dword) : Bool :=
  let f (k n : Nat) : Nat := fieldAt bs k n
  r.code.toNat % 256 == 0 && vaOk r.code.toNat && r.entry % 8 == 0
    && (r.handler == noHandler || r.handler % 8 == 0)
    && decide (1 ≤ r.groups) && decide (r.groups ≤ 2 ^ 24) && decide (1 ≤ r.qpg) && decide (r.qpg ≤ 32)
    && decide (1 ≤ r.blocks) && decide (r.blocks ≤ 32) && decide (r.nbank ≤ 12) && decide (r.qpg * r.blocks ≤ 512)
    && bitsOf (f 0x17 1) 3 5 == 0 && decide (f 0x18 2 < 2 ^ r.nbank) && decide (r.ndep ≤ 4)
    && r.fslot.all slotOk
    && (List.range 4).all (fun n => (n == 0 && arg != 0) || vaOk (f (0x60 + 8 * n) 8))
    && f 0x90 8 % 16 == 0 && vaOk (f 0x90 8) && decide (1 ≤ r.rangeCnt) && decide (r.rangeCnt ≤ 4096)
    && decide (r.layCnt ≤ 256) && f 0x9C 4 == 0 && r.layPtr.toNat % 16 == 0 && vaOk r.layPtr.toNat
    && (List.range 4).all (fun n => (bindingAt bs n).isNone || bitsOf (f (0xA8 + 2 * n) 2) 13 2 == 0)

/-- A declared-range entry, unless it is malformed (Table 4.10). -/
def Range.parse (bs : List Byte) : Option Range :=
  let a := fieldAt bs 0 8
  let b := fieldAt bs 8 8
  if a % 2 ^ 16 ≠ 0 ∨ 2 ^ 52 ≤ a ∨ 2 ^ 37 ≤ b ∨ b % 2 ^ 32 = 0 ∨ bitsOf b 32 2 = 3 then none
  else some { base := a, npage := b % 2 ^ 32, lclass := bitsOf b 32 2, rd := b.testBit 34, wr := b.testBit 35,
              ex := b.testBit 36 }

/-- A required-layout entry, unless a reserved byte is nonzero (R108). An RKIND or RFORM whose code Table 4.14 reserves is taken
as it stands and meets no layout, so the launch ends with F_LAYOUT (R8, R109, log entry 65). -/
def Layout.parse (bs : List Byte) : Option Layout :=
  if fieldAt bs 9 7 ≠ 0 then none
  else some { shape := BitVec.ofNat 64 (fieldAt bs 0 8), rkind := bitsOf (fieldAt bs 8 1) 0 4, rform := bitsOf (fieldAt bs 8 1) 4 4 }

/-- Entries of 16 bytes, unless one is malformed. -/
def parseAll {α : Type} (f : List Byte → Option α) (bs : List Byte) : Nat → Option (List α)
  | 0 => some []
  | n + 1 =>
    match parseAll f bs n, f (slice bs (16 * n) 16) with
    | some l, some x => some (l ++ [x])
    | _, _ => none

/-- Bytes lie in one declared range with RD (R98). -/
def inReadable (rs : List Range) (a n : Nat) : Bool :=
  rs.any (fun r => r.rd && decide (r.base ≤ a) && decide (a + n ≤ r.base + r.npage * 65536))

/-- Windows and code lie in declared ranges (R98). -/
def Record.placed (r : Record) (rs : List Range) : Bool :=
  let ex (a : Nat) : Bool := rs.any (fun x => x.ex && x.holds a)
  (List.range 4).all (fun n => r.pwSize.getD n 0 == 0 || inReadable rs (r.pwBase.getD n 0).toNat (r.pwSize.getD n 0))
    && ex (r.code.toNat + r.entry) && (r.handler == noHandler || ex (r.code.toNat + r.handler))

/-- RETPTR passes its own checks: aligned, and an address of memory that grants RD and WR (R98, R111). -/
def State.retOk (s : State) (ctx : Nat) (p : Dword) : Found Unit × State :=
  if p = 0 then (.ok (), s)
  else if p.toNat % 8 ≠ 0 ∨ 2 ^ 52 ≤ p.toNat then (.no, s)
  else Found.andThen (s.logicPa ctx p.toNat .atomic) (fun pa s => Found.check (!isRegArea pa) s)

/-- A dependence word passes its checks: aligned, readable, in HBM4E, the annex or the host window (R98, R110). It is read
here for the first time, and watched at its home from then on (R71). -/
def State.depOk (s : State) (ctx : Nat) (p : Dword) : Found Unit × State :=
  if p.toNat % 8 ≠ 0 ∨ 2 ^ 52 ≤ p.toNat then (.no, s)
  else Found.andThen (s.logicPa ctx p.toNat .load) (fun pa s =>
    Found.check (match s.homeOf pa with
      | .hbm _ | .annex _ => true
      | .window => !isRegArea pa
      | _ => false) (s.countRac 24 pa))

/-- Every dependence of a list passes its checks. -/
def State.depsOk (s : State) (ctx : Nat) : List (Dword × Dword) → Found Unit × State
  | [] => (.ok (), s)
  | d :: ds => Found.andThen (s.depOk ctx d.1) (fun _ s => State.depsOk s ctx ds)

/-- Die and core that a binding of a queue end asks for (R284). -/
def State.bindPlace (s : State) (b : Nat × Bool) : Nat × Option Nat :=
  let x := s.queue b.1
  if b.2 then (x.cdie, some x.ccore) else (x.pdie, none)

/-- The bindings in use of a record. -/
def Record.used (r : Record) : List (Nat × Bool) := r.binds.filterMap id

/-- The bindings meet R284. -/
def State.bindsOk (s : State) (lk ctx : Nat) (r : Record) : Bool :=
  let bs := r.used
  let places := bs.map s.bindPlace
  let dies := places.map Prod.fst
  let cores := places.filterMap Prod.snd
  bs.all (fun b =>
    let x := s.queue b.1
    x.v && x.ctx == ctx && (!b.2 || x.consumer.isNone || x.consumer == some lk))
    && dies.all (fun d => some d == dies.head?) && cores.all (fun c => some c == cores.head?)

/-- The launch binds its queue ends (R284, Table 12.2). -/
def State.bindQueues (s : State) (lk : Nat) (r : Record) : State :=
  ((r.used.map Prod.fst).eraseDups).foldl (fun s q =>
    let x := s.queue q
    s.setQueue q { x with binds := x.binds + 1, consumer := if r.used.contains (q, true) then some lk else x.consumer }) s

/-- The record of an arrival launch: one group, binding 0 the queue's consumer end (R113). -/
def Record.forArrival (r : Record) : Option Nat → Record
  | none => r
  | some q => { r with groups := 1, binds := r.binds.set 0 (some (q, true)) }

/-- The reads and checks of QUEUED; none: the launch ends in F_RECORD (R98). -/
def State.checkRecord (s : State) (lk : Nat) (bs : List Byte) : Found Launch × State :=
  let l := s.launch lk
  let r := (Record.parse bs l.argPtr).forArrival l.arrival
  if !recordOk bs r l.argPtr || (l.arrival.isSome && r.ndep != 0) || !s.bindsOk lk l.ctx r then (.no, s)
  else
    Found.andThen (s.logicRead l.ctx (fieldAt bs 0x90 8) (16 * r.rangeCnt)) (fun tab s =>
      Found.andThen (s.logicRead l.ctx r.layPtr.toNat (16 * r.layCnt)) (fun lay s =>
        match parseAll Range.parse tab r.rangeCnt, parseAll Layout.parse lay r.layCnt with
        | some rs, some ls =>
          Found.andThen (s.retOk l.ctx r.retPtr) (fun _ s =>
            Found.andThen (s.depsOk l.ctx r.deps) (fun _ s =>
              if r.placed rs then (.ok { l with rcd := r, ranges := rs, layouts := ls, recOk := true }, s) else (.no, s)))
        | _, _ => (.no, s)))

/-- The retire fields that a launch in F_RECORD keeps (R111). -/
def State.keepRetire (s : State) (lk : Nat) (bs : List Byte) : State :=
  let l := s.launch lk
  let r := Record.parse bs 0
  match s.retOk l.ctx r.retPtr with
  | (.ok _, s) =>
    if fieldAt bs 0x1F 1 = 1 then
      s.setLaunch lk { l with recOk := true, rcd := { retPtr := r.retPtr, retAdd := r.retAdd, failAdd := r.failAdd } }
    else s
  | (_, s) => s

/-- RECORD_CHECK (R98): the launch passes to WAITING, or ends in F_RECORD. -/
def execRecordCheck (s : State) : Host.Outcome State Fault Refusal :=
  let lk := s.here.unit
  match s.stage? lk .queued with
  | none => .next s
  | some l =>
    if l.recPtr.toNat % 256 ≠ 0 ∨ 2 ^ 52 ≤ l.recPtr.toNat then .next (s.failLaunch lk .fRecord)
    else .next (s.found lk .fRecord .recordCheck (s.logicRead l.ctx l.recPtr.toNat 256) (fun bs u =>
      if fieldAt bs 0x1F 1 ≠ 1 then u.failLaunch lk .fRecord
      else match u.checkRecord lk bs with
        | (.no, u) => (u.keepRetire lk bs).failLaunch lk .fRecord
        | r => s.found lk .fRecord .recordCheck r (fun l u =>
            (((u.setLaunch lk l).bindQueues lk l.rcd).setState lk .waiting).lookDeps lk none)))

-- ## LEASING (R102, R103)

/-- Maximal runs of consecutive numbers of a rising list: first and length. -/
def runsOf : List Nat → List (Nat × Nat)
  | [] => []
  | u :: us =>
    match runsOf us with
    | (v, n) :: rest => if v = u + 1 then (u, n + 1) :: rest else (u, 1) :: (v, n) :: rest
    | [] => [(u, 1)]

/-- Looks at the ranges in order: the page requests they need; a range found resident is cached (R102). -/
def State.lookRanges (s : State) (ctx : Nat) : List Range → Found (List (Nat × Nat × Nat)) × State
  | [] => (.ok [], s)
  | r :: rs =>
    if (s.ctx ctx).resident.contains r.entry then State.lookRanges s ctx rs
    else
      Found.andThen (s.missing ctx r.acc ((List.range r.npage).map (fun k => r.base / 65536 + k))) (fun m s =>
        Found.andThen (State.lookRanges (if m.isEmpty then s.cacheRange ctx r.entry else s) ctx rs) (fun more s =>
          (.ok ((runsOf m).map (fun u => (u.1, u.2, r.acc)) ++ more), s)))

/-- The page-request queue is enabled (R103). -/
def State.prqOn (s : State) : Bool := decide (6 ≤ s.prqLog2.toNat) && decide (s.prqLog2.toNat ≤ 16)

/-- RESIDENCY_CHECK (R102, R103, R113). -/
def execResidencyCheck (s : State) : Host.Outcome State Fault Refusal :=
  let lk := s.here.unit
  match s.stage? lk .leasing with
  | none => .next s
  | some l =>
    .next (s.found lk .fPageReq .residencyCheck (s.lookRanges l.ctx l.ranges) (fun asks s =>
      if asks.isEmpty then s.enterChecking lk
      else if l.arrival.isSome || !s.prqOn then s.failLaunch lk .fPageReq
      else (s.setLaunch lk { s.launch lk with asks := asks }).due 20 { unit := lk } .pageRequestWrite))

/-- The ring of page requests is full (R103). -/
def State.prqFull (s : State) : Bool :=
  (s.prqTail.toNat + 1) % 2 ^ s.prqLog2.toNat == s.prqHead.toNat

/-- Bytes of a page-request entry (Table 4.12). -/
def prqEntry (rid va npage acc lid : Nat) : List Byte :=
  toLe 4 rid ++ toLe 4 npage ++ toLe 8 va ++ toLe 4 acc ++ toLe 4 lid ++ toLe 8 0

/-- Physical address of the next entry of the ring of page requests (R103). -/
def State.prqSlot (s : State) : Nat := 0x800000000000 + s.prqBase.toNat * 4096 + 32 * s.prqTail.toNat

/-- PAGE_REQUEST_WRITE (R103, R185): the next entry of a launch, once the ring has room; TAIL advances after the
entry is at the host, and vector 1 fires if the ring was empty. -/
def execPageRequestWrite (s : State) : Host.Outcome State Fault Refusal :=
  let lk := s.here.unit
  match s.stage? lk .leasing with
  | none => .next s
  | some l =>
    match l.asks with
    | [] => .next s
    | (u, n, acc) :: rest =>
      if !s.prqOn then .next (s.failLaunch lk .fPageReq)
      else if s.prqFull then .next s
      else if !s.lineFree s.prqSlot then .next (s.due 1 { unit := lk } .pageRequestWrite)
      else
        let x := s.ctx l.ctx
        let rid := ridOf l.ctx x.gen.toNat x.seq
        let t := s.prqTail.toNat
        let empty := s.prqTail == s.prqHead
        let s := s.setBytes s.prqSlot (prqEntry rid (65536 * u) n acc l.lid)
        let s := s.setCtx l.ctx { x with seq := (x.seq + 1) % 2 ^ 18, rids := x.rids ++ [(x.seq, l.lid)] }
        let s := s.setLaunch lk { l with asks := rest, requests := l.requests ++ [(x.seq, u, n, acc)] }
        let s := { s with prqTail := BitVec.ofNat 16 ((t + 1) % 2 ^ s.prqLog2.toNat) }
        let s := if empty then s.tell (.msix 1) else s
        .next (if rest.isEmpty then s else s.due 1 { unit := lk } .pageRequestWrite)

/-- Room in the ring lets the launches go on that wait for it, in acceptance order (R103). -/
def State.pokePrq (s : State) : State :=
  (sortBy (fun (a b : Nat × Launch) => decide (a.2.order ≤ b.2.order)) (s.launches.filter (fun e => !e.2.asks.isEmpty))).foldl
    (fun s e => s.dueOnce 1 { unit := e.1 } .pageRequestWrite) s

-- ## CHECKING (R107-R109)

/-- The check of one required layout (R109). -/
def State.layoutMeets (s : State) (l : Launch) (e : Layout) : Found Unit × State :=
  Found.andThen (s.logicRead l.ctx e.shape.toNat 64) (fun bs s =>
    let id := fieldAt bs 0x30 8
    let kind := bitsOf id 0 4
    let form := bitsOf id 4 4
    Found.check (l.leased e.shape.toNat 64 && kind != 0 && decide (kind ≤ 3) && decide (form ≤ 5)
      && (e.rkind == 0 || e.rkind == kind) && (e.rform == 0 || e.rform == form)
      && (!id.testBit 8 || (bitsOf id 16 8 == s.geomMdie.toNat && bitsOf id 24 6 == s.chmin))
      && (bitsOf id 32 4 == 0 || bitsOf id 32 4 == l.rcd.nbank)) s)

/-- Every required layout is met, in table order (R109). -/
def State.layoutsMeet (s : State) (l : Launch) : List Layout → Found Unit × State
  | [] => (.ok (), s)
  | e :: es => Found.andThen (s.layoutMeets l e) (fun _ s => State.layoutsMeet s l es)

/-- Die of the dispatcher that gets all groups of a launch with bindings (R116, R284). -/
def State.boundDie (s : State) (l : Launch) : Option Nat := (l.rcd.used.head?).map (fun b => (s.bindPlace b).1)

/-- Initial groups of each die (R116). -/
def splitGroups (g : Nat) : Option Nat → Tab (List Nat)
  | some d => [(d, List.range g)]
  | none => (List.range 16).map (fun d => (d, (List.range ((d + 1) * g / 16 - d * g / 16)).map (fun k => d * g / 16 + k)))

/-- Every dispatcher looks for a placement. -/
def State.pokeDies (s : State) : State := (List.range 16).foldl (fun s d => s.pokeDie d) s

/-- A launch enters READY: its groups go to the dispatchers (R116). -/
def State.enterReady (s : State) (lk : Nat) : State :=
  let s := s.setState lk .ready
  let l := s.launch lk
  (s.setLaunch lk { l with unplaced := splitGroups l.rcd.groups (s.boundDie l), readyAt := s.now }).pokeDies

/-- LAYOUT_CHECK (R109). -/
def execLayoutCheck (s : State) : Host.Outcome State Fault Refusal :=
  let lk := s.here.unit
  match s.stage? lk .checking with
  | none => .next s
  | some l =>
    .next (s.found lk .fLayout .layoutCheck (s.layoutsMeet l l.layouts) (fun _ s => s.enterReady lk))

end Sys2Proof.Machine
end

