-- ==== Sys2Proof/Machine/Stream.lean ====
section
/-! DEFINITION. Stream queues (R282-R291, R407, R408): descriptors, slots on their way, the spill ring, and the
steps QUEUE_ENABLE, QUEUE_DISABLE, QUEUE_SLOT_ARRIVE and QUEUE_REFILL_COMPLETE. -/

namespace Sys2Proof.Machine

/-- Directed links on the route of a queue. -/
def Queue.route (x : Queue) : List Nat := Sys2Proof.Machine.route x.pdie x.cdie

-- ## Descriptors (Table 12.2, R283)

/-- The fields of offset 0 of a descriptor but for V and ERR. -/
def Queue.take0 (x : Queue) (v : Nat) : Queue :=
  { x with ctx := bitsOf v 8 6, pdie := bitsOf v 16 4, cdie := bitsOf v 20 4, ccore := bitsOf v 24 6,
           sbase := bitsOf v 32 9, nslot := bitsOf v 41 9, allow := bitsOf v 50 7 }

/-- Reserved fields of offset 0. -/
def reserved0 (v : Nat) : Bool := bitsOf v 2 6 != 0 || bitsOf v 14 2 != 0 || bitsOf v 30 2 != 0 || bitsOf v 57 7 != 0

/-- Fields within their limits, and the rules of R283 on RING, QUOTA, ARM and ALREC. -/
def Queue.fieldsOk (x : Queue) : Bool :=
  decide (x.ccore < 40) && decide (8 ≤ x.nslot) && decide (x.nslot ≤ 256) && decide (x.sbase + x.nslot ≤ 512)
    && decide (4 ≤ x.allow) && decide (x.allow ≤ 64) && x.ring.toNat % 128 == 0
    && (x.quota == 0) == (x.ring == 0) && (!x.arm || x.alrec != 0)
    && decide (1 ≤ x.wmark) && decide (x.wmark ≤ x.nslot + x.quota)

/-- Slots of two queues of one core overlap. -/
def Queue.overlaps (x y : Queue) : Bool :=
  y.v && x.cdie == y.cdie && x.ccore == y.ccore && decide (x.sbase < y.sbase + y.nslot) && decide (y.sbase < x.sbase + x.nslot)

/-- Lowest free stream slot of a link (R49). -/
def Link.freeStream (l : Link) : Option Nat := ((List.range 512).drop 1).find? (fun k => (l.allow.find k).isNone)

/-- Binds a stream slot on each link of a list (R283). -/
def State.bindStreams (s : State) (allow : Nat) : List Nat → List (Nat × Nat) × State
  | [] => ([], s)
  | n :: ns =>
    let l := s.link n
    let k := (l.freeStream).getD 1
    let s := s.setLink n { l with allow := l.allow.set k (allow, 0) }
    let (r, s) := State.bindStreams s allow ns
    ((n, k) :: r, s)

/-- Releases the stream slots of a queue (R283). -/
def State.freeStreams (s : State) (l : List (Nat × Nat)) : State :=
  l.foldl (fun s e => s.setLink e.1 { s.link e.1 with allow := (s.link e.1).allow.del e.2 }) s

/-- The slots of a queue that wait to be sent on a link are discarded (R283). -/
def State.dropSlotFlits (s : State) (x : Queue) : State :=
  let gone (f : Flit) : Bool := f.cls == 3 && x.flying.any (fun g => g.tok == f.msg)
  { s with links := s.links.map (fun e => (e.1, { e.2 with txq := e.2.txq.filter (fun f => !gone f) })) }

/-- A write of offset 0 of a descriptor (R282, R283). -/
def State.writeDesc0 (s : State) (q v : Nat) : State :=
  let x := s.queue q
  let x := if v / 2 % 2 = 1 then { x with err := false } else x
  if x.v then
    if v % 2 = 1 then s.setQueue q x
    else if x.binds ≠ 0 then s.setQueue q { x with err := true }
    else
      let s := s.undue (fun d => (d.what = .queueSlotArrive || d.what = .queueRefillComplete) && d.here.unit == q)
      ((s.freeStreams x.streams).dropSlotFlits x).setQueue q
        { x with v := false, streams := [], flying := [], sram := [], ringHead := 0, spilled := 0, pushed := [], refilling := false, walkBad := none }
  else
    let x := x.take0 v
    if v % 2 = 0 then s.setQueue q x
    else if reserved0 v || !x.resBad.isEmpty || !x.fieldsOk || s.queues.any (fun e => e.1 != q && x.overlaps e.2)
        || x.route.any (fun n => (s.link n).freeStream.isNone) then s.setQueue q { x with err := true }
    else
      let (st, s) := s.bindStreams x.allow x.route
      (s.setQueue q { x with v := true, streams := st }).pokeArrival q

/-- Reserved fields of the other offsets of a descriptor (Table 12.2). -/
def reservedAt (off v : Nat) : Bool :=
  match off with
  | 0x10 => v / 2 ^ 16 != 0
  | 0x20 => v / 2 ^ 17 != 0
  | 0x28 => v / 2 ^ 24 != 0
  | 0x30 | 0x38 => v != 0
  | _ => false

/-- A queue whose write at an offset had a nonzero reserved field, or none: the field reads zero, and a write that sets V looks
at it (R8, R283, log entry 63). -/
def Queue.noteReserved (x : Queue) (off v : Nat) : Queue :=
  let rest := x.resBad.filter (· != off)
  if x.v then x else { x with resBad := if reservedAt off v then off :: rest else rest }

/-- A write of another offset of a descriptor; while V = 1 only ARM takes a write (R282). -/
def State.writeDesc (s : State) (q off v : Nat) : State :=
  let x := (s.queue q).noteReserved off v
  match off with
  | 0 => s.writeDesc0 q v
  | 0x08 => if x.v then s else s.setQueue q { x with ring := BitVec.ofNat 64 v }
  | 0x10 => if x.v then s else s.setQueue q { x with quota := v % 2 ^ 16 }
  | 0x18 => if x.v then s else s.setQueue q { x with alrec := BitVec.ofNat 64 v }
  | 0x20 =>
    (s.setQueue q { x with arm := v.testBit 16, wmark := if x.v then x.wmark else v % 2 ^ 16 }).pokeArrival q
  | _ => s.setQueue q x

/-- QUEUE_ENABLE (R283): a write of offset 0 that sets V. -/
def execQueueEnable (q : Nat) (v : Dword) (s : State) : Host.Outcome State Fault Refusal :=
  if 4096 ≤ q then .next s else .next (s.writeDesc0 q (v ||| 1).toNat)

/-- QUEUE_DISABLE (R283): a write of offset 0 that clears V. -/
def execQueueDisable (q : Nat) (v : Dword) (s : State) : Host.Outcome State Fault Refusal :=
  if 4096 ≤ q then .next s else .next (s.writeDesc0 q (v &&& ~~~1#64).toNat)

-- ## The spill ring (R283, R287)

/-- Address of a ring slot. -/
def Queue.ringVa (x : Queue) (idx : Nat) : Nat := (x.ring.toNat + 128 * (idx % max 1 x.quota)) % 2 ^ 64

/-- The core at whose end a queue's slots are kept, through whose TLBs its ring is reached (R65, R282). -/
def Queue.home (x : Queue) : Nat := 40 * x.cdie + x.ccore

/-- A spill or refill whose page is in no TLB joins its walk, and waits (R66). -/
def State.ringWalk (s : State) (q va : Nat) (refill : Bool) : State :=
  let x := s.queue q
  if s.reqs.any (fun e => e.2.agent == .queue q refill) then s
  else (s.walkFor { agent := .queue q refill, kind := if refill then .read else .write, core := x.home, die := x.cdie,
                    ctx := x.ctx, va := va }).2

/-- Physical address of a ring slot: a page with RD and WR and PLC 0 or 1; `busy`: its walk is under way. A spill raises the
write heat and a refill the read heat: R67 lists no queue accesses (log entry 58). -/
def State.ringPa (s : State) (q idx : Nat) (refill : Bool) : Found Nat × State :=
  let x := s.queue q
  match s.tlbLook x.home x.ctx (x.ringVa idx) (!refill) with
  | (some e, s) =>
    let pa := physOf e.leaf e.lg (x.ringVa idx)
    (if !leafPermits e.leaf .atomic || decide (1 < leafPlc e.leaf) || s.homeOf pa == .hole then .no
     else if s.unreachable x.cdie pa then .dead (homeDie (s.homeOf pa)) else .ok pa, s)
  | (none, s) =>
    match x.walkBad with
    | some (some d) => (.dead d, s.setQueue q { x with walkBad := none })
    | some none => (.no, s.setQueue q { x with walkBad := none })
    | none => (.busy, s.ringWalk q (x.ringVa idx) refill)

/-- The launches that bind a queue and are not in a final state. -/
def State.bound (s : State) (q : Nat) : List Nat :=
  (s.launches.filter (fun e => !e.2.state.final && e.2.rcd.binds.any (fun b => (b.map Prod.fst) == some q))).map Prod.fst

/-- The record of a ring access that failed for the slot of a push (R146): a launch other than the one that pushed has no quire
in it. INHDL is the handler flag as the word was issued (log entry 29). -/
def State.ringRec (s : State) (x : Queue) (f : Slot) (lk va : Nat) : FaultRec :=
  let r : FaultRec := { cause := .perm, deliv := 2, die := x.cdie, lid := (s.launch lk).lid, fpc := f.pc, addr := va, time := s.now }
  if f.lk = lk then { r with mask := f.lanes, slot := f.slot, qid := f.qid, gid := f.gid, inHdl := f.inHdl } else r

/-- A ring access that fails translation ends every live launch bound to the queue with PERM (R146, R283), and one that needs
a failed die with LINK (R20). -/
def State.ringFails (s : State) (q va : Nat) (f : Slot) (dead : Option Nat) : State :=
  (s.bound q).foldl (fun s lk => match dead with
    | some d => s.failByDie lk d
    | none => s.raiseFatal lk (s.ringRec (s.queue q) f lk va)) s

/-- Starts a refill of the ring head when there is room for it (R287, R291). -/
def State.startRefill (s : State) (q : Nat) : State :=
  let x := s.queue q
  if !x.refilling && !x.frozen && x.spilled != 0 && decide (x.sram.length < x.nslot) then
    (s.setQueue q { x with refilling := true }).due 240 { unit := q } .queueRefillComplete
  else s

/-- The slot at the head of the route may be looked at again. -/
def State.pokeSlots (s : State) (q : Nat) : State :=
  match (s.queue q).flying with
  | x :: _ => if x.stage = 2 then s.dueOnce 0 { unit := q } .queueSlotArrive else s
  | [] => s

/-- Allowance of a stream slot goes back to the sender of a link (R49). -/
def State.giveAllowance (s : State) (n sid k : Nat) : State :=
  let b := backLink n
  let l := s.link b
  (s.setLink b { l with linkq := l.linkq ++ [{ seq := (s.link n).expected, cls := 0, typ := 3, sid := sid, len := 1, payload := [BitVec.ofNat 8 k] }] }).dueOnce
    0 { unit := b } .flitSend

/-- The three flits of a slot of a queue are no longer on the last link of its route (R49). -/
def State.slotGone (s : State) (q : Nat) : State :=
  match (s.queue q).streams.getLast? with
  | some (n, sid) => s.giveAllowance n sid 3
  | none => s

/-- A slot at the consumer end goes to queue SRAM, or to the ring tail (R287, R291), whose line it waits for at its home (R74,
R185). -/
def State.landSlot (s : State) (q : Nat) (f : Slot) (rest : List Slot) : State :=
  let x := s.queue q
  let bs := f.bytes
  if !x.frozen && decide (x.sram.length < x.nslot) && x.spilled == 0 then
    (((s.setQueue q { x with flying := rest, sram := x.sram ++ [(bs, false)] }).slotGone q).pokeSlots q).pokeArrival q
  else if x.quota ≤ x.spilled then s
  else
    match s.ringPa q (x.ringHead + x.spilled) false with
    | (.ok pa, s) =>
      if !s.lineFree pa then s.dueOnce 1 { unit := q } .queueSlotArrive
      else
        let s := (s.countRac x.cdie pa).applyWrite pa bs
        (((s.setQueue q { x with flying := rest, spilled := x.spilled + 1, pushed := x.pushed ++ [{ f with bytes := [] }] }).slotGone q).pokeSlots q).pokeArrival q
    | (.busy, s) => s
    | (r, s) =>
      (((s.setQueue q { s.queue q with flying := rest }).ringFails q (x.ringVa (x.ringHead + x.spilled)) f r.dead?).slotGone q).pokeSlots q

/-- QUEUE_SLOT_ARRIVE (R287, R291): the oldest slot, once it is at the consumer end. A slot that finds no room
waits on its link. -/
def execQueueSlotArrive (s : State) : Host.Outcome State Fault Refusal :=
  let q := s.here.unit
  match (s.queue q).flying with
  | x :: rest => if x.stage = 2 then .next (s.landSlot q x rest) else .next s
  | [] => .next s

/-- QUEUE_REFILL_COMPLETE (R287): the slot at the ring head is read once no request stands before it (R75, R185). -/
def execQueueRefillComplete (s : State) : Host.Outcome State Fault Refusal :=
  let q := s.here.unit
  let x := s.queue q
  if !x.refilling || x.frozen || x.spilled == 0 || decide (x.nslot ≤ x.sram.length) then
    .next (s.setQueue q { x with refilling := false })
  else
    match s.ringPa q x.ringHead true with
    | (.ok pa, s) =>
      if !(s.lineWaits 32 (pa / 128)).isEmpty || s.moving pa true then .next (s.dueOnce 1 { unit := q } .queueRefillComplete)
      else
        let x := { x with refilling := false, sram := x.sram ++ [(s.bytes pa 128, s.poison.contains (pa / 128))],
                          ringHead := (x.ringHead + 1) % max 1 x.quota, spilled := x.spilled - 1,
                          pushed := x.pushed.drop 1 }
        .next ((((s.countRac x.cdie pa).setQueue q x).startRefill q).pokeSlots q)
    | (.busy, s) => .next s
    | (r, s) =>
      .next ((s.setQueue q { s.queue q with refilling := false }).ringFails q (x.ringVa x.ringHead) (x.pushed.headD {}) r.dead?)

-- ## Push and pop (R285-R289)

/-- The slot a push forms: participants give their bytes, other lanes zero (R285). -/
def Ictx.slotOf (x : Ictx) (va : VReg) : List Byte :=
  (List.range 32).flatMap (fun i => toLe 4 (if x.lanes.getLsbD i then ((x.q.th i).rv va).toNat else 0))

/-- Sends the slots of a queue whose releases are over, oldest first: no slot passes one that its release holds
(R287, R289). -/
def State.sendSlotsOf (s : State) (q : Nat) : List Slot → State
  | [] => s
  | f :: fs =>
    if f.hold ≠ 0 then s
    else if f.stage ≠ 0 then State.sendSlotsOf s q fs
    else
      let y := s.queue q
      let at' (n : Nat) : State := s.setQueue q { y with
        flying := y.flying.map (fun g => if g.tok = f.tok then { g with stage := n } else g) }
      let s := match y.streams with
        | [] => (at' 2).pokeSlots q
        | (n, sid) :: _ => (at' 1).enqueue n (slotFlits f.tok y.cdie sid f.bytes)
      State.sendSlotsOf s q fs

/-- The queue accepts a slot; with a release its sending waits for that (R286, R289). -/
def Ictx.pushSlot (x : Ictx) (s : State) (n : Nat) (va : VReg) (rel : Bool) (scope : Nat) : State :=
  let w := { s.releaseSet x.core x.slot none scope s.fresh with goal := .push x.core x.slot }
  let (hold, s) := if rel && !s.waitOver w then s.addWait w else (0, s)
  let (tok, s) := s.take
  let y := s.queue n
  let f : Slot := { bytes := x.slotOf va, hold := hold, tok := tok, pc := x.pc, lk := x.q.lk, slot := x.slot, qid := x.q.qid,
                    gid := x.q.gid, lanes := x.lanes, inHdl := (x.q.th ((lanesOf x.lanes).headD 0)).handler }
  let s := s.setQueue n { y with flying := y.flying ++ [f] }
  s.sendSlotsOf n (s.queue n).flying

/-- The release of a push is over: its slot may be sent (R289). -/
def State.sendSlots (s : State) (id : Nat) : State :=
  s.queues.foldl (fun s e =>
    let y := s.queue e.1
    if y.flying.any (fun f => f.hold == id) then
      let s := s.setQueue e.1 { y with flying := y.flying.map (fun f => if f.hold = id then { f with hold := 0 } else f) }
      s.sendSlotsOf e.1 (s.queue e.1).flying
    else s) s

/-- The queue of a binding of the word's launch, if it is the end asked for (R285). -/
def Ictx.endOf (x : Ictx) (n : BitVec 2) (consumer : Bool) : Option Nat :=
  match x.s.binding x.q n.toNat with
  | some (q, e) =>
    if e = consumer ∧ (!consumer || (x.s.queue q).ccore == x.core % 40) then some q else none
  | none => none

/-- The slot at the head of queue SRAM is bound, and written into the participants 8 cycles later (R287, R408). -/
def Ictx.popSlot (x : Ictx) (s : State) (n : Nat) (vd : VReg) (acq : Bool) (scope la : Nat) : State :=
  let y := s.queue n
  match y.sram with
  | [] => s
  | (bs, _) :: rest =>
    let s := (s.setQueue n { y with sram := rest }).startRefill n
    let s := if acq then s.acquire x.core x.slot scope else s
    let (id, s) := s.take
    let buf := (lanesOf x.lanes).foldl (fun b i => Tab.setMany b (64 * i) (slice bs (4 * i) 4)) []
    let s := { s with ins := s.ins.set id { x.ins with result := .load 2 vd.toNat, buf := buf } }
    let s := s.addOutst x.core x.slot x.lanes { id := id, la := la, fpDone := true, regs := [vd.toNat] }
    (s.due (s.ticksTo (s.cycle + s.parts x.core 8)) { unit := id, sub := 1 } .dataArrive).pokeSlots n

/-- The head slot of queue SRAM holds an uncorrectable error. -/
def Queue.headBad (y : Queue) : Bool := (y.sram.head?.map Prod.snd).getD false

/-- The state with the head slot of a queue rewritten as zero (R155). -/
def State.scrubSlot (s : State) (n : Nat) : State :=
  let y := s.queue n
  s.setQueue n { y with sram := match y.sram with
    | [] => []
    | _ :: rest => (List.replicate 128 0, false) :: rest }

/-- DETAIL of an ECC fault in a queue slot (Table 6.5). -/
def slotDetail : Nat := 3 * 2 ^ 17

/-- QPUSH (R285, R286, R408). -/
def execQpush (h : Head) (n : BitVec 2) (va : VReg) (rel : Bool) (scope : BitVec 3) (la : BitVec 4) (s : State) :
    Host.Outcome State Fault Refusal :=
  issue (.qpush h n va rel scope la) h s (fun x =>
    match x.endOf n false with
    | none => .trap .param x.lanes 0 0
    | some q =>
      let y := x.s.queue q
      if y.nslot + y.quota ≤ y.occ then .trap .quota x.lanes 0 q
      else .ok (x.pushSlot x.s q va rel scope.toNat))

/-- QPOP (R285, R287, R408). -/
def execQpop (h : Head) (n : BitVec 2) (vd : VReg) (acq : Bool) (scope : BitVec 3) (la : BitVec 4) (s : State) :
    Host.Outcome State Fault Refusal :=
  issue (.qpop h n vd acq scope la) h s (fun x =>
    match x.endOf n true with
    | none => .trap .param x.lanes 0 0
    | some q =>
      if (x.s.queue q).headBad then .ecc (x.s.scrubSlot q) x.lanes slotDetail
      else .ok (x.popSlot x.s q vd acq scope.toNat la.toNat))

/-- The state with a predicate written in every participant (R408). -/
def Ictx.setPd (x : Ictx) (s : State) (pd : PReg) (b : Bool) : State :=
  s.setQuire x.core x.slot ((s.quire x.core x.slot).laneWrite x.lanes (fun _ _ => outP pd b))

/-- QTRY_PUSH (R288, R408). -/
def execQtryPush (h : Head) (n : BitVec 2) (pd : PReg) (va : VReg) (rel : Bool) (scope : BitVec 3) (la : BitVec 4)
    (s : State) : Host.Outcome State Fault Refusal :=
  issue (.qtryPush h n pd va rel scope la) h s (fun x =>
    match x.endOf n false with
    | none => .trap .param x.lanes 0 0
    | some q =>
      let y := x.s.queue q
      if y.nslot + y.quota ≤ y.occ then .ok (x.setPd x.s pd false)
      else .ok (x.setPd (x.pushSlot x.s q va rel scope.toNat) pd true))

/-- QTRY_POP (R288, R408). -/
def execQtryPop (h : Head) (n : BitVec 2) (pd : PReg) (vd : VReg) (acq : Bool) (scope : BitVec 3) (la : BitVec 4)
    (s : State) : Host.Outcome State Fault Refusal :=
  issue (.qtryPop h n pd vd acq scope la) h s (fun x =>
    match x.endOf n true with
    | none => .trap .param x.lanes 0 0
    | some q =>
      if (x.s.queue q).sram.isEmpty then .ok (x.setPd x.s pd false)
      else if (x.s.queue q).headBad then .ecc (x.s.scrubSlot q) x.lanes slotDetail
      else .ok (x.setPd (x.popSlot x.s q vd acq scope.toNat la.toNat) pd true))

/-- The queue state word (Table 12.3). -/
def Queue.word (y : Queue) (consumer : Bool) : Nat :=
  y.occ % 2 ^ 16 + y.spilled * 2 ^ 16 + (decide (0 < y.quota)).toNat * 2 ^ 32 + y.arm.toNat * 2 ^ 33
    + y.alive.isSome.toNat * 2 ^ 34 + consumer.toNat * 2 ^ 35

/-- QSTAT (R288, R408). -/
def execQstat (h : Head) (n : BitVec 2) (sd : SReg) (la : BitVec 4) (s : State) : Host.Outcome State Fault Refusal :=
  issue (.qstat h n sd la) h s (fun x =>
    match x.s.binding x.q n.toNat with
    | none => .trap .param x.lanes 0 0
    | some (q, e) => .ok (x.put (x.q.setS sd.toNat (BitVec.ofNat 64 ((x.s.queue q).word e)))))

end Sys2Proof.Machine
end

