-- ==== Sys2Proof/Machine/Place.lean ====
section
/-! DEFINITION. Dispatchers and the resources of cores (R115-R121, R124, R177, R179, R183, R290): GROUP_PLACE,
DISPATCH_STEAL, STEAL_COMPLETE, RESERVATION, SHARE_CLEAR_DONE, BLOCK_CLEAR_DONE, CLAIM_GRANT and
ARRIVAL_TRIGGER. -/

namespace Sys2Proof.Machine

-- ## Order among launches (R115)

/-- Effective priority (R115). -/
def State.priority (s : State) (l : Launch) : Nat := min l.rcd.prio (s.ctx l.ctx).pmax.toNat

/-- A launch ranks before another: by effective priority, then by acceptance (R115). -/
def State.ranksBefore (s : State) (a b : Nat × Launch) : Bool :=
  decide (s.priority b.2 < s.priority a.2) || (s.priority a.2 == s.priority b.2 && decide (a.2.order ≤ b.2.order))

/-- Launches that meet a test, in the order of R115. -/
def State.ranked (s : State) (f : Launch → Bool) : List (Nat × Launch) :=
  sortBy s.ranksBefore (s.launches.filter (fun e => f e.2))

/-- The launch is ranked by the dispatchers while groups of it are not placed (R115). -/
def Launch.dispatchable (l : Launch) : Bool :=
  (l.state == .ready || l.state == .running || l.state == .preempted) && l.ending.isNone

/-- Groups of the launch may be placed now (R115, R123, R158). -/
def Launch.placing (l : Launch) : Bool := (l.state == .ready || l.state == .running) && !l.halted

/-- Unplaced groups of a die's range. -/
def Launch.groupsOf (l : Launch) (d : Nat) : List Nat := l.unplaced.get [] d

/-- When the launch became dispatchable on a die (R121). -/
def Launch.since (l : Launch) (d : Nat) : Nat := l.dieAt.get l.readyAt d

-- ## What a group needs (R117)

/-- The share of a launch on a core, with its number. -/
def Core.shareNo (k : Core) (lk : Nat) : Option Nat :=
  (k.shares.find? (fun e => e.2.lk == lk && !e.2.clearing)).map Prod.fst

/-- Free quire slots, lowest first. -/
def Core.freeSlots (k : Core) : List Nat := (List.range 64).filter (fun j => !(k.quire j).live)

/-- Banks that belong to no share and are not being cleared, lowest first. -/
def Core.freeBanks (k : Core) : List Nat :=
  (List.range 12).filter (fun b => k.shares.all (fun e => !e.2.banks.contains b))

/-- Shares that live on a core. -/
def Core.liveShares (k : Core) : Nat := (k.shares.filter (fun e => !e.2.clearing)).length

/-- A group of a record fits the resources of a core, `lk` being its launch, if it has one (R117, R169). -/
def Core.fitsRecord (k : Core) (r : Record) (lk : Option Nat) : Bool :=
  decide (r.qpg ≤ k.freeSlots.length) && decide (r.qpg * r.blocks ≤ k.freeBlocks) && k.claims.isEmpty
    && decide (k.groups.length < 64)
    && ((lk.bind k.shareNo).isSome || (decide (k.liveShares < 4) && decide (r.nbank ≤ k.freeBanks.length)))
    && (k.reserved.isNone || k.reserved == lk) && k.restoreFor.isNone

/-- A group of a launch fits a core. -/
def State.fits (s : State) (c lk : Nat) : Bool := (s.core c).fitsRecord (s.launch lk).rcd (some lk)

/-- The one core that may take the groups of a launch which binds a consumer end (R116, R284). -/
def State.onlyCore (s : State) (l : Launch) : Option Nat :=
  l.rcd.used.findSome? (fun b => (s.bindPlace b).2)

/-- Cores of a die that a launch's groups may go to, cyclically from one on. -/
def State.coresFrom (s : State) (d lk start : Nat) : List Nat :=
  let all := (List.range 40).map (fun k => (start + k) % 40)
  (match s.onlyCore (s.launch lk) with
    | some c => all.filter (· == c)
    | none => all).map (fun k => 40 * d + k)

-- ## Placement (R118, R119, R124, R183)

/-- The share a group of a launch joins, created with its banks where there is none (R119). -/
def Core.joinShare (k : Core) (lk : Nat) (r : Record) : Nat × Core :=
  match k.shareNo lk with
  | some n => (n, k)
  | none =>
    let n := ((List.range 64).find? (fun n => (k.shares.find n).isNone)).getD 0
    let bs := k.freeBanks.take r.nbank
    let k := { k with shares := k.shares.set n { lk := lk, banks := bs } }
    (n, ((List.range bs.length).zip bs).foldl (fun k e =>
      k.setBank e.2 { mode := if r.bmode.testBit e.1 then .compute else .storage }) k)

/-- Lowest group number free in a share (R169). -/
def Core.freeGroup (k : Core) (share : Nat) : Nat :=
  ((List.range 64).find? (fun g => (k.groups.find (groupKey share g)).isNone)).getD 0

/-- A new thread (Table 7.4, R299). -/
def newThread (r : Record) (lid tid : Nat) : Thread :=
  let pc := r.code + BitVec.ofNat 64 r.entry
  { pc := pc, repc := pc, lfsr := lfsrSeed lid tid }

/-- A new quire (R167, R183, Table 7.4); its launch's acquire is performed as it is created (R94). -/
def newQuire (l : Launch) (lk g j grp share now : Nat) : Quire :=
  let qid := g * l.rcd.qpg + j
  { live := true, lk := lk, qid := qid, gid := g, grp := grp, share := share, blocks := l.rcd.blocks,
    threads := (List.range 32).map (fun i => (i, newThread l.rcd l.lid (qid * 32 + i))),
    atD := now, atP := now, groups := [grp] }

/-- A quire takes a slot, in the active set when that has room (R124). -/
def Core.seat (k : Core) (j : Nat) (q : Quire) (cycle : Nat) : Core :=
  let act := decide (k.actives.length < 8)
  { k with enterCount := k.enterCount + 1 }.setQuire j
    { q with active := act, entered := k.enterCount, stamp := cycle }

/-- The quires of a group, each in the lowest free slot (R124). -/
def Core.seatGroup (k : Core) (l : Launch) (lk g grp share now cycle : Nat) : Core :=
  (List.range l.rcd.qpg).foldl (fun k j =>
    k.seat (k.freeSlots.headD 0) (newQuire l lk g j grp share now) cycle) k

/-- A group is placed on a core (R118, R119, R169). -/
def State.placeGroup (s : State) (c lk g : Nat) : State :=
  let l := s.launch lk
  let (share, k) := (s.core c).joinShare lk l.rcd
  let grp := k.freeGroup share
  let k := { k with groups := k.groups.set (groupKey share grp) { members := l.rcd.qpg },
                    freeBlocks := k.freeBlocks - l.rcd.qpg * l.rcd.blocks }
  let k := k.seatGroup l lk g grp share (s.nowAt (dieOf c)) s.cycle
  let d := dieOf c
  let die := s.die d
  let freed := match die.resv with
    | some (_, r, _) => r == lk
    | none => false
  let k := if freed && k.reserved == some lk then { k with reserved := none } else k
  let s := s.setCore c k
  let s := match die.resv with
    | some (rc, r, _) => if r = lk then (s.setCore rc { s.core rc with reserved := none }).pokeArrivals rc else s
    | none => s
  let s := s.setDie d { die with lastCore := die.lastCore.set lk (c % 40), lastPlace := s.now,
                                 resv := if freed then none else die.resv }
  let s := s.setLaunch lk { l with unplaced := l.unplaced.set d ((l.groupsOf d).filter (· != g)),
                                   quires := l.quires + l.rcd.qpg }
  if l.state = .ready then (s.setState lk .running).pokeWaiting l.ctx else s

/-- Where the dispatcher of a die places a group next: core, launch, group (R118). -/
def State.placement (s : State) (d : Nat) : Option (Nat × Nat × Nat) :=
  (s.ranked Launch.placing).findSome? (fun e =>
    match (e.2.groupsOf d).head? with
    | none => none
    | some g =>
      let start := match (s.die d).lastCore.find e.1 with
        | some c => c + 1
        | none => 0
      ((s.coresFrom d e.1 start).find? (fun c => s.fits c e.1)).map (fun c => (c, e.1, g)))

/-- The first launch in a dispatcher's order that has an unplaced group there (R121). -/
def State.firstWaiting (s : State) (d : Nat) : Option (Nat × Launch) :=
  (s.ranked (fun l => l.dispatchable && !(l.groupsOf d).isEmpty)).head?

/-- The dispatcher of a die looks for a reservation when its first group has waited 4,096 ticks (R121). -/
def State.watchReserve (s : State) (d : Nat) : State :=
  match s.firstWaiting d, (s.die d).resv with
  | some e, none =>
    (s.undue (fun x => x.what = .reservation && x.here.unit == d)).due (e.2.since d + 4096 - s.now) { unit := d } .reservation
  | _, _ => s

/-- GROUP_PLACE (R118): at most one placement every 2 ticks; a dispatcher without a group of its own looks for
one to steal (R120). -/
def execGroupPlace (s : State) : Host.Outcome State Fault Refusal :=
  let d := s.here.unit
  let last := (s.die d).lastPlace
  if (s.die d).failed then .next s
  else if last ≠ 0 ∧ s.now < last + 2 then .next (s.pokeDie d)
  else match s.placement d with
    | some (c, lk, g) => .next (((s.placeGroup c lk g).pokeDie d).watchReserve d)
    | none =>
      if (s.firstWaiting d).isNone then .next (s.dueOnce 0 { unit := d } .dispatchSteal)
      else .next (s.watchReserve d)

-- ## Stealing (R120)

/-- The die other than one that holds the most unplaced groups of a launch, the lowest of equals (R120). -/
def Launch.victim (l : Launch) (d : Nat) : Option Nat :=
  ((List.range 16).filter (fun v => v != d && decide (2 ≤ (l.groupsOf v).length))).foldl (fun b v =>
    match b with
    | none => some v
    | some w => if (l.groupsOf w).length < (l.groupsOf v).length then some v else some w) none

/-- What an idle dispatcher steals: launch, victim, groups (R120, R284). -/
def State.loot (s : State) (d : Nat) : Option (Nat × Nat × List Nat) :=
  (s.ranked Launch.dispatchable).findSome? (fun e =>
    match e.2.victim d with
    | none => none
    | some v =>
      if e.2.rcd.used.isEmpty && e.2.arrival.isNone && (List.range 40).any (fun c => s.fits (40 * d + c) e.1) then
        let gs := e.2.groupsOf v
        some (e.1, v, gs.drop (gs.length - gs.length / 2))
      else none)

/-- DISPATCH_STEAL (R120). -/
def execDispatchSteal (s : State) : Host.Outcome State Fault Refusal :=
  let d := s.here.unit
  let die := s.die d
  if die.stealing.isSome || die.failed || (s.firstWaiting d).isSome then .next s
  else match s.loot d with
    | none => .next s
    | some w => .next ((s.setDie d { die with stealing := some w }).due 100 { unit := d } .stealComplete)

/-- STEAL_COMPLETE (R120): the stolen groups that the victim has not placed move to the thief. -/
def execStealComplete (s : State) : Host.Outcome State Fault Refusal :=
  let d := s.here.unit
  let die := s.die d
  match die.stealing with
  | none => .next s
  | some (lk, v, gs) =>
    let s := s.setDie d { die with stealing := none }
    match s.launches.find lk with
    | none => .next (s.pokeDie d)
    | some l =>
      let moved := (l.groupsOf v).filter (fun g => gs.contains g)
      let rest := (l.groupsOf v).filter (fun g => !gs.contains g)
      let own := sortNat ((l.groupsOf d) ++ moved)
      let at' := if (l.groupsOf d).isEmpty && !moved.isEmpty then l.dieAt.set d s.now else l.dieAt
      .next (((s.setLaunch lk { l with unplaced := (l.unplaced.set v rest).set d own, dieAt := at' }).pokeDie d).pokeDie v)

-- ## Reservation (R121)

/-- The core of a list with the most free quire slots, the first of equals. -/
def State.roomiest (s : State) (cs : List Nat) : Option Nat :=
  cs.foldl (fun b c =>
    match b with
    | none => some c
    | some a => if (s.core a).freeSlots.length < (s.core c).freeSlots.length then some c else some a) none

/-- RESERVATION (R121): the request for a pre-emption follows 4,096 ticks later if the group still waits (R122). -/
def execReservation (s : State) : Host.Outcome State Fault Refusal :=
  let d := s.here.unit
  match s.firstWaiting d, (s.die d).resv with
  | some e, none =>
    if s.now < e.2.since d + 4096 then .next (s.watchReserve d)
    else match s.roomiest ((s.coresFrom d e.1 0).filter (fun c => (s.core c).reserved.isNone)) with
      | none => .next s
      | some c =>
        let s := s.setCore c { s.core c with reserved := some e.1 }
        let s := s.setDie d { s.die d with resv := some (c, e.1, s.now) }
        .next ((s.due 4096 { unit := d } (.preemptRequest (.dispatcher d))).pokeDie d)
  | _, _ => .next s

-- ## Resources that return (R119, R177, R179)

/-- Work of a bank is not performed yet. -/
def Bank.working (b : Bank) : Bool := b.busy || !b.queue.isEmpty

/-- SHARE_CLEAR_DONE (R119): once nothing works on them, the banks of a share that has ended are zero and free. -/
def execShareClearDone (s : State) : Host.Outcome State Fault Refusal :=
  let c := s.here.unit
  let n := s.here.sub
  let k := s.core c
  match k.shares.find n with
  | none => .next s
  | some x =>
    if !x.clearing then .next s
    else if x.banks.any (fun b => (k.bank b).working) then .next (s.due 2 s.here .shareClearDone)
    else
      let k := { k with shares := k.shares.del n, banks := k.banks.filter (fun e => !x.banks.contains e.1) }
      .next ((s.setCore c k).pokeRoom c)

/-- BLOCK_CLEAR_DONE (R177): the first released blocks that no outstanding result is destined for are free. -/
def execBlockClearDone (s : State) : Host.Outcome State Fault Refusal :=
  let c := s.here.unit
  let k := s.core c
  let ready (e : Nat × List Nat) : Bool := e.2.all (fun id => (s.ins.find id).isNone)
  match k.clearing.find? ready with
  | none => .next (if k.clearing.isEmpty then s else s.due 2 s.here .blockClearDone)
  | some e =>
    let k := { k with clearing := k.clearing.erase e, freeBlocks := k.freeBlocks + e.1 }
    .next (((s.setCore c k).pokeClaims c).pokeRoom c)

/-- Blocks that a saved share needs (R123). -/
def SavedShare.blocks (x : SavedShare) : Nat :=
  ((Tab.vals x.quires).map (fun q => q.blocks)).sum + (x.claims.map (fun j => ((x.quires.get {} j : Quire)).claimed)).sum

/-- Blocks of a core that are reserved for the launch that is being restored, until its shares are written back (R123,
R163, R179). -/
def State.restoreNeed (s : State) (c : Nat) : Nat :=
  match (s.core c).restoreFor with
  | none => 0
  | some lk =>
    if s.cores.any (fun e => e.2.shares.any (fun x => x.2.lk == lk && !x.2.clearing)) then 0
    else (((s.launch lk).saved.filter (fun x => x.core == c)).map SavedShare.blocks).sum

/-- CLAIM_GRANT (R179). -/
def execClaimGrant (s : State) : Host.Outcome State Fault Refusal :=
  let c := s.here.unit
  let k := s.core c
  let k := grantClaims (s.restoreNeed c) k k.claims
  let js := (s.core c).claims
  let s := js.foldl (fun s j => s.nextClaim c j) (s.setCore c k)
  .next (if (s.core c).claims.isEmpty then s.pokeRoom c else s)

-- ## Arrival launches (R113, R290)

/-- Bytes that a context's tables make readable, looked at with no effect. -/
def State.peekBytes (s : State) (ctx va n : Nat) : Option (List Byte) :=
  match s.peek ctx va with
  | some (pa, e) =>
    if leafPermits e .load && s.homeOf pa != .hole then some ((List.range n).map (fun k => s.seenByte ctx (pa + k)))
    else none
  | none => none

/-- The consumer core has room for a share of the launch that a queue's record describes (R117, R290). -/
def State.arrivalRoom (s : State) (x : Queue) : Bool :=
  match s.peekBytes x.ctx x.alrec.toNat 256 with
  | none => true
  | some bs =>
    let r := Record.parse bs 0
    decide (512 < r.qpg * r.blocks) || decide (32 < r.qpg) || decide (12 < r.nbank)
      || (s.core x.consumerCore).fitsRecord r none

/-- A launch bound to a queue is stopping: the queue's arrival launch does not fire (R158). -/
def State.stoppingOn (s : State) (q : Nat) : Bool := (s.bound q).any (fun lk => (s.launch lk).stopping)

/-- ARRIVAL_TRIGGER (R113, R158, R290). -/
def execArrivalTrigger (s : State) : Host.Outcome State Fault Refusal :=
  let q := s.here.unit
  let x := s.queue q
  if x.triggers && (s.ctx x.ctx).v && s.ready && !s.bridgeDown && s.arrivalRoom x && !s.stoppingOn q then
    let (lk, s) := s.newLaunch x.ctx { recPtr := x.alrec } (some q)
    .next ((s.setQueue q { x with alive := some lk }).due 30 { unit := lk } .recordCheck)
  else .next s

end Sys2Proof.Machine
end

