-- ==== Sys2Proof/Machine/End.lean ====
section
/-! DEFINITION. The end of launches and of contexts (R90, R91, R111, R113, R115, R147, R148, R164), and the ends
of waits of quires (R152, R153, R376, R385): CONTEXT_CREATE, CONTEXT_KILL, CONTEXT_CONFIG, LAUNCH_RETIRE,
LATE_FAULT, LAUNCH_FATAL, PHASE_EXPIRY, SLEEP_EXPIRY and PBAR_ARRIVAL. -/

namespace Sys2Proof.Machine

-- ## Stopping a launch (R91, R148)

/-- A wait that ends with the quire in a slot: one of it, but for that of a push, whose slot is delivered whatever becomes of
the quire (R289, R408). -/
def State.waitEnds (s : State) (c j : Nat) (w : Wait) : Bool :=
  w.goal.slot? == some (c, j) && w.goal != .push c j && w.owner == s.ownerOf w.goal

/-- The accesses of a quire that have not been sent are dropped, and no wait or result of it stands out. What an earlier quire
of its slot has not sent stays, and so does what an instruction of its banks records (R151, R166). -/
def State.dropAccesses (s : State) (c j : Nat) : State :=
  let q := s.quire c j
  let keeps (id : Nat) : Bool := (Tab.vals (s.core c).banks).any (fun b => b.queue.any (fun it => it.ins == id))
  { s with
    reqs := s.reqs.filter (fun e => !(e.2.ofQuire c j && q.owns e.2 && (e.2.unsent || e.2.lost))),
    waits := s.waits.filter (fun e => !s.waitEnds c j e.2),
    ins := s.ins.filter (fun e => !(e.2.core == c && e.2.slot == j && e.2.lk == q.lk && e.2.qid == q.qid && e.2.gid == q.gid
      && !keeps e.1)) }

/-- A quire stops for good (R148). -/
def State.killQuire (s : State) (c j : Nat) : State :=
  let s := (s.quire c j).waits.foldl (fun s w => s.withdraw c j w) s
  let k := s.core c
  let k := { k with run := match k.run with
    | some r => if r.slot = j then none else some r
    | none => none }
  let s := s.setCore c (k.leaveFolio j)
  let s := s.setQuire c j { s.quire c j with
    waits := [], threads := (s.quire c j).threads.map (fun e => (e.1, { e.2 with exited := true, pends := [], wait := none, outst := [] })) }
  ((s.dropAccesses c j).quireExit c j).sweepWaits

/-- Slots of the quires of a launch on a core. -/
def Core.slotsOf (k : Core) (lk : Nat) : List Nat :=
  (List.range 64).filter (fun j => (k.quire j).live && (k.quire j).lk == lk)

/-- No further chunk of a launch's commands on a core starts; `drop`: the commands are gone at once. -/
def State.stopCmds (s : State) (c lk : Nat) (drop : Bool) : State :=
  let k := s.core c
  let mine (x : Cmd) : Bool := x.lk == lk
  if drop then s.setCore c { k with cmds := k.cmds.filter (fun x => !mine x) }
  else
    let s := s.setCore c { k with cmds := k.cmds.map (fun x => if mine x then { x with todo := [], stolen := [] } else x) }
    (k.cmds.filter mine).foldl (fun s x => s.pokeCmd c x.id) s

/-- Microprograms of a launch that stand at a checkpoint go on to their end (R148, R252). -/
def State.wakeMicros (s : State) (c lk : Nat) : State :=
  (s.core c).banks.foldl (fun s e =>
    if e.2.micro.isSome && e.2.queue.any (fun it => it.lk == lk) then s.dueOnce 0 { unit := c, sub := e.1 } .mpEnd else s) s

/-- Every quire and engine of a launch stops (R148). -/
def State.stopLaunch (s : State) (lk : Nat) (drop : Bool) : State :=
  (s.cores.map Prod.fst).foldl (fun s c =>
    let s := s.wakeMicros c lk
    let s := (s.core c).slotsOf lk |>.foldl (fun s j => s.killQuire c j) s
    s.stopCmds c lk drop) s

/-- Cores that X-die 0 reserves for a launch are free for claims again (R123, R179). -/
def State.unhold (s : State) (lk : Nat) : State :=
  let cs := (s.cores.filter (fun e => e.2.restoreFor = some lk)).map Prod.fst
  cs.foldl (fun s c => ((s.setCore c { s.core c with restoreFor := none }).pokeClaims c).pokeArrivals c) s

/-- Reservations of cores for a launch end; the arrival launches of their queues look again (R290). -/
def State.unreserve (s : State) (lk : Nat) : State :=
  let cs := (s.cores.filter (fun e => e.2.reserved = some lk)).map Prod.fst
  let s := ({ s with
    cores := s.cores.map (fun e => if e.2.reserved = some lk then (e.1, { e.2 with reserved := none }) else e),
    dies := s.dies.map (fun e => (e.1, { e.2 with
      resv := if (e.2.resv.map (fun r => r.2.1)) = some lk then none else e.2.resv,
      preemptAsked := if e.2.preemptAsked = some lk then none else e.2.preemptAsked })),
    restoring := if s.restoring = some lk then none else s.restoring } : State).unhold lk
  cs.foldl State.pokeArrivals s

/-- The queue ends that a launch bound are free, and a frozen end goes on (R291); a launch that failed disarms its arrival (R113, R284, R290). -/
def State.unbindQueues (s : State) (lk : Nat) (l : Launch) (failed : Bool) : State :=
  let bound := if l.state = .queued then [] else (l.rcd.used.map Prod.fst).eraseDups
  let s := bound.foldl (fun s q =>
    let x := s.queue q
    s.setQueue q { x with binds := x.binds - 1, frozen := if x.consumer = some lk then false else x.frozen,
                          consumer := if x.consumer = some lk then none else x.consumer }) s
  let s := match l.arrival with
    | none => s
    | some q =>
      let x := s.queue q
      s.setQueue q { x with alive := none, arm := x.arm && !failed }
  let s := bound.foldl (fun s q => (s.startRefill q).pokeSlots q) s
  s.queues.foldl (fun s e => s.pokeArrival e.1) s

/-- A wait is for the end of a launch, or for its drain. -/
def Goal.ends (g : Goal) (lk : Nat) : Bool :=
  match g with
  | .retire k | .drain k | .added k _ => k == lk
  | _ => false

/-- A launch reaches a final state, and nothing of it is left: a retire add that still waits at its home is not applied
(R91, R95, R102). -/
def State.finish (s : State) (lk : Nat) (st : LState) : State :=
  let l := s.launch lk
  let s := s.setState lk st
  let s := s.unbindQueues lk l (st != .done)
  let s := s.unreserve lk
  let cores : Tab Core := s.cores.map (fun e => (e.1, ({ e.2 with accepted := e.2.accepted.del lk, codex := e.2.codex.filter (fun x => x.2.owner != some lk) } : Core)))
  let dies : Tab Die := s.dies.map (fun e => (e.1, { e.2 with lastCore := e.2.lastCore.del lk }))
  let s := { s with
    launches := s.launches.del lk, dies := dies,
    fatal := s.fatal.filter (fun e => e.1 != lk),
    reqs := s.reqs.filter (fun e => !(e.2.lk == lk && (e.2.lost || e.2.agent == Agent.logic))),
    waits := s.waits.filter (fun e => !e.2.goal.ends lk),
    cores := cores }
  (s.sweepWaits.pokeWaiting l.ctx).pokeDies

-- ## Retirement (R111)

/-- No command of a launch is left on any core. -/
def State.noCmds (s : State) (lk : Nat) : Bool := s.cores.all (fun e => e.2.cmds.all (fun x => x.lk != lk))

/-- A launch may begin to retire: every quire has exited, every copy status is written, and no group is left to
place unless it ends by a failure. -/
def State.mayRetire (s : State) (lk : Nat) (l : Launch) : Bool :=
  !l.retiring && l.quires == 0 && s.noCmds lk
    && (l.ending.isSome || (l.state == .running && l.unplaced.all (fun e => e.2.isEmpty)))

/-- Largest GWCT that a die has seen answered. -/
def State.lastGwct (s : State) : Nat := (s.dies.filter (fun e => decide (e.1 < 16))).foldl (fun n e => max n e.2.gwctMax) 0

/-- What step 1 of retirement waits for: every store, `red` and remote access of the launch (R111). -/
def State.retireWait (s : State) (lk : Nat) : Wait :=
  { goal := .retire lk, need := s.lastGwct, die := 0,
    reqs := s.reqsWith (fun _ r => r.lk == lk && !r.lost && !r.prefetch && r.srcDev.isNone && (r.isStore || r.space == 3)) }

/-- The retire add is made (R111). -/
def Launch.adds (l : Launch) : Bool :=
  l.recOk && l.rcd.retPtr != 0 && (l.ending.isNone || l.rcd.failAdd)

/-- The record of a retire add that fails (R111). -/
def State.retireRec (s : State) (l : Launch) : FaultRec :=
  { cause := .perm, deliv := 3, isFatal := false, die := 24, lid := l.lid, addr := l.rcd.retPtr.toNat, time := s.now }

/-- An add that needs a failed die ends its launch with LINK (R20); one whose route crosses a bridge that is down is not
performed, the launch having ended with LINK already (R47). -/
def State.retireDead (s : State) (lk : Nat) (l : Launch) (d : Nat) : State :=
  if !(s.die d).failed then s
  else
    let s := s.writeRecord l.ctx (s.dieRec lk d .link)
    if l.ending.isSome then s else s.setLaunch lk { l with ending := some .fFault, cause := some .link }

/-- Step 2 of retirement (R111): the add is made, waits at its home, or leaves a record where its home or its translation
rejects it. -/
def State.retireAdd (s : State) (lk : Nat) (l : Launch) : Added × State :=
  if !l.adds then (.done, s)
  else match s.logicPa l.ctx l.rcd.retPtr.toNat .atomic with
    | (.ok pa, s) => if isRegArea pa then (.rejected, s) else s.homeAdd lk l.ctx l.rcd.retPtr.toNat pa l.rcd.retAdd
    | (.dead d, s) => (.done, s.retireDead lk l d)
    | (_, s) => (.rejected, s)

/-- Steps 3 and 4 of retirement (R84, R111). -/
def State.closeLaunch (s : State) (lk : Nat) (l : Launch) : State :=
  let vec := (s.ctx l.ctx).vec.toNat
  let s := s.finish lk (l.ending.getD .done)
  if 3 ≤ vec then s.tell (.msix vec) else s

/-- Steps 2 to 4 of retirement (R84, R111). -/
def State.endRetire (s : State) (lk : Nat) : State :=
  match s.launches.find lk with
  | none => s
  | some l =>
    match s.retireAdd lk l with
    | (.done, s) => s.closeLaunch lk (s.launch lk)
    | (.rejected, s) => (s.writeRecord l.ctx (s.retireRec l)).closeLaunch lk l
    | (.waits id, s) => (s.addWait { goal := .added lk true, reqs := [id], die := 24 }).2

/-- The retire add of a launch has been answered (R111). -/
def State.endAdded (s : State) (lk : Nat) (ok : Bool) : State :=
  match s.launches.find lk with
  | none => s
  | some l => (if ok then s else s.writeRecord l.ctx (s.retireRec l)).closeLaunch lk l

/-- LAUNCH_RETIRE (R111): step 1, and the rest at once when nothing stands out. -/
def execLaunchRetire (s : State) : Host.Outcome State Fault Refusal :=
  let lk := s.here.unit
  match s.launches.find lk with
  | none => .next s
  | some l =>
    if !s.mayRetire lk l then .next s
    else
      let s := s.setLaunch lk { l with retiring := true, stopping := false }
      let w := s.retireWait lk
      .next (if s.waitOver w then s.endRetire lk else (s.addWait w).2)

-- ## Fatal causes (R147, R148, R164)

/-- A fatal cause reaches X-die 0: its record is written, and the first of a launch ends it (R148). -/
def State.takeFatal (s : State) (lk : Nat) : State :=
  match s.fatal.find? (fun e => e.1 == lk) with
  | none => s
  | some e =>
    let s := { s with fatal := s.fatal.erase e }
    match s.launches.find lk with
    | none => s
    | some l =>
      let s := s.writeRecord l.ctx e.2
      if l.ending.isSome then s
      else
        let s := s.setLaunch lk { s.launch lk with
          ending := some .fFault, cause := some e.2.cause, stopping := false,
          quires := if l.state = .preempted then 0 else l.quires, saved := [] }
        (((s.stopLaunch lk false).unreserve lk).pokeRetire lk).pokeWaiting l.ctx

/-- LATE_FAULT (R147); a record that has waited for its slot's line (R151). -/
def execLateFault (s : State) : Host.Outcome State Fault Refusal :=
  .next (if s.here.sub = 1 then s.flushRecord s.here.unit else s.takeFatal s.here.unit)

/-- LAUNCH_FATAL (R148). -/
def execLaunchFatal (s : State) : Host.Outcome State Fault Refusal := .next (s.takeFatal s.here.unit)

-- ## Contexts (R90, R91, R95, R115)

/-- The die with the WAYRES registers of a context cleared; the lines they retained become ordinary lines (R80, R81). -/
def Die.clearWays (d : Die) (ctx : Nat) : Die :=
  let mine := (List.range 8).filter (fun n => (d.wayRes n).ctx == ctx && d.wayRes n != {})
  mine.foldl (fun d n => { d.unretain n with wayres := d.wayres.set n {} }) d

/-- A context is killed: its launches end in F_KILLED, its generation ends, its residency ranges clear
(R80, R91). The entries of its resident-range cache stay: no rule says that a kill, or a creation with another root, empties
it (R102, log entry 51). -/
def State.killContext (s : State) (ctx : Nat) : State :=
  let s := (s.launches.filter (fun e => e.2.ctx == ctx)).foldl (fun s e =>
    (s.stopLaunch e.1 true).finish e.1 .fKilled) s
  let x := s.ctx ctx
  let dies : Tab Die := s.dies.map (fun e => (e.1, e.2.clearWays ctx))
  let s := { s with dies := dies }
  let s := { s with records := s.records.filter (fun e => e.1 != ctx) }
  (s.setCtx ctx { x with v := false, gen := x.gen + 1, rids := [] }).pokeWaiting ctx

/-- A context is created (R90, R95, Table 6.3). -/
def Ctx.create (x : Ctx) : Ctx :=
  { x with v := true, kept := [], lid := 0, nextLid := 1, frLost := 0, rids := [] }

/-- The fields of CTL that take a write (Table 4.4). -/
def Ctx.takeCtl (x : Ctx) (v : Dword) : Ctx :=
  let vec := v.extractLsb' 24 6
  { x with pmax := v.extractLsb' 16 2, pvic := v.getLsbD 18, vec := if vec = 1 ∨ vec = 2 then 0 else vec }

/-- A write of CTL (R90, R91, R115). -/
def State.writeCtl (s : State) (ctx : Nat) (v : Dword) : State :=
  let s := s.setCtx ctx ((s.ctx ctx).takeCtl v)
  let x := s.ctx ctx
  let s := if x.v && !v.getLsbD 0 then s.killContext ctx
    else if !x.v && v.getLsbD 0 then s.setCtx ctx x.create
    else s
  s.pokeDies

/-- CONTEXT_CREATE (R90): a write of CTL with V = 1. -/
def execContextCreate (ctx : Nat) (v : Dword) (s : State) : Host.Outcome State Fault Refusal :=
  .next (if ctx < 64 then s.writeCtl ctx (v ||| 1) else s)

/-- CONTEXT_KILL (R91): a write of CTL with V = 0. -/
def execContextKill (ctx : Nat) (v : Dword) (s : State) : Host.Outcome State Fault Refusal :=
  .next (if ctx < 64 then s.writeCtl ctx (v &&& ~~~1#64) else s)

/-- CONTEXT_CONFIG (R115): a write of CTL that keeps V. -/
def execContextConfig (ctx : Nat) (v : Dword) (s : State) : Host.Outcome State Fault Refusal :=
  .next (if ctx < 64 then
    s.writeCtl ctx (if (s.ctx ctx).v then v ||| 1 else v &&& ~~~1#64) else s)

-- ## Phase timers (R152, R153)

/-- The wait of a quire that a lane's instruction began. -/
def Quire.laneWait (q : Quire) (i : Nat) : Option QWait := q.waits.find? (fun w => w.lanes.getLsbD i)

/-- The thread waits, at its next word, for a unit whose wait a phase expiry ends (R153). -/
def abandons : Stall → Bool
  | .qfull | .qempty | .bank | .copy => true
  | _ => false

/-- What a thread waits for at its next word: its outstanding instructions, and a unit. -/
structure NextWait where
  own : Option Stall := none
  unit : Option Stall := none
  deriving DecidableEq, Repr, Inhabited

/-- An instruction whose wait a phase expiry abandons: a `bwait`, and a lane access that a transition of its bank holds
(R153, Table 5.1). -/
def Thread.abandoned (s : State) (t : Thread) : Option (Outst × Dword) :=
  (t.outst.filter (fun o => o.reason == .bank)).findSome? (fun o =>
    if !o.banks.isEmpty then some (o, o.pc)
    else if s.reqs.any (fun e => e.2.ins == o.id && e.2.space == 1) then (s.ins.find o.id).map (fun n => (o, n.pc))
    else none)

/-- What a thread takes as its quire's timer expires: NP, %fpc, and the instruction that it abandons (R153). `w`: the quire's
wait that it is in; `n`: what it waits for at its next word. -/
def Thread.takePhase (s : State) (t : Thread) (w : Option QWait) (n : NextWait) : Bool × Dword × Option Nat :=
  match w, t.wait, n.own with
  | some w, _, _ => (false, w.pc, none)
  | none, some x, _ => (false, x.pc, none)
  | none, none, some .bank =>
    (match t.abandoned s with
      | some (o, pc) => (false, pc, some o.id)
      | none => (true, t.pc, none))
  | none, none, some _ => (true, t.pc, none)
  | none, none, none => (!(n.unit.map abandons).getD false, t.pc, none)

/-- The fault that a thread takes as its quire's timer expires (R153). -/
def Quire.phasePend (s : State) (q : Quire) (n : Thread → NextWait) (m : Lanes) (count i : Nat) : Pend :=
  let r := (q.th i).takePhase s (q.laneWait i) (n (q.th i))
  { cause := .phase, np := r.1, fpc := r.2.1, mask := m, detail := count }

/-- The instruction of a lane is not performed: its access to a bank goes (R153). -/
def State.abandon (s : State) (c j i id : Nat) : State :=
  let gone := s.reqsWith (fun _ r => r.ins == id && r.lane == i)
  let s := { s with reqs := s.reqs.filter (fun e => !gone.contains e.1), ins := match s.ins.find id with
    | some n => s.ins.set id { n with left := n.left - gone.length, lanes := n.lanes &&& ~~~maskOf [i] }
    | none => s.ins }
  (s.finishOutst c j (maskOf [i]) id).sweepWaits

/-- Waits of a quire, one for each arrival at a group's barrier (R173). -/
def singleArrivals : List QWait → List QWait
  | [] => []
  | w :: ws =>
    let rest := singleArrivals ws
    match w.kind with
    | .gbar _ => w :: rest.filter (fun x => x.kind != w.kind)
    | _ => w :: rest

/-- PHASE at every thread of a quire that has not exited; it is delivered at the thread's next run start, %fpc
being settled then for a thread that stands at its next word (R153), and ends the launch where no handler takes it (R145): at
once, or, with a thread in an iteration of a folio, at the boundary where it takes PHASE (R269). DETAIL is the first count
above the limit (R152). `look`: what a thread waits for. -/
def State.phaseAll (s : State) (c j : Nat) (look : Thread → NextWait) : State :=
  let q := s.quire c j
  let live := (List.range 32).filter (fun i => !(q.th i).exited)
  let m := maskOf live
  let count := q.timer.limit + 1
  let p (i : Nat) : Pend := q.phasePend s look m count i
  let s := s.setQuire c j { q with timer := { q.timer with armed := false, count := count } }
  if s.endsLaunch c j m (p 0) && (s.inIteration c j m).isEmpty then s.takeFault c j m (p (live.headD 0)) 0 count
  else
    let s := s.setQuire c j ((s.quire c j).mapLanes live (fun i t => { t with wait := none, pends := t.pends ++ [p i] }))
    let s := live.foldl (fun s i => match ((q.th i).takePhase s (q.laneWait i) (look (q.th i))).2.2 with
      | some id => s.abandon c j i id
      | none => s) s
    let s := (singleArrivals q.waits).foldl (fun s w => s.withdraw c j w) s
    s.setQuire c j { s.quire c j with waits := [] }

/-- SLEEP_EXPIRY (R376): the sleepers of a quire whose deadline has come are eligible. -/
def execSleepExpiry (s : State) : Host.Outcome State Fault Refusal :=
  let c := s.here.unit
  let j := s.here.sub
  let n := s.nowAt (dieOf c)
  let q := s.quire c j
  let sleeps (t : Thread) : Option Nat := match t.wait with
    | some w => if w.reason = .sleep then some w.deadline else none
    | none => none
  let wake (t : Thread) : Thread := match sleeps t with
    | some d => if d ≤ n then { t with wait := none } else t
    | none => t
  if !q.live then .next s
  else
    let s := s.setQuire c j (q.mapLanes (List.range 32) (fun _ t => wake t))
    let left := (q.threads.filterMap (fun e => (sleeps e.2).filter (fun d => decide (n < d))))
    .next (match left with
      | [] => s
      | d :: ds => s.dueOnce (ds.foldl min d - n) s.here .sleepExpiry)

-- ## Package barriers (R385, R386)

/-- A wait at a package barrier. -/
def QWait.isPbar (id : Nat) (counted : Bool) (w : QWait) : Bool := w.kind == .pbar id && w.counted == counted

/-- The first wait of a list that meets a test, counted. -/
def countFirst (f : QWait → Bool) : List QWait → List QWait
  | [] => []
  | w :: ws => if f w then { w with counted := true } :: ws else w :: countFirst f ws

/-- PBAR_ARRIVAL (R385): the arrival of the first wait of the quire that is not counted and has no release under way counts, or is turned away with status 2; the last of a phase releases
every quire counted in it. -/
def execPbarArrival (s : State) : Host.Outcome State Fault Refusal :=
  let c := s.here.unit
  let j := s.here.sub
  let id := s.here.item
  let q := s.quire c j
  match q.waits.find? (QWait.isPbar id false) with
  | none => .next s
  | some w =>
    if (q.waits.filter (QWait.isPbar id false)).length ≤ (s.waits.filter (fun e => e.2.goal == Goal.pbar c j id)).length then .next s else
    let l := s.launch q.lk
    let b := l.pbar id
    let n := b.n.getD w.count
    if w.count = 0 ∨ 2 ^ 29 < w.count ∨ w.count ≠ n then
      .next (s.setQuire c j (q.release (fun x => x == w) 2))
    else
      let s := s.setQuire c j { q with waits := countFirst (QWait.isPbar id false) q.waits }
      if b.arrived + 1 = n then
        let s := s.setLaunch q.lk { l with pbars := l.pbars.set id { phase := b.phase + 1 } }
        .next ((b.waiters ++ [(c, j)]).foldl (fun s e => s.releaseQuire e.1 e.2 (QWait.isPbar id true) 0 3) s)
      else .next (s.setLaunch q.lk { l with
        pbars := l.pbars.set id { b with n := some n, arrived := b.arrived + 1, waiters := b.waiters ++ [(c, j)] } })

end Sys2Proof.Machine
end

