-- ==== Sys2Proof/Machine/Fetch.lean ====
section
/-! DEFINITION. Instruction words: how a core looks at the words of its threads, and how it fetches one
(R59, R106, R188, R313, R324). Fetches take no time of their own (log entry 3). -/

namespace Sys2Proof.Machine

-- ## Looking at words, with no effect

/-- The leaf that translates an address for a core, looked at with no effect. -/
def State.lookLeaf (s : State) (c ctx va : Nat) : Option (Dword × Nat) :=
  match (s.core c).tlb.find? (fun e => e.covers ctx va) with
  | some e => some (e.leaf, e.lg)
  | none =>
    match (s.die (dieOf c)).tlb.find? (fun e => e.covers ctx va) with
    | some e => some (e.leaf, e.lg)
    | none =>
      match (s.walk (dieOf c) ctx va).1 with
      | .leaf e lg _ => some (e, lg)
      | _ => none

/-- The instruction-cache copy that a quire may take the word at an address from (R188); a word with an uncorrectable error
is fetched again (R324). -/
def State.codeCopy (s : State) (c atD atP pa : Nat) : Option Line :=
  match (s.core c).icache.find (pa / 128) with
  | some l =>
    if l.usable (s.nowAt (dieOf c)) atP && decide (atD ≤ l.f) && !l.wrong (pa % 128) 8 && !(s.die (dieOf c)).failed then some l
    else none
  | none => none

/-- The word at an address of a physical line. -/
def wordIn (bs : List Byte) (pa : Nat) : Dword := BitVec.ofNat 64 (leNat (slice bs (pa % 128) 8))

/-- The word that a fetch would read now, if it can be read. -/
def State.lookWord (s : State) (c lk atD atP : Nat) (pc : Dword) : Option Dword :=
  let l := s.launch lk
  if !l.leased pc.toNat 8 then none
  else match s.lookLeaf c l.ctx pc.toNat with
    | none => none
    | some (e, lg) =>
      let pa := physOf e lg pc.toNat
      if !leafPermits e .fetch || s.homeOf pa == .hole then none
      else match s.codeCopy c atD atP pa with
        | some y => some (wordIn y.data pa)
        | none =>
          match s.dieCopy (dieOf c) atP (pa / 128) with
          | some y => some (wordIn y.data pa)
          | none => if s.poison.contains (pa / 128) then none else some (BitVec.ofNat 64 (s.num pa 8))

/-- The word at a thread's address, as its quire would fetch it. -/
def State.peekWord (s : State) (c : Nat) (q : Quire) (pc : Dword) : Option Dword := s.lookWord c q.lk q.atD q.atP pc

/-- The words of the run from an address on, at most `n`; none: a word is read that cannot be. -/
def State.runWords (s : State) (c : Nat) (q : Quire) : Nat → Dword → List (Option Dword)
  | 0, _ => []
  | n + 1, pc =>
    match s.peekWord c q pc with
    | none => [none]
    | some w => some w :: (if wordB w then [] else State.runWords s c q n (pc + 8))

/-- None of the 24 words from a run start ends the run (R313). -/
def State.overlong (s : State) (c : Nat) (q : Quire) (pc : Dword) : Bool :=
  let ws := s.runWords c q 24 pc
  ws.length == 24 && ws.all (fun w => match w with
    | some w => !wordB w
    | none => false)

/-- The run from an address on holds a solo word (R131). -/
def State.soloRun (s : State) (c : Nat) (q : Quire) (pc : Dword) : Bool :=
  (s.runWords c q 24 pc).any (fun w => match w with
    | some w => soloOp (wordOp w)
    | none => false)

-- ## Fetching

/-- A fetch whose page is in no TLB joins its walk, and waits (R66). -/
def State.fetchWalk (s : State) (c lk ctx va : Nat) : State :=
  if s.reqs.any (fun e => e.2.agent == .fetch && e.2.core == c && e.2.va == va && e.2.ctx == ctx) then s
  else (s.walkFor { agent := .fetch, kind := .read, core := c, die := dieOf c, lk := lk, ctx := ctx, va := va }).2

/-- Installs a line in the instruction cache (R186). -/
def State.fillCode (s : State) (c line : Nat) (l : Line) : State :=
  s.setCore c { s.core c with icache := (s.core c).icache.set line { l with f := s.nowAt (dieOf c) } }

/-- A line for the instruction cache, from the die cache or from its home (R188, R324); none: an uncorrectable error. -/
def State.fetchLine (s : State) (c : Nat) (q : Quire) (va pa : Nat) : Option (List Byte) × State :=
  let d := dieOf c
  match s.dieCopy d q.atP (pa / 128) with
  | some y => if y.wrong (pa % 128) 8 then (none, s.dropDie d (pa / 128)) else (some y.data, (s.useDie d (pa / 128)).fillCode c (pa / 128) y)
  | none =>
    match s.engineLine c { lk := q.lk, atP := q.atP } va pa 8 with
    | (.error _, s) => (none, s)
    | (.ok bs, s) =>
      match (s.die d).cache.find (pa / 128) with
      | some y => (some bs, s.fillCode c (pa / 128) y)
      | none => (some bs, s)

/-- A read of a line at its home has to wait there (R74, R75, R189). -/
def State.readWaits (s : State) (d pa : Nat) : Bool :=
  !(s.lineWaits d (pa / 128)).isEmpty || s.moving pa true

/-- One fetch: the word, the cause raised at it (R324), or none of these while it waits. -/
def State.fetch (s : State) (c : Nat) (q : Quire) (pc : Dword) : Except (Option Cause) Dword × State :=
  let l := s.launch q.lk
  if !l.leased pc.toNat 8 then (.error (some .lease), s)
  else match s.tlbLook c l.ctx pc.toNat false with
    | (none, s) => (.error none, s.fetchWalk c q.lk l.ctx pc.toNat)
    | (some t, s) =>
      let pa := physOf t.leaf t.lg pc.toNat
      if !leafPermits t.leaf .fetch || s.homeOf pa == .hole then (.error (some .perm), s)
      else if s.unreachable (dieOf c) pa then (.error (some .link), s)
      else match s.codeCopy c q.atD q.atP pa with
        | some y => (.ok (wordIn y.data pa), s)
        | none =>
          if (s.dieCopy (dieOf c) q.atP (pa / 128)).isNone && s.readWaits (dieOf c) pa then (.error none, s)
          else match s.fetchLine c q pc.toNat pa with
            | (none, s) => (.error (some .ecc), s)
            | (some bs, s) => (.ok (wordIn bs pa), s)

/-- Die of the home that a fetch goes to. -/
def State.fetchDie (s : State) (c : Nat) (q : Quire) (pc : Dword) : Nat :=
  match s.tlbPeek c (s.launch q.lk).ctx pc.toNat with
  | some t => homeDie (s.homeOf (physOf t.leaf t.lg pc.toNat))
  | none => 0

end Sys2Proof.Machine
end

