-- ==== Sys2Proof/Machine/Ready.lean ====
section
/-! DEFINITION. Which threads are eligible and which quires are ready (R125, R126, R134, R159), and what a
phase expiry and the issue port see of them. -/

namespace Sys2Proof.Machine

-- ## The active set (R124, R127)

/-- A slot comes before another by a key, with ties to the lower slot. -/
def firstBy (key : Nat → Nat) (js : List Nat) : Option Nat :=
  js.foldl (fun b j => match b with
    | none => some j
    | some i => if key j < key i then some j else some i) none

/-- The oldest ready pending quire (R127). -/
def Core.oldestPending (k : Core) : Option Nat :=
  firstBy (fun j => (k.quire j).stamp)
    ((List.range 64).filter (fun j => (k.quire j).live && !(k.quire j).active && (k.quire j).ready))

/-- A quire enters the active set. -/
def Core.enter (k : Core) (j : Nat) : Core :=
  { k with enterCount := k.enterCount + 1 }.setQuire j { k.quire j with active := true, entered := k.enterCount }

/-- Free active slots are filled by the oldest ready pending quires (R127). -/
def Core.fillActive : Nat → Core → Core
  | 0, k => k
  | n + 1, k =>
    if 8 ≤ k.actives.length then k
    else match k.oldestPending with
      | some j => Core.fillActive n (k.enter j)
      | none => k

/-- What an instruction word of a thread looks like before it is fetched: its head, and the instruction if
the word decodes. -/
structure Look where
  head : Head
  instr : Option Instr
  deriving DecidableEq, Repr, Inhabited

/-- The word read as a look. -/
def lookOf (w : Dword) : Look :=
  { head := wordHead w, instr := match decodeWord w with
    | .ok i => some i
    | .error _ => none }

/-- The next words of the threads of a quire, by address. -/
def State.looks (s : State) (c : Nat) (q : Quire) : List (Dword × Option Look) :=
  let live := (List.range 32).filter (fun i => !(q.th i).exited)
  ((live.map (fun i => (q.th i).pc)).eraseDups).map (fun pc => (pc, (s.peekWord c q pc).map lookOf))

/-- The look at an address. -/
def lookAt (ls : List (Dword × Option Look)) (pc : Dword) : Option Look := (ls.find? (fun e => e.1 == pc)).bind Prod.snd

/-- What a thread waits for before a word, besides the word's unit (R125). -/
def Thread.waitsFor (t : Thread) (l : Option Look) : Option Stall :=
  match t.wait with
  | some w => some w.reason
  | none =>
    let h := (l.map Look.head).getD plainHead
    threadWait t h (((l.bind Look.instr)).getD (.nop h))

/-- Some thread of a quire that stands at an address takes part in the word there (R317). -/
def Quire.takesPart (q : Quire) (pc : Dword) (h : Head) : Bool :=
  q.threads.any (fun e => !e.2.exited && e.2.pc == pc && guardOf h e.2)

/-- The wait for a unit at a word that a run of a quire would begin with (Table 5.1, R316). -/
def State.runWait (s : State) (c : Nat) (q : Quire) (pc : Dword) (l : Option Look) : Option Stall :=
  match l.bind Look.instr with
  | some i => if q.takesPart pc (l.map Look.head |>.getD plainHead) then unitWait s c q q i else none
  | none => none

/-- Why a thread is not eligible, if it is not (R125); a thread that a fault waits for meets no unit (R142, R153). -/
def State.threadStall (s : State) (c : Nat) (q : Quire) (ls : List (Dword × Option Look)) (i : Nat) : Option Stall :=
  let t := q.th i
  let l := lookAt ls t.pc
  match t.waitsFor l with
  | some w => some w
  | none => if t.pend.isSome then none else s.runWait c q t.pc l

/-- Lanes whose thread has not exited. -/
def Quire.liveLanes (q : Quire) : List Nat := (List.range 32).filter (fun i => !(q.th i).exited)

/-- Eligible lanes of a quire (R125). -/
def State.eligible (s : State) (c : Nat) (q : Quire) : List Nat :=
  let ls := s.looks c q
  q.liveLanes.filter (fun i => (s.threadStall c q ls i).isNone)

/-- The reason of a quire-wide wait (Table 5.1). -/
def QWaitKind.stall : QWaitKind → Stall
  | .gbar _ | .join _ => .gbar
  | .claim _ | .reclaim _ => .claim
  | .pbar _ => .pbar

/-- A quire-wide condition under which no run of the quire starts (Table 5.1, R159). -/
def Quire.held (k : Core) (q : Quire) : Option Stall :=
  match q.stopped with
  | some r => some r
  | none =>
    if q.restoring then some .restore
    else if k.resident.isSome then some .folio
    else (q.waits.head?).map (fun w => w.kind.stall)

/-- Why a quire is not ready; none: it is (R125, R126). -/
def State.quireStall (s : State) (c : Nat) (k : Core) (q : Quire) : Option Stall :=
  match q.held k with
  | some r => some r
  | none =>
    let ls := s.looks c q
    if q.liveLanes.any (fun i => (s.threadStall c q ls i).isNone) then none
    else (q.liveLanes.head?).bind (s.threadStall c q ls)

/-- The quire's slot issues a run now. -/
def Core.issues (k : Core) (j : Nat) : Bool :=
  match k.run with
  | some r => r.slot == j
  | none => false

/-- The engines of a die that COLLECT has reached stop the quires of the launch (R158, Table 6.7). -/
def State.stopsOn (s : State) (c : Nat) (q : Quire) : Bool :=
  match s.launches.find q.lk with
  | some l => l.stopping && l.collecting.contains (dieOf c)
  | none => false

/-- A thread of a slot is in the resident folio. -/
def Core.inFolio (k : Core) (j : Nat) : Bool :=
  match k.resident with
  | some r => r.threads.any (fun t => t.1 == j)
  | none => false

/-- The quire with the wait it is in and when that began; a resident folio ends none (R127). -/
def Quire.noteWait (q : Quire) (r : Option Stall) (cycle : Nat) : Quire :=
  match r with
  | some .folio => q
  | r => if q.waitFor = r.getD .none then q else { q with waitFor := r.getD .none, waitAt := cycle }

/-- Readiness of a quire looked at again; the stamp is set as it changes (R125, R127). A quire whose run is in
progress keeps what it had. -/
def State.lookQuire (s : State) (c : Nat) (k : Core) (j : Nat) (q : Quire) : Quire :=
  if !q.live || (k.issues j && k.resident.isNone) then q
  else
    let q := if s.stopsOn c q && q.stopped.isNone && !k.inFolio j then
        { q with stopped := some ((s.quireStall c k q).getD .none) } else q
    let r := s.quireStall c k q
    { (q.noteWait r s.cycle) with ready := r.isNone, stall := r.getD .none, stamp := if q.ready == r.isNone then q.stamp else s.cycle }

/-- A run whose paths are both over ends, and its quire's stamp is renewed (R125, R129, R134); a path that is over
passes the turn. -/
def Core.tidy (k : Core) (cycle : Nat) : Core :=
  match k.run with
  | some r =>
    if r.a.done && r.b.done then
      let q := k.quire r.slot
      let k := { k with run := none, bar := k.bar.filter (· != r.slot) }
      if q.live then k.setQuire r.slot { q with stamp := cycle } else k
    else k.closeRun
  | none => k

/-- The quires of a core looked at again; those that are not ready as a folio has just yielded leave the bar (R134), and
free active slots are filled (R127). -/
def State.lookCore (s : State) (c : Nat) (k : Core) : Core :=
  let k := k.tidy s.cycle
  let qs : Tab Quire := k.quires.map (fun e => (e.1, s.lookQuire c k e.1 e.2))
  let k := { k with quires := qs, yielded := k.yielded && k.resident.isSome,
                    bar := if k.yielded && k.resident.isNone then k.bar.filter (fun j => (qs.get {} j : Quire).ready) else k.bar }
  if qs.any (fun e => e.2.live && !e.2.active && e.2.ready) then Core.fillActive 8 k else k

/-- A quire has been stopped since an earlier state: its engine may acknowledge (R159). -/
def newlyStopped (before after : Core) : Bool :=
  after.quires.any (fun e => e.2.stopped.isSome && (before.quire e.1).stopped.isNone)

/-- Every core looked at again. -/
def State.refresh (s : State) : State :=
  let cs : Tab Core := s.cores.map (fun e => (e.1, s.lookCore e.1 e.2))
  let hit := (cs.filter (fun e => newlyStopped (s.core e.1) e.2)).map Prod.fst
  hit.foldl (fun s c => s.dueOnce 0 { unit := c } .engineStopAck) { s with cores := cs }

end Sys2Proof.Machine
end

