-- ==== Sys2Proof/Machine/Arbitrate.lean ====
section
/-! DEFINITION. Run boundaries (R124-R134, R142): the active set, the choice of the quire and of its paths, and
the steps RUN_ARBITRATION, PROMOTION and PHASE_EXPIRY (R152, R153). -/

namespace Sys2Proof.Machine

-- ## The active set (R124, R127, R128)

/-- A pending quire and an active one are exchanged; the count of R128 starts again. -/
def Core.exchange (k : Core) (inn out : Nat) : Core :=
  { (k.setQuire out { k.quire out with active := false }).enter inn with promo := 0 }

/-- The active quire that a swap takes out: the one whose current wait for a long-latency reason began earliest (R127). -/
def Core.swapOut (k : Core) : Option Nat :=
  firstBy (fun j => (k.quire j).waitAt) (k.actives.filter (fun j => !(k.quire j).ready && (k.quire j).stall.long))

/-- A swap that the run boundary makes: the quire in, and the one out (R127). -/
def Core.swap? (k : Core) : Option (Nat × Nat) :=
  match k.oldestPending, k.swapOut with
  | some a, some b => some (a, b)
  | _, _ => none

/-- The ready active quire with the earliest stamp, but for one that has just come in (R127, R129). -/
def Core.served (k : Core) (skip : Option Nat) : Option Nat :=
  firstBy (fun j => (k.quire j).stamp)
    (k.actives.filter (fun j => (k.quire j).ready && some j != skip))

-- ## The paths of a run (R131, R132)

/-- Addresses of some threads. -/
def Quire.pcs (q : Quire) (ls : List Nat) : List Dword := (ls.map (fun i => (q.th i).pc)).eraseDups
/-- Those of some lanes that stand at an address. -/
def Quire.lanesAt (q : Quire) (ls : List Nat) (pc : Dword) : List Nat := ls.filter (fun i => (q.th i).pc == pc)

/-- An address is the more populous of two, or the lower of equals (R131). -/
def Quire.more (q : Quire) (ls : List Nat) (a b : Dword) : Bool :=
  let n (x : Dword) : Nat := (q.lanesAt ls x).length
  decide (n b < n a) || (n a == n b && decide (a.toNat < b.toNat))

/-- The most populous of some addresses (R131). -/
def Quire.mostOf (q : Quire) (ls : List Nat) (pcs : List Dword) : Option Dword :=
  pcs.foldl (fun b pc => match b with
    | none => some pc
    | some x => if q.more ls pc x then some pc else some x) none

/-- Addresses of the lanes whose starvation counter reads 64, lowest lane first (R132). -/
def Quire.starved (q : Quire) (ls : List Nat) : List Dword :=
  ((ls.filter (fun i => (q.th i).starve == 64)).map (fun i => (q.th i).pc)).eraseDups

/-- The paths of a run of some eligible lanes; `solo`: the run at an address holds a solo word (R131, R132). -/
def Quire.paths (q : Quire) (ls : List Nat) (solo : Dword → Bool) : Option (Dword × Option Dword) :=
  let hungry := q.starved ls
  match hungry.head?.or (q.mostOf ls (q.pcs ls)) with
  | none => none
  | some a =>
    let rest := (q.pcs ls).filter (fun pc => pc != a && !solo pc)
    some (a, (hungry.find? (fun pc => pc != a && !solo pc)).or (q.mostOf ls rest))

/-- The starvation counters after a run start (R132). -/
def Quire.countStarve (q : Quire) (ls : List Nat) (chosen : Dword → Bool) : Quire :=
  q.mapLanes ls (fun _ t => { t with starve := if chosen t.pc then 0 else min 64 (t.starve + 1) })

/-- A quire starts a run (R130-R132). -/
def State.startRun (s : State) (c j : Nat) : State :=
  let k := s.core c
  let q := k.quire j
  let ls := s.eligible c q
  match q.paths ls (s.soloRun c q) with
  | none => s
  | some (a, b) =>
    let q := q.countStarve ls (fun pc => pc == a || some pc == b)
    let pb : PathRun := match b with
      | some pc => { lanes := maskOf (q.lanesAt ls pc), pc := pc }
      | none => { done := true }
    let r : Run := { slot := j, blocks := q.blocks, a := { lanes := maskOf (q.lanesAt ls a), pc := a }, b := pb, shadow := q }
    let waiting := k.oldestPending.isSome
    s.setCore c { k.setQuire j q with run := some r, promo := if waiting then k.promo + 1 else k.promo }

-- ## Faults at a run start (R142, R153)

/-- Lanes of some that one pending fault reaches, and the fault: threads that share it, and with NP the address they stand
at. -/
def Quire.pendsAmong (q : Quire) (lanes : List Nat) : Option (List Nat × Pend) :=
  let ls := lanes.filter (fun i => (q.th i).pend.isSome)
  match ls.head? with
  | none => none
  | some i =>
    let p := (q.th i).pend
    let np := (p.map Pend.np).getD false
    let group := ls.filter (fun n => (q.th n).pend == p && (!np || (q.th n).pc == (q.th i).pc))
    p.map (fun x => (group, if np then { x with fpc := (q.th i).pc } else x))

/-- The eligible lanes of a quire that take a pending fault next, and the fault. -/
def State.pendGroup (s : State) (c : Nat) (q : Quire) : Option (List Nat × Pend) := q.pendsAmong (s.eligible c q)

/-- Lanes take their pending fault (R142, R143, R153), which ends the launch where no handler takes it (R145). -/
def State.takePend (s : State) (c j : Nat) (ls : List Nat) (p : Pend) : State :=
  let s := s.setQuire c j ((s.quire c j).mapLanes ls (fun _ t => { t with pends := t.pends.drop 1 }))
  if s.endsLaunch c j (maskOf ls) p then s.takeFault c j (maskOf ls) p p.addr p.detail else s.enterAll c j (maskOf ls) p

/-- The served quire's next event: a fault that was waiting for it, or a run. -/
def State.serve (s : State) (c j : Nat) : State :=
  match s.pendGroup c (s.quire c j) with
  | some (ls, p) => s.takePend c j ls p
  | none => s.startRun c j

-- ## The steps

/-- A run boundary of the core has something to do (R127-R129). -/
def Core.boundary (k : Core) : Bool :=
  k.run.isNone && k.resident.isNone
    && ((k.served none).isSome || (decide (k.actives.length < 8) && k.oldestPending.isSome) || k.swap?.isSome)

/-- A promotion is due (R128). -/
def Core.promotes (k : Core) : Bool :=
  k.run.isNone && k.resident.isNone && decide (64 ≤ k.promo) && decide (8 ≤ k.actives.length) && k.oldestPending.isSome

/-- RUN_ARBITRATION (R127, R129): free active slots are filled, one swap is made, and the ready active quire with
the earliest stamp is served. -/
def execRunArbitration (s : State) : Host.Outcome State Fault Refusal :=
  let c := s.here.unit
  let k := s.core c
  if !k.boundary then .next s
  else
    let k := Core.fillActive 8 k
    let w := k.swap?
    let k := match w with
      | some (a, b) => k.exchange a b
      | none => k
    let s := s.setCore c k
    .next (match k.served (w.map Prod.fst) with
      | some j => s.serve c j
      | none => s)

/-- PROMOTION (R128). -/
def execPromotion (s : State) : Host.Outcome State Fault Refusal :=
  let c := s.here.unit
  let k := s.core c
  if !k.promotes then .next s
  else match k.oldestPending, firstBy (fun j => (k.quire j).entered) k.actives with
    | some a, some b => .next (s.setCore c (k.exchange a b))
    | _, _ => .next s

/-- The lanes of a quire that wait, in the run in progress, at a word for a unit leave the run: their wait is
abandoned (R153). -/
def State.leaveStalled (s : State) (c j : Nat) : State :=
  let k := s.core c
  match k.run with
  | none => s
  | some r =>
    if r.slot != j || r.stalled.isNone || k.resident.isSome then s
    else
      let p := if r.turn then r.b else r.a
      s.stopLanes c j p.lanes

/-- What a thread's next word waits for. -/
def State.nextWait (s : State) (c : Nat) (q : Quire) (ls : List (Dword × Option Look)) (t : Thread) : NextWait :=
  let l := lookAt ls t.pc
  { own := t.waitsFor l, unit := s.runWait c q t.pc l }

/-- A wait at a barrier. -/
def QWait.isBarrier (w : QWait) : Bool :=
  match w.kind with
  | .gbar _ | .pbar _ => true
  | _ => false

/-- PHASE_EXPIRY (R152, R153): a barrier that completes in the tick of the expiry counts the arrival (log entry 3). -/
def execPhaseExpiry (s : State) : Host.Outcome State Fault Refusal :=
  let c := s.here.unit
  let j := s.here.sub
  let q := s.quire c j
  if !q.live || !q.timer.armed then .next s
  else if s.timerCount c q.timer ≤ q.timer.limit then .next (s.armTimer c j)
  else if s.here.item = 0 && q.waits.any QWait.isBarrier then .next (s.due 1 { s.here with item := 1 } .phaseExpiry)
  else
    let ls := s.looks c q
    .next ((s.phaseAll c j (s.nextWait c q ls)).leaveStalled c j)

end Sys2Proof.Machine
end

