-- ==== Sys2Proof/Machine/Binder.lean ====
section
/-! DEFINITION. The Binder (R255, R258-R270): what a body names, its build, its folio, and the steps BUILD_START,
BUILD_COMPLETE, FOLIO_RESIDENCY, FOLIO_ITERATION_START, FOLIO_ITERATION_RETIRE, FOLIO_EXIT and SLICE_END. An
iteration runs as words that issue one after another for one thread; an iteration that waits lets those of other threads
go on, and a thread has one iteration under way (log entry 12). -/

namespace Sys2Proof

-- ## Words of a body (R258, R259, R262)

/-- Nominal latency of a result: that of a load is 20 (R262, R372). -/
def Instr.latency : Instr → Nat
  | .ld .. | .ldp .. => 20
  | i => i.resultCycles

/-- Plain `ld` and `st` in `.g` and `.b`, `ldp` and `prefetch` (R258). -/
def Instr.isMemOp : Instr → Bool
  | .ld _ _ m | .st _ _ m => m.order == 0 && (m.space == 0 || m.space == 1)
  | .ldp .. | .prefetch .. => true
  | _ => false

/-- A `call`, `ret` or `brx` (R259). -/
def Instr.isCall : Instr → Bool
  | .call .. | .callR .. | .ret .. | .brx .. => true
  | _ => false

/-- Offset of a `bra` or `dbra`. -/
def Instr.jump : Instr → Option (BitVec 24)
  | .bra _ _ off | .dbra _ _ _ off => some off
  | _ => none

/-- The guard of a word is p7, unnegated: it always holds (R317). -/
def Instr.unguarded (i : Instr) : Bool := i.head.all (fun h => h.gp == 7 && !h.gn)

/-- Another word that R259 lists, `mxpack` (R351) and one that is no instruction included (log
entry 12). -/
def Instr.unbindable (i : Instr) : Bool :=
  !(i.isLaneOp || i.isMemOp || i.isCall || i.jump.isSome || (match i with
    | .nop _ => true
    | _ => false))

end Sys2Proof

namespace Sys2Proof.Machine

-- ## The body

/-- A word of a body: its address and the instruction, if it is one. -/
structure BodyWord where
  pc : Dword
  instr : Option Instr
  deriving DecidableEq, Repr, Inhabited

/-- Words from an address on, as the Binder reads them through the instruction cache; none where one cannot be
read (R261). The flag says that a word is still on its way: its page is being walked, or its
line waits at its home. `bad`: pages whose walk failed. -/
def State.readBody (s : State) (c lk : Nat) (bad : List Nat) : Nat → Dword → (Bool × List (Option Dword)) × State
  | 0, _ => ((false, []), s)
  | n + 1, pc =>
    let ((waits, w), s) : (Bool × Option Dword) × State :=
      if bad.contains (pc.toNat / 65536) then ((false, none), s)
      else match s.fetch c { lk := lk } pc with
        | (.error none, s) => ((true, none), s)
        | (.error (some _), s) => ((false, none), s)
        | (.ok w, s) => ((false, some w), s)
    let ((more, ws), s) := State.readBody s c lk bad n (pc + 8)
    ((waits || more, w :: ws), s)

/-- The target of a `bra` or `dbra` at an address. -/
def targetOf (pc : Dword) (i : Instr) : Option Dword := i.jump.map (labelOf pc)

/-- The first `bra` or `dbra` back to a header within the 64 words from it (R430). -/
def findLatch (hdr : Dword) (ws : List (Option Dword)) : Option Dword :=
  ((List.range ws.length).find? (fun k =>
    match ws.getD k none with
    | some w =>
      (match decodeWord w with
        | .ok i => targetOf (hdr + BitVec.ofNat 64 (8 * k)) i == some hdr
        | .error _ => false)
    | none => false)).map (fun k => hdr + BitVec.ofNat 64 (8 * k))

/-- Registers that a body reads before it writes them, in body order (R258). -/
def liveIns : List Nat → List Instr → List Nat
  | _, [] => []
  | seen, i :: is => (i.reads.filter (fun r => !seen.contains r)) ++ liveIns (seen ++ i.writes) is

/-- Instructions of a body that use a lane slot: the lane operations, and the `dbra` of the latch, the only one a body that can
be bound holds (R258). -/
def usesSlot (i : Instr) : Bool :=
  i.isLaneOp || (match i with
    | .dbra .. => true
    | _ => false)

/-- Lane operations of a body: the instructions of R258, and the register effect of a `dbra` latch. -/
def laneOps (latch : Dword) (bs : List BodyWord) : Nat :=
  (bs.filter (fun b => match b.instr with
    | some i => i.isLaneOp || (b.pc == latch && usesSlot i)
    | none => false)).length

/-- A branch other than the latch that goes backward, or that is no `bra` (R258, R260). -/
def badBranch (latch : Dword) (b : BodyWord) : Bool :=
  match b.instr with
  | some i =>
    (match targetOf b.pc i with
      | some t => b.pc != latch && (decide (t.toNat ≤ b.pc.toNat) || (match i with
          | .dbra .. => true
          | _ => false))
      | none => false)
  | none => false

/-- E bits of a body are as R258 asks. -/
def regionOk : List (Option Dword) → Bool
  | [] => false
  | w :: ws => (match w with
      | some w => wordE w
      | none => true) && ws.all (fun w => match w with
      | some w => !wordE w
      | none => true)

-- ## The initiation interval (R262)

/-- A word of the dependence graph: what it reads and writes, its latency, its lane slot, if it has one, whether its guard
may leave its results unwritten, and the forward branches it lies under (R261, R262). -/
structure Node where
  reads : List Nat := []
  writes : List Nat := []
  latency : Nat := 0
  slot : Option Nat := none
  guarded : Bool := false
  under : List Nat := []
  deriving DecidableEq, Repr, Inhabited

/-- Places of the forward branches of a body that a word at address `pc` lies under: their targets lie in the body behind it
(R258). -/
def branchesOver (latch : Dword) (bs : List (Dword × Instr)) (pc : Dword) : List Nat :=
  (List.range bs.length).filter (fun n => match bs[n]? with
    | some (p, i) =>
      (match targetOf p i with
        | some t => decide (p.toNat < pc.toNat) && decide (pc.toNat < t.toNat) && decide (t.toNat ≤ latch.toNat)
        | none => false)
    | none => false)

/-- The words of a body, with their lane slots in body order (R261); `all`: the whole body. -/
def nodesOf (latch : Dword) (all : List (Dword × Instr)) : Nat → List (Dword × Instr) → List Node
  | _, [] => []
  | n, (pc, i) :: is =>
    let under := branchesOver latch all pc
    { reads := i.reads, writes := i.writes, latency := i.latency, slot := if usesSlot i then some n else none,
      guarded := !i.unguarded || !under.isEmpty, under := under }
      :: nodesOf latch all (if usesSlot i then n + 1 else n) is

/-- Cost of an edge (R262). -/
def edgeCost (a b : Node) : Nat := a.latency + (if a.slot.isSome && a.slot == b.slot then 0 else 1)

/-- The words before place `k` whose write of a register may reach it, and whether the value from before the first word may:
a guarded write leaves what stood there before. -/
def reaching (ns : List Node) (r : Nat) : Nat → List Nat × Bool
  | 0 => ([], true)
  | n + 1 =>
    let x : Node := ns.getD n {}
    if !x.writes.contains r then reaching ns r n
    else if x.guarded then (n :: (reaching ns r n).1, (reaching ns r n).2)
    else ([n], false)

/-- What the word at a place waits for: its own operands, and the predicates of the branches it lies under, each with the
place at which it is read (R261). -/
def operandsOf (ns : List Node) (k : Nat) : List (Nat × Nat) :=
  let x : Node := ns.getD k {}
  (x.reads.map (fun r => (k, r)) ++ x.under.flatMap (fun b => (ns.getD b {} : Node).reads.map (fun r => (b, r)))).eraseDups

/-- The words whose results a word takes in the same iteration. -/
def producers (ns : List Node) (k : Nat) : List Nat := ((operandsOf ns k).flatMap (fun e => (reaching ns e.2 e.1).1)).eraseDups

/-- The words whose results it takes through a register carried from the iteration before. -/
def carriers (ns : List Node) (k : Nat) : List Nat :=
  (((operandsOf ns k).filter (fun e => (reaching ns e.2 e.1).2)).flatMap (fun e => (reaching ns e.2 ns.length).1)).eraseDups

/-- The words that take a word's results, with the costs of the edges. -/
def consumers (ns : List Node) (a : Nat) : List (Nat × Nat) :=
  ((List.range ns.length).filter (fun k => (producers ns k).contains a || (carriers ns k).contains a)).map
    (fun k => (k, edgeCost (ns.getD a {}) (ns.getD k {})))

/-- The larger of two sums, where there are any. -/
def maxOpt : Option Nat → Option Nat → Option Nat
  | some a, some b => some (max a b)
  | a, b => a.or b

/-- Largest sum of costs of a way of at most some edges from word `a` on to word `t`, over words behind `t` that it has not
been at. -/
def wayTo (g : List (List (Nat × Nat))) (t : Nat) : Nat → List Nat → Nat → Option Nat
  | 0, _, _ => none
  | n + 1, seen, a =>
    (g.getD a []).foldl (fun b e =>
      maxOpt b (if e.1 = t then some e.2
        else if e.1 < t || seen.contains e.1 then none
        else (wayTo g t n (e.1 :: seen) e.1).map (· + e.2))) none

/-- The initiation interval of a body: the costliest dependence cycle, each looked at from its first word (R262). A cycle closes
through at least one carried register, since within an iteration a word takes results of earlier words alone. -/
def initInterval (ns : List Node) : Nat :=
  let g := (List.range ns.length).map (consumers ns)
  ((List.range ns.length).filterMap (fun k => wayTo g k ns.length [k] k)).foldl max 1

/-- Cycles after an iteration's start in which each of its first words has its operands. -/
def depths (ns : List Node) : Nat → List Nat
  | 0 => []
  | n + 1 =>
    let l := depths ns n
    l ++ [((producers ns n).map (fun p => l.getD p 0 + edgeCost (ns.getD p {}) (ns.getD n {}))).foldl max 0]

/-- The iteration depth D of a body: when its last result is written or branch decided (R262). -/
def iterDepth (ns : List Node) : Nat :=
  let l := depths ns ns.length
  ((List.range ns.length).map (fun k => l.getD k 0 + (if (ns.getD k {}).writes.isEmpty then 0 else (ns.getD k {}).latency))).foldl max 0

/-- The dependence graph of a body. -/
def bodyNodes (latch : Dword) (bs : List BodyWord) : List Node :=
  let l := bs.filterMap (fun b => b.instr.map (fun i => (b.pc, i)))
  nodesOf latch l 0 l

-- ## The build (R255, R260, R263)

/-- The reasons of Table 11.3 that apply to a body, lowest first. -/
def reasons (latch : Dword) (ws : List (Option Dword)) (bs : List BodyWord) : List Nat :=
  let is := bs.filterMap BodyWord.instr
  let read := bs.length == ws.length
  let c (b : Bool) (n : Nat) : List Nat := if b then [n] else []
  c (decide (32 < laneOps latch bs) || decide (64 < ws.length)) 1
    ++ c (decide (8 < (is.filter Instr.isMemOp).length)) 2
    ++ c (decide (16 < (liveIns [] is).eraseDups.length)) 3
    ++ c (decide (8 < (is.flatMap Instr.writes).eraseDups.length)) 4
    ++ c (is.any Instr.isCall) 5
    ++ c (is.any Instr.unbindable || bs.any (fun b => b.instr.isNone)) 6
    ++ c (bs.any (badBranch latch)) 7
    ++ c (!regionOk ws) 8
    ++ c (read && decide (64 < initInterval (bodyNodes latch bs))) 9
    ++ c (ws.any Option.isNone) 10

/-- The body words that could be read, with their addresses. -/
def bodyWords (hdr : Dword) (ws : List (Option Dword)) : List BodyWord :=
  (List.range ws.length).filterMap (fun k => (ws.getD k none).map (fun w =>
    { pc := hdr + BitVec.ofNat 64 (8 * k), instr := match decodeWord w with
      | .ok i => some i
      | .error _ => none }))

/-- The outcome of a build: the folio, or the reason of its failure; none while a word is on its way. -/
def State.tryBody (s : State) (c n : Nat) (e : Heat) : Except (Option Nat) Folio × State :=
  let ((waits, first), s) := match e.latch with
    | some _ => ((false, []), s)
    | none => s.readBody c e.lk e.badPages 64 e.header
  if waits then (.error none, s) else
  match e.latch.or (findLatch e.header first) with
  | none => (.error (some (if (first.headD none).isNone then 10 else 12)), s)
  | some latch =>
    let len := (latch.toNat - e.header.toNat) / 8 + 1
    if 64 < len then (.error (some 1), s)
    else
      let ((waits, ws), s) := s.readBody c e.lk e.badPages len e.header
      if waits then (.error none, s) else
      let bs := bodyWords e.header ws
      match (reasons latch ws bs).head? with
      | some r => (.error (some r), s)
      | none => (.ok { entry := n, header := e.header, latch := latch, words := ws.map (fun w => w.getD 0),
                       share := e.share, lk := e.lk, ii := initInterval (bodyNodes latch bs),
                       depth := iterDepth (bodyNodes latch bs) }, s)

/-- The place a new folio takes in the store (R263). -/
def Core.folioPlace (k : Core) : Nat :=
  let busy (n : Nat) : Bool := match k.resident with
    | some r => r.folio == n
    | none => false
  match (List.range 4).find? (fun n => (k.folios.find n).isNone) with
  | some n => n
  | none => (firstBy (fun n => (k.folios.get {} n : Folio).lastResident) ((List.range 4).filter (fun n => !busy n))).getD 0

/-- A folio is installed and armed; one that it replaces is invalidated (R263, R270). -/
def Core.install (k : Core) (f : Folio) (nops nmem : Nat) : Core :=
  let n := k.folioPlace
  let heat := match k.folios.find n with
    | some old => if old.valid then k.heat.set old.entry (k.heatAt old.entry).giveUp else k.heat
    | none => k.heat
  let e := { k.heatAt f.entry with state := .bound, reason := 0, folio := n, ii := f.ii, nops := nops, nmem := nmem,
                                   latch := some f.latch, requested := false }
  { k with folios := k.folios.set n f, heat := heat.set f.entry e, building := none }

/-- Ticks that some cycles of a core's island take, rounded up. -/
def State.cyclesOf (s : State) (c n : Nat) : Nat :=
  let mhz := s.islandMhz (islandOf c)
  if mhz = 0 then n else (n * 1000 + mhz - 1) / mhz

/-- Cycles from the start of a build to its first look at the body (R261, log entry 3). -/
def buildCycles : Nat := 1024

/-- BUILD_START (R255). -/
def execBuildStart (s : State) : Host.Outcome State Fault Refusal :=
  let c := s.here.unit
  match s.buildable c with
  | none => .next s
  | some n =>
    let k := s.core c
    let k := { k with building := some n, heat := k.heat.set n { k.heatAt n with state := .building, badPages := [] } }
    .next ((s.setCore c k).due (s.cyclesOf c buildCycles) { unit := c } .buildComplete)

/-- BUILD_COMPLETE (R258-R263); while a word of the body is on its way, the build goes on (R261). -/
def execBuildComplete (s : State) : Host.Outcome State Fault Refusal :=
  let c := s.here.unit
  match (s.core c).building with
  | none => .next s
  | some n =>
    let e := (s.core c).heatAt n
    match s.tryBody c n e with
    | (.ok f, s) =>
      let is := (bodyWords f.header (f.words.map some)).filterMap BodyWord.instr
      let k := (s.core c).install f (is.filter usesSlot).length (is.filter Instr.isMemOp).length
      .next ((s.setCore c k).tryBuild c)
    | (.error none, s) => .next (s.dueOnce 1 { unit := c } .buildComplete)
    | (.error (some r), s) =>
      let k := s.core c
      let e := { k.heatAt n with state := .unbindable, reason := r }
      .next ((s.setCore c { k with heat := k.heat.set n e, building := none }).tryBuild c)

-- ## Residency (R264, R267)

/-- Threads of a folio's share that stand at its header and may enter: slot and lane, in order (R264). -/
def State.entrants (s : State) (c : Nat) (f : Folio) : List (Nat × Nat) :=
  let k := s.core c
  (List.range 64).flatMap (fun j =>
    let q := k.quire j
    if !q.live || q.share != f.share || (q.held k).isSome || s.stopsOn c q then []
    else if !q.liveLanes.any (fun i => (q.th i).pc == f.header) then []
    else ((s.eligible c q).filter (fun i =>
      (q.th i).pc == f.header && !(q.th i).handler && (q.th i).pend.isNone)).map (fun i => (j, i)))

/-- The armed folio that becomes resident at a run boundary (R264). -/
def State.nextFolio (s : State) (c : Nat) : Option (Nat × List (Nat × Nat)) :=
  let k := s.core c
  if k.run.isSome || k.resident.isSome || !k.bar.isEmpty then none
  else
    ((k.folios.filter (fun e => e.2.valid)).map (fun e => (e.1, s.entrants c e.2))).foldl (fun b e =>
      if e.2.isEmpty then b
      else match b with
        | none => some e
        | some x => if x.2.length < e.2.length then some e else some x) none

/-- FOLIO_RESIDENCY (R138, R264): a thread in a folio has %repc at its header. -/
def execFolioResidency (s : State) : Host.Outcome State Fault Refusal :=
  let c := s.here.unit
  match s.nextFolio c with
  | none => .next s
  | some (n, ts) =>
    let k := s.core c
    let f : Folio := k.folios.get {} n
    let k := ts.foldl (fun k e => k.setQuire e.1 ((k.quire e.1).mapLanes [e.2] (fun _ t => { t with repc := f.header }))) k
    let k := { k with resident := some { folio := n, threads := ts, asOf := s.now },
                      folios := k.folios.set n { k.folios.get {} n with lastResident := s.cycle + 1 } }
    .next ((s.setCore c k).due (s.cyclesOf c 4096) { unit := c } .sliceEnd)

/-- Cycles of its slice that a resident folio has spent (R17, R267). -/
def State.sliceCycles (s : State) (c : Nat) (r : Resident) : Nat :=
  if s.paused.contains (islandOf c) then r.cycles
  else r.cycles + (s.now - r.asOf) * s.islandMhz (islandOf c) / 1000

/-- SLICE_END (R267). -/
def execSliceEnd (s : State) : Host.Outcome State Fault Refusal :=
  let c := s.here.unit
  let k := s.core c
  match k.resident with
  | none => .next s
  | some r =>
    let n := s.sliceCycles c r
    if s.paused.contains (islandOf c) then .next s
    else if n < 4096 then .next (s.dueOnce (s.cyclesOf c (4096 - n)) { unit := c } .sliceEnd)
    else .next (s.setCore c { k with resident := some { r with draining := true, yields := true } })

-- ## Iterations (R265-R269)

/-- Everything a thread has outstanding has passed its fault point (R140, R265). -/
def Thread.passed (t : Thread) : Bool := t.outst.all (fun o => o.fpDone)

/-- A fault that was found late in the running iteration (R269). -/
def Thread.faulted (t : Thread) : Bool := t.pends.any (fun p => p.cause != .phase)

/-- A thread in a folio starts no iteration any more and leaves it (R267, R269). -/
def State.mustLeave (s : State) (c : Nat) (r : Resident) (t : Nat × Nat) : Bool :=
  let q := s.quire c t.1
  r.draining || (q.th t.2).pend.isSome || (q.th t.2).exited || s.stopsOn c q || !q.live

/-- A thread has an iteration under way. -/
def Resident.iterates (r : Resident) (t : Nat × Nat) : Bool := r.iters.any (fun e => (e.1, e.2.1) == t)

/-- The iterations whose words have all issued, or whose run has ended behind one that ends a run. -/
def Core.offRun (k : Core) (r : Resident) : List (Nat × Nat × Thread) :=
  (if k.run.isNone then r.cur.toList else [])
    ++ (r.flight.filter (fun e => e.run.isNone)).map (fun e => (e.slot, e.lane, e.snap))

/-- A thread may start an iteration: it has none under way, II cycles have passed since it started its last one, and it waits
for nothing at the header (R265). -/
def State.mayStart (s : State) (c : Nat) (r : Resident) (t : Nat × Nat) : Bool :=
  !r.iterates t && decide ((r.starts.get (0, 0) (32 * t.1 + t.2) : Nat × Nat).1 ≤ s.cycle)
    && (((s.quire c t.1).th t.2).waitsFor (some { head := { plainHead with e := true }, instr := none })).isNone

/-- The thread that starts the next iteration: round-robin after the one that started last (R265). -/
def State.nextStarter (s : State) (c : Nat) (r : Resident) : Option (Nat × Nat) :=
  let after := r.threads.filter (fun t => decide (r.last < 32 * t.1 + t.2))
  (after ++ r.threads).find? (s.mayStart c r)

/-- A run of one thread on path A. -/
def laneRun (j i : Nat) (q : Quire) : Run :=
  { slot := j, blocks := q.blocks, a := { lanes := maskOf [i], pc := (q.th i).pc }, b := { done := true }, shadow := q }

/-- The iteration whose words issue stands aside. -/
def Core.park (k : Core) : Core :=
  match k.resident with
  | none => k
  | some r =>
    match r.cur with
    | none => k
    | some (j, i, t) =>
      { k with run := none, resident := some { r with cur := none, flight := r.flight ++ [{ slot := j, lane := i, snap := t, run := k.run }] } }

/-- The words of a thread's iteration issue, in the run it left or in a new one. -/
def Core.resume (k : Core) (j i : Nat) : Core :=
  let own : Bool := match k.resident.bind Resident.cur with
    | some (a, b, _) => (a, b) == (j, i)
    | none => false
  if own then { k with run := some (k.run.getD (laneRun j i (k.quire j))) }
  else
    let k := k.park
    match k.resident with
    | none => k
    | some r =>
      match r.flight.find? (fun e => (e.slot, e.lane) == (j, i)) with
      | none => k
      | some e => { k with run := some (e.run.getD (laneRun j i (k.quire j))),
                           resident := some { r with cur := some (j, i, e.snap),
                                                     flight := r.flight.filter (fun e => (e.slot, e.lane) != (j, i)) } }

-- ## What a core with a resident folio does next

/-- The step, or a word of an iteration, that comes next. -/
inductive FolioAct where
  | idle
  | word
  /-- The iteration of a thread goes on, behind a word that ended its run or after a wait. -/
  | reopen (j i : Nat)
  | step (i : Instr)
  deriving DecidableEq, Repr

/-- What an iteration does next, its run being over; its exit is decided D cycles after its start (R262, R265). -/
def State.afterRun (s : State) (f : Folio) (r : Resident) (t : Thread) (j i : Nat) : FolioAct :=
  if t.pc = f.header then (if t.passed then .step .folioIterationRetire else .idle)
  else if f.header.toNat < t.pc.toNat ∧ t.pc.toNat ≤ f.latch.toNat then .reopen j i
  else if t.passed && decide ((r.starts.get (0, 0) (32 * j + i) : Nat × Nat).2 ≤ s.cycle) then .step .folioExit
  else .idle

/-- What comes next for some iteration whose run is over. -/
def State.endOf (s : State) (k : Core) (r : Resident) (e : Nat × Nat × Thread) : FolioAct :=
  s.afterRun (k.folios.get {} r.folio) r ((k.quire e.1).th e.2.1) e.1 e.2.1

/-- What comes next beside the iteration whose words issue: another one goes on, retires or ends, a thread leaves, or one
starts. -/
def State.folioBeside (s : State) (c : Nat) (k : Core) (r : Resident) : FolioAct :=
  match r.flight.findSome? (fun e =>
      match e.run with
      | some u => if u.stalled = some s.events then none else some (.reopen e.slot e.lane)
      | none => (match s.endOf k r (e.slot, e.lane, e.snap) with
        | .idle => none
        | a => some a)) with
  | some a => a
  | none =>
    if r.threads.any (fun t => !r.iterates t && s.mustLeave c r t) then .step .folioExit
    else if !r.draining && (s.nextStarter c r).isSome then .step .folioIterationStart
    else .idle

/-- The next move of a core with a resident folio: a fault takes its thread out, the words of one iteration issue until they
wait, and then the others go on (R265, R269). -/
def State.folioAct (s : State) (c : Nat) (k : Core) (r : Resident) : FolioAct :=
  if r.iters.any (fun e => ((k.quire e.1).th e.2.1).faulted) then .step .folioExit
  else match r.cur with
    | none => s.folioBeside c k r
    | some e =>
      match k.run with
      | some u => if u.stalled = some s.events then s.folioBeside c k r else .word
      | none =>
        match s.endOf k r e with
        | .idle => s.folioBeside c k r
        | a => a

-- ## The steps of a resident folio (R265-R269)

/-- Words of an iteration issue: the port has not found its run stalled. -/
def Core.runGoes (k : Core) (r : Resident) : Bool :=
  match r.cur, k.run with
  | some _, some u => u.stalled.isNone
  | _, _ => false

/-- FOLIO_ITERATION_START (R265): one iteration starts in a cycle; the one whose words have been waiting stands aside. -/
def execFolioIterationStart (s : State) : Host.Outcome State Fault Refusal :=
  let c := s.here.unit
  let k := s.core c
  match k.resident with
  | none => .next s
  | some r =>
    if k.runGoes r || r.draining || r.iters.any (fun e => ((k.quire e.1).th e.2.1).faulted) then .next s
    else match s.nextStarter c r with
      | none => .next s
      | some (j, i) =>
        let f : Folio := k.folios.get {} r.folio
        let q := k.quire j
        let k := k.park
        let flight := match k.resident with
          | some x => x.flight
          | none => []
        let r := { r with cur := some (j, i, q.th i), flight := flight, last := 32 * j + i,
                          starts := r.starts.set (32 * j + i) (s.after c f.ii, s.after c f.depth) }
        .next ((((s.setCore c { k with resident := some r, run := some (laneRun j i q) }).due (s.cyclesOf c f.ii) { unit := c }
          .folioIterationStart).due (s.cyclesOf c f.depth) { unit := c } .folioExit).spend c 1)

/-- An iteration is under way no more; its thread stays in the folio. -/
def Resident.drop (r : Resident) (j i : Nat) : Resident :=
  { r with cur := r.cur.filter (fun e => (e.1, e.2.1) != (j, i)), flight := r.flight.filter (fun e => (e.slot, e.lane) != (j, i)) }

/-- FOLIO_ITERATION_RETIRE (R265): what its words wrote is its thread's architectural state. -/
def execFolioIterationRetire (s : State) : Host.Outcome State Fault Refusal :=
  let c := s.here.unit
  let k := s.core c
  match k.resident with
  | none => .next s
  | some r =>
    match (k.offRun r).find? (fun e => s.endOf k r e == .step .folioIterationRetire) with
    | none => .next s
    | some (j, i, _) => .next (s.setCore c { k with resident := some (r.drop j i) })

/-- A thread leaves the folio, and the run that its words were issuing in ends. -/
def Core.leave (k : Core) (r : Resident) (j i : Nat) : Core :=
  let k := match r.cur with
    | some (a, b, _) => if (a, b) == (j, i) then { k with run := none } else k
    | none => k
  k.outOfFolio (· == (j, i))

/-- FOLIO_EXIT (R267-R269): a thread whose iteration faulted goes back to its start; one whose exit is decided,
or that starts no iteration any more, leaves as it stands. -/
def execFolioExit (s : State) : Host.Outcome State Fault Refusal :=
  let c := s.here.unit
  let k := s.core c
  match k.resident with
  | none => .next s
  | some r =>
    match r.iters.find? (fun e => ((k.quire e.1).th e.2.1).faulted) with
    | some (j, i, snap) =>
      let q := k.quire j
      let t := q.th i
      .next (s.setCore c ((k.setQuire j (q.setTh i { t.rollBack snap with pends := t.pends })).leave r j i))
    | none =>
      match (k.offRun r).find? (fun e => s.endOf k r e == .step .folioExit) with
      | some (j, i, _) => .next (s.setCore c (k.leave r j i))
      | none =>
        match r.threads.find? (fun t => !r.iterates t && s.mustLeave c r t) with
        | some t => .next (s.setCore c (k.leave r t.1 t.2))
        | none => .next s

end Sys2Proof.Machine
end

