-- ==== Sys2Proof/Machine/Copy.lean ====
section
/-! DEFINITION. The copy instructions (R273, R404-R406): each hands one command to the core's engine. -/

namespace Sys2Proof.Machine

/-- The command of a copy word, its registers read at issue (R273, R405). -/
def Ictx.command (x : Ictx) (kind : CmdKind) (db : Bool) (c : CopyFields) : Cmd :=
  { kind := kind, db := db, sa := x.sh.s c.sa.toNat, sd := x.sh.s c.sd.toNat, sl := x.sh.s c.sl.toNat,
    sl1 := x.sh.s (c.sl.toNat + 1), fs := (x.s.launch x.q.lk).rcd.fslot.getD c.fslot.toNat 0, vs := c.vs.toNat,
    acq := c.acq, rel := c.rel, scope := c.scope.toNat, lk := x.q.lk, slot := x.slot, qid := x.q.qid, gid := x.q.gid,
    share := x.q.share, pc := x.pc, lanes := x.lanes }

/-- vs is pending, and the engine takes the command (R405). -/
def copyEff (x : Ictx) (kind : CmdKind) (db : Bool) (c : CopyFields) : Eff :=
  let q := if c.vs = 0 then x.q else { x.q with pend := c.vs.toNat :: x.q.pend }
  .ok ((x.put q).acceptCmd x.core (x.command kind db c))

/-- CP (R273). -/
def execCp (h : Head) (db : Bool) (c : CopyFields) (s : State) : Host.Outcome State Fault Refusal :=
  issue (.cp h db c) h s (fun x => copyEff x .cp db c)

/-- CP_2D (R273). -/
def execCp2d (h : Head) (db : Bool) (c : CopyFields) (s : State) : Host.Outcome State Fault Refusal :=
  issue (.cp2d h db c) h s (fun x => copyEff x .cp2d db c)

/-- CPRETILE (R279). -/
def execCpretile (h : Head) (c : CopyFields) (s : State) : Host.Outcome State Fault Refusal :=
  issue (.cpretile h c) h s (fun x => copyEff x .cpretile true c)

/-- CPKEY (R281). -/
def execCpkey (h : Head) (c : CopyFields) (s : State) : Host.Outcome State Fault Refusal :=
  issue (.cpkey h c) h s (fun x => copyEff x .cpkey true c)

/-- CPFILL (R273). -/
def execCpfill (h : Head) (db : Bool) (c : CopyFields) (s : State) : Host.Outcome State Fault Refusal :=
  issue (.cpfill h db c) h s (fun x => copyEff x .cpfill db c)

/-- CPBANK (R273). -/
def execCpbank (h : Head) (db : Bool) (c : CopyFields) (s : State) : Host.Outcome State Fault Refusal :=
  issue (.cpbank h db c) h s (fun x => copyEff x .cpbank db c)

end Sys2Proof.Machine
end

