-- ==== Sys2Proof/Machine/Link.lean ====
section
/-! DEFINITION. Bridges and Hyley links (R34-R55): what a sender picks, what a receiver does with a flit, replay,
retraining, and requests to and from other devices. The steps FLIT_SEND, FLIT_RECEIVE, ACK, NAK, ALLOW, ACK_TIMER,
REPLAY_TIMEOUT, RETRAINING, RETRAIN_COMPLETE, REMOTE_REQUEST, ERR and REMOTE_REQ_TIMEOUT. -/

namespace Sys2Proof.Machine

-- ## The sender (R35, R41, R48, R49)

/-- Sequence numbers of a link. -/
def seqMod : Nat := 4096
/-- Flits of a retry buffer (R41). -/
def retrySize : Nat := 512

/-- A link carries flits. -/
def Link.up (l : Link) : Bool := l.lanes != 0 && !l.training

/-- Flits that a link may place in one tick (R35, R52). -/
def Link.rate (l : Link) (n : Nat) : Nat := if n < 1024 ∧ l.lanes = 64 then 6 else 3

/-- The receiver of a link has buffer space for a class (R48). -/
def Link.room (l : Link) (n cls : Nat) : Bool :=
  decide (((l.rx ++ l.wire).filter (fun f => f.cls == cls)).length < 3 + Config.rxCapacity n cls)

/-- The fixed rotation of classes (R48). -/
def classTurns : List Nat := [2, 1, 3, 2, 1, 4, 2, 3]

/-- First waiting flit of a stream. -/
def Link.streamHead (l : Link) (sid : Nat) : Option Flit := l.txq.find? (fun f => f.cls == 3 && f.sid == sid)

/-- A stream whose slot is half sent, or one that its allowance lets send a slot (R49). -/
def Link.streamReady (l : Link) (open' : Bool) (sid : Nat) : Bool :=
  match l.streamHead sid with
  | none => false
  | some f => if f.typ = 1 then open' else !open' && (match l.allow.find sid with
      | some (a, u) => decide (u + 3 ≤ a)
      | none => false)

/-- The stream that sends next: a half-sent slot is finished, and otherwise streams take turns by SID (R39, R48). -/
def Link.nextStream (l : Link) : Option Flit :=
  let sids := sortNat ((l.txq.filter (fun f => f.cls == 3)).map (fun f => f.sid)).eraseDups
  let half := sids.filter (l.streamReady true)
  let ready := sids.filter (l.streamReady false)
  let pick := match half, ready.find? (fun k => decide (l.lastSid < k)) with
    | k :: _, _ => some k
    | [], some k => some k
    | [], none => ready.head?
  pick.bind l.streamHead

/-- The flit a class has ready. -/
def Link.ready (l : Link) (n cls : Nat) : Option Flit :=
  if !l.room n cls then none
  else if cls = 3 then l.nextStream
  else l.txq.find? (fun f => f.cls == cls)

/-- The turn of the rotation that sends, and its flit (R48). -/
def Link.turn (l : Link) (n : Nat) : Option (Nat × Flit) :=
  ((List.range 8).map (fun k => (l.rot + k) % 8)).findSome? (fun t =>
    (l.ready n (classTurns.getD t 2)).map (fun f => (t, f)))

/-- A flit goes onto the wire with its CRC; on a bridge it arrives 15 ticks later, and by a Hyley port it leaves the device
(R35, R36, R52). -/
def State.place (s : State) (n : Nat) (l : Link) (f : Flit) : State :=
  let k := if l.burst.1 = s.now then l.burst.2 else 0
  let l := { l with burst := (s.now, k + 1) }
  if n < 1024 then (s.setLink n { l with wire := l.wire ++ [f.seal] }).due 15 { unit := n } .flitReceive
  else (s.setLink n l).tell (.flit ((n - 1024) / 2) f.seal.bytes)

/-- A new sequenced flit is sent: numbered, held, and taken from its queue (R41). The turn passes on behind the last flit of
a message, so that the flits of a message leave one behind the other (R39, R48). -/
def State.sendNew (s : State) (n : Nat) (l : Link) (t : Nat) (f : Flit) : State :=
  let g := { f with seq := l.nextSeq }
  let strm := f.cls == 3
  let l := { l with
    txq := l.txq.erase f, nextSeq := (l.nextSeq + 1) % seqMod, retry := l.retry ++ [g], rot := if f.last then (t + 1) % 8 else t,
    lastHeard := if l.retry.isEmpty then s.now else l.lastHeard,
    lastSid := if strm && f.last then f.sid else l.lastSid,
    allow := if strm then l.allow.upd (0, 0) f.sid (fun a => (a.1, a.2 + 1)) else l.allow }
  let s := s.place n l g
  let s := s.dueOnce (l.lastHeard + 1000 - s.now) { unit := n } .replayTimeout
  match f.up with
  | some (m, sid) => s.giveAllowance m sid 1
  | none => s

/-- FLIT_SEND (R48): one flit, LINK flits first, then flits to send again, then the class rotation. -/
def execFlitSend (s : State) : Host.Outcome State Fault Refusal :=
  let n := s.here.unit
  let l := s.link n
  let again (s : State) : State := s.dueOnce 0 { unit := n } .flitSend
  if !l.up then .next s
  else if l.burst.1 = s.now ∧ l.rate n ≤ l.burst.2 then .next (s.dueOnce 1 { unit := n } .flitSend)
  else match l.linkq, l.resend with
    | f :: fs, _ => .next (again (s.place n { l with linkq := fs } f))
    | [], f :: fs => .next (again (s.place n { l with resend := fs } f))
    | [], [] =>
      if retrySize ≤ l.retry.length then .next s
      else match l.turn n with
        | some (t, f) => .next (again (s.sendNew n l t f))
        | none => .next s

-- ## Acknowledgement (R41-R43, R49)

/-- A held flit is older than an expected number (R41). -/
def covered (e : Nat) (f : Flit) : Bool :=
  let d := (e + seqMod - f.seq) % seqMod
  decide (1 ≤ d) && decide (d ≤ retrySize)

/-- The sender's buffer without the flits that an expected number covers. -/
def Link.release (l : Link) (e now : Nat) : Link :=
  { l with retry := l.retry.filter (fun f => !covered e f), resend := l.resend.filter (fun f => !covered e f), lastHeard := now }

/-- Lets the sender of a link go on, and times its held flits (R43). -/
def State.pokeLink (s : State) (n : Nat) : State :=
  let s := s.dueOnce 0 { unit := n } .flitSend
  if (s.link n).retry.isEmpty then s else s.dueOnce 1000 { unit := n } .replayTimeout

/-- ACK (R41). -/
def execAck (link e : Nat) (s : State) : Host.Outcome State Fault Refusal :=
  .next ((s.setLink link ((s.link link).release e s.now)).pokeLink link)

/-- NAK (R41, R42): every flit still held is sent again, before any new one. -/
def execNak (link e : Nat) (s : State) : Host.Outcome State Fault Refusal :=
  let l := (s.link link).release e s.now
  .next ((s.setLink link { l with resend := l.retry }).pokeLink link)

/-- ALLOW (R49). -/
def execAllow (link sid n : Nat) (s : State) : Host.Outcome State Fault Refusal :=
  let l := s.link link
  match l.allow.find sid with
  | none => .next s
  | some (a, u) => .next ((s.setLink link { l with allow := l.allow.set sid (a, u - n) }).pokeLink link)

/-- A LINK flit to the sender of a link, on the way back (R41). -/
def State.tellSender (s : State) (n typ : Nat) : State :=
  let b := backLink n
  let l := s.link b
  (s.setLink b { l with linkq := l.linkq ++ [{ seq := (s.link n).expected, cls := 0, typ := typ, dst := 0 }] }).dueOnce
    0 { unit := b } .flitSend

/-- An acknowledgement of all that a receiver has delivered (R43). -/
def State.sendAck (s : State) (n : Nat) : State :=
  let s := s.tellSender n 1
  s.setLink n { s.link n with unacked := 0, lastAck := s.now }

/-- ACK_TIMER (R43). -/
def execAckTimer (s : State) : Host.Outcome State Fault Refusal :=
  let n := s.here.unit
  let l := s.link n
  if l.unacked = 0 then .next s
  else if l.lastAck + 32 ≤ s.now then .next (s.sendAck n)
  else .next (s.dueOnce (l.lastAck + 32 - s.now) { unit := n } .ackTimer)

/-- Times of NAKs that still count at a moment (R45). -/
def Link.recentNaks (l : Link) (now : Nat) : List Nat := l.naks.filter (fun t => decide (now < t + 1000))

/-- A receiver that finds an error asks for the expected flit once, or for retraining the third time (R42, R45). -/
def State.sendNak (s : State) (n : Nat) : State :=
  let l := s.link n
  if l.recovering then s
  else
    let near := l.recentNaks s.now
    let s := s.setLink n { l with recovering := true, naks := near ++ [s.now] }
    if 2 ≤ near.length then s.due 0 { unit := n } .retraining else s.tellSender n 2

/-- REPLAY_TIMEOUT (R43): it sends again from the oldest held flit, and counts as a NAK (R45). -/
def execReplayTimeout (s : State) : Host.Outcome State Fault Refusal :=
  let n := s.here.unit
  let l := s.link n
  if l.retry.isEmpty || !l.up then .next s
  else if s.now < l.lastHeard + 1000 then .next (s.dueOnce (l.lastHeard + 1000 - s.now) { unit := n } .replayTimeout)
  else
    let near := l.recentNaks s.now
    let s := s.setLink n { l with resend := l.retry, lastHeard := s.now, naks := near ++ [s.now] }
    .next (if 2 ≤ near.length then s.due 0 { unit := n } .retraining else s.pokeLink n)

-- ## Flits that name something reserved (R40)

/-- TYPE values of a class on a bridge or a Hyley link (Table 2.2, R52). -/
def typeOk (hyley : Bool) : Nat → Nat → Bool
  | 0, t => decide (t ≤ 3)
  | 1, t => decide (t ≤ 4) || t == 15
  | 2, t => decide (t ≤ 2) || t == 15
  | 3, t => decide (t ≤ 1)
  | 4, t => !hyley && (decide (t ≤ 3) || t == 15)
  | _, _ => false

/-- A prefix names no reserved size, scope, die or field (Table 2.3). -/
def prefixOk (hyley : Bool) (p : Nat) : Bool :=
  decide (bitsOf p 64 5 < 26) && decide (bitsOf p 104 4 < 8) && decide (bitsOf p 108 3 < 5) && bitsOf p 111 1 == 0
    && bitsOf p 118 10 == 0 && (hyley || bitsOf p 48 16 == 0)

/-- A flit that passed its CRC check is malformed (R40). -/
def Flit.malformed (f : Flit) (hyley : Bool) : Bool :=
  let sidOk := if f.cls = 3 ∨ (f.cls = 0 ∧ f.typ = 3) then decide (1 ≤ f.sid) && decide (f.sid ≤ 511) else f.sid == 0
  !typeOk hyley f.cls f.typ || !sidOk
    || ((f.cls == 1 || f.cls == 2 || f.cls == 4) && f.typ != 15
        && !prefixOk (hyley || (f.cls == 2 && f.typ == 1)) (leNat (f.payload.take 16)))

-- ## Messages that have arrived

/-- The stream slot of a queue on a link. -/
def Queue.sidOn (x : Queue) (n : Nat) : Nat := ((x.streams.find? (fun e => e.1 == n)).map Prod.snd).getD 0

/-- The queue that a slot's token belongs to. -/
def State.queueOf (s : State) (tok : Nat) : Option Nat :=
  (s.queues.find? (fun e => e.2.flying.any (fun f => f.tok == tok))).map Prod.fst

/-- A message goes on to the next link of its route; a stream's flits change to the stream slot there (R49, R50). -/
def State.forwardMsg (s : State) (n die : Nat) (fl : List Flit) : State :=
  let dst := (fl.head?.map Flit.dst).getD 0
  match firstLink die dst with
  | none => s
  | some m =>
    let q := (fl.head?.bind (fun f => s.queueOf f.msg)).map s.queue
    let fl := if m < 1024 then fl else hyleyForm fl
    s.enqueue m (fl.map (fun f =>
      if f.cls = 3 then { f with up := some (n, f.sid), sid := (q.map (fun x => x.sidOn m)).getD 1 } else f))

/-- The kind of a request TYPE. -/
def kindOf : Nat → ReqKind
  | 0 => .read | 1 => .write | 2 => .wmask | 3 => .atom | _ => .red

/-- A request of another device as its flits give it (R38, R52). That its ADDR names this device and that bit 52 is 0 is the
switch's concern: neither is looked at here, and the request is executed at its virtual address (log entry 52). -/
def remoteReqOf (port : Nat) (fl : List Flit) : RemoteReq :=
  let p := prefixOf fl
  let k := kindOf ((fl.head?.map Flit.typ).getD 0)
  let n := 2 ^ bitsOf p 104 4
  let d := dataOf fl
  let m := (n + 7) / 8
  { srcDev := bitsOf p 69 11, ctx := bitsOf p 112 6, kind := k, va := bitsOf p 0 52, size := n, aop := bitsOf p 96 8,
    data := if k = .wmask then d.drop m else d,
    mask := if k = .wmask then (List.range n).map (fun j => (leNat (d.take m)).testBit j) else [],
    tag := bitsOf p 80 16, xdie := port / 18, srcDie := bitsOf p 64 5 }

/-- A request of the device to its own ID, which its X-die executes as one of another device (R54). -/
def State.ownRequest (s : State) (id die : Nat) : State :=
  let r := s.req id
  s.due 0 {} (.remoteRequest
    { srcDev := s.domDev.toNat, ctx := r.ctx, kind := r.kind, va := bitsOf r.va 0 52, size := r.size, aop := r.aop,
      data := r.data, mask := r.mask, tag := id, xdie := die - 24, srcDie := r.srcDie })

/-- A response of another device: it goes on to its requester (R54, R55). -/
def State.remoteAnswer (s : State) (port : Nat) (fl : List Flit) : State :=
  let p := prefixOf fl
  match s.reqsWith (fun k r => r.stage == .remote && !r.lost && k % 2 ^ 16 == bitsOf p 80 16) with
  | [] => s
  | id :: _ =>
    let r := s.req id
    let s := s.setReq id { r with stage := .resp, answer := dataOf fl, gwct := 0,
                                  status := if (fl.head?.map Flit.typ).getD 0 = 2 then bitsOf p 96 8 else 0 }
    s.send (portDie port) (s.rspFlits id r.srcDie)

/-- A message that has reached the die it goes to. -/
def State.acceptMsg (s : State) (fl : List Flit) : State :=
  match fl with
  | [] => s
  | f :: _ =>
    match f.cls with
    | 1 => if (s.reqs.find f.msg).isNone then s
      else if (s.req f.msg).space = 3 then s.ownRequest f.msg f.dst
      else s.atHome f.msg
    | 2 => if (s.reqs.find f.msg).isNone then s
      else if (s.req f.msg).space = 3 then s.due 0 { unit := f.msg } (rspStep f.msg (s.req f.msg))
      else s.atRequester f.msg
    | 3 =>
      (match s.queueOf f.msg with
        | none => s
        | some q =>
          let x := s.queue q
          (s.setQueue q { x with flying := x.flying.map (fun g => if g.tok = f.msg then { g with stage := 2 } else g) }).pokeSlots q)
    | 4 => (match f.ctrl with
        | some (h, i) => s.due 0 h i
        | none => s)
    | _ => s

/-- The die at the receiving end of a link. -/
def linkEnd (n : Nat) : Nat := if n < 1024 then n % 32 else portDie ((n - 1024) / 2)

/-- A whole message has been delivered on a link. -/
def State.arriveMsg (s : State) (n : Nat) (fl : List Flit) : State :=
  let die := linkEnd n
  if 1024 ≤ n then
    let port := (n - 1024) / 2
    match (fl.head?.map Flit.cls).getD 0 with
    | 1 => s.due 0 {} (.remoteRequest (remoteReqOf port fl))
    | 2 => s.remoteAnswer port fl
    | _ => s
  else if (fl.head?.map Flit.dst).getD die = die then s.acceptMsg fl
  else s.forwardMsg n die fl

-- ## The receiver (R42)

/-- A malformed flit was discarded: the rest of its message is as well (R40). -/
def State.dropMsg (s : State) (n : Nat) (f : Flit) : State :=
  let l := s.link n
  let key := (f.cls, f.msg)
  s.setLink n { l with rx := l.rx.filter (fun g => (g.cls, g.msg) != key),
                       drop := if f.last then l.drop.filter (· != key) else key :: l.drop.filter (· != key) }

/-- A flit is delivered to its class buffer; a message that is whole leaves it (R39, R42, R43). -/
def State.deliver (s : State) (n : Nat) (f : Flit) : State :=
  let l := s.link n
  let s := s.setLink n { l with
    expected := (l.expected + 1) % seqMod, recovering := false, unacked := l.unacked + 1,
    lastAck := if l.unacked = 0 then s.now else l.lastAck, rx := if f.malformed (decide (1024 ≤ n)) then l.rx else l.rx ++ [f] }
  let s := if 64 ≤ l.unacked + 1 then s.sendAck n
    else if l.unacked = 0 then s.dueOnce 32 { unit := n } .ackTimer else s
  if f.malformed (decide (1024 ≤ n)) then ((s.tell (.ras 40 n)).tell (.msix 0)).dropMsg n f
  else if (s.link n).drop.contains (f.cls, f.msg) then s.dropMsg n f
  else if f.last then
    let l := s.link n
    let mine (g : Flit) : Bool := g.cls == f.cls && g.msg == f.msg
    let s := s.setLink n { l with rx := l.rx.filter (fun g => !mine g) }
    (s.arriveMsg n (l.rx.filter mine)).dueOnce 0 { unit := n } .flitSend
  else s

/-- A LINK flit acts on the sender of the other direction (R42). -/
def State.actLink (s : State) (n : Nat) (f : Flit) : State :=
  if f.malformed (decide (1024 ≤ n)) then (s.tell (.ras 40 n)).tell (.msix 0)
  else match f.typ with
    | 1 => s.due 0 {} (.ack (backLink n) f.seq)
    | 2 => s.due 0 {} (.nak (backLink n) f.seq)
    | 3 => s.due 0 {} (.allow (backLink n) f.sid (f.payload.headD 0).toNat)
    | _ => s

/-- FLIT_RECEIVE (R42). -/
def execFlitReceive (s : State) : Host.Outcome State Fault Refusal :=
  let n := s.here.unit
  let l := s.link n
  match l.wire with
  | [] => .next s
  | f :: fs =>
    let s := s.setLink n { l with wire := fs }
    if !l.up then .next s
    else if f.crcBad then .next (s.sendNak n)
    else if f.cls = 0 then .next (s.actLink n f)
    else if f.seq = l.expected then .next (s.deliver n f)
    else if (l.expected + seqMod - f.seq) % seqMod ≤ 512 then .next s
    else .next (s.sendNak n)

-- ## Retraining (R45-R47)

/-- The link in training carries no flits; what is on its wires is lost and held for replay (R45). -/
def Link.train (l : Link) : Link := { l with training := true, wire := [] }

/-- RETRAINING (R45): both directions of the module, for 4 µs. -/
def execRetraining (s : State) : Host.Outcome State Fault Refusal :=
  let n := s.here.unit
  let l := s.link n
  if !l.up then .next s
  else
    let b := backLink n
    let s := s.setLink n l.train
    let s := s.setLink b (s.link b).train
    let k := s.undefs
    .next (({ s with undefs := k + 2 } : State).due 4000 {} (.retrainComplete n (Config.halfOk k 0) (Config.halfOk k 1)))

/-- Lanes of a link after training (R46, R52): a bridge keeps a half that failed out of use until package reset, and
a Hyley port has no half to fall back to. -/
def lanesAfter (n before : Nat) (low high : Bool) : Nat :=
  if low && high then before
  else if 1024 ≤ n then 0
  else if low || high then min before 32
  else 0

/-- One direction of a link after training: numbers exchanged, covered flits released, the rest sent again (R46). -/
def Link.trained (l : Link) (lanes now : Nat) (known : Bool) : Link :=
  let l := { l with training := false, lanes := lanes, naks := [], recovering := false }
  let l := if known then l.release l.expected now else { l with lastHeard := now }
  { l with resend := l.retry }

/-- The record of a launch that a bridge ends (R47, Table 6.5). -/
def State.bridgeRec (s : State) (lk n : Nat) : FaultRec :=
  let a := min (n / 32) (n % 32)
  let b := max (n / 32) (n % 32)
  { cause := .link, deliv := 3, die := a, lid := (s.launch lk).lid, time := s.now, detail := a + b * 2 ^ 8 }

/-- A bridge is down: every launch ends with LINK, and what must cross it is lost (R47). -/
def State.downBridge (s : State) (n : Nat) : State :=
  let s := { s with bridgeDown := true }
  let lks := (s.launches.filter (fun e => !e.2.state.final)).map Prod.fst
  let s := lks.foldl (fun s lk => s.raiseFatal lk (s.bridgeRec lk n)) s
  let gone := s.reqsWith (fun _ r => r.space != 1 && r.space != 3
    && (s.cut r.srcDie (homeDie (s.homeOf r.pa)) || s.cut (homeDie (s.homeOf r.pa)) r.srcDie))
  gone.foldl State.loseReq s

/-- A Hyley port is down: it leaves every set of usable ports (R52, R54). -/
def State.downPort (s : State) (p : Nat) : State :=
  { s with domUp := s.domUp - 1, ports := s.ports.map (fun e => (e.1, e.2.filter (· != p))) }

/-- RETRAIN_COMPLETE (R46, R47, R52). -/
def execRetrainComplete (link : Nat) (lowOk highOk : Bool) (s : State) : Host.Outcome State Fault Refusal :=
  let l := s.link link
  if !l.training then .next s
  else
    let b := backLink link
    let w := lanesAfter link l.lanes lowOk highOk
    let known (n : Nat) : Bool := decide (n < 1024) || n % 2 == 1
    let s := s.setLink link (l.trained w s.now (known link))
    let s := s.setLink b ((s.link b).trained w s.now (known b))
    let s := if w ≠ l.lanes then (s.tell (.ras 46 link)).tell (.msix 0) else s
    if w ≠ 0 then .next ((s.pokeLink link).pokeLink b)
    else if link < 1024 then .next (s.downBridge link)
    else .next (s.downPort ((link - 1024) / 2))

-- ## Other devices (R52-R55, R208)

/-- A response to another device goes out of a port that serves it (R54); one to the device itself goes to its
requester. -/
def State.sendResponse (s : State) (id : Nat) : State :=
  let r := s.req id
  let own := r.srcDev == some s.domDev.toNat && ((s.reqs.find r.tag).map (fun q => q.stage == .remote && !q.lost)).getD false
  let ports := s.ports.get [] (r.srcDev.getD 0)
  let s' := if own then
      let q := s.req r.tag
      let s := s.setReq r.tag { q with stage := .resp, answer := r.answer, status := r.status, gwct := 0 }
      s.send r.die (s.rspFlits r.tag q.srcDie)
    else if ports.isEmpty then s
    else
      let p := ports.getD (Config.portHash (hashedPart r.va) % ports.length) 0
      s.send r.die (s.farFlits id (32 + p))
  s'.dropReq id

/-- An error response to another device (R55). -/
def State.answerError (s : State) (id status : Nat) : State :=
  (s.setReq id { s.req id with status := status }).sendResponse id

/-- REMOTE_REQUEST (R52, R54): translated in the context of the same number, and executed uncached at its home; an atomic
wider than the granule there is not performed, and answers with an error (R203, log entry 52). -/
def execRemoteRequest (r : RemoteReq) (s : State) : Host.Outcome State Fault Refusal :=
  let die := 24 + r.xdie % 2
  let (id, s) := s.take
  let q : Req := { kind := r.kind, die := die, ctx := r.ctx, space := 2, va := r.va, size := r.size, data := r.data,
                   mask := r.mask, aop := r.aop, srcDev := some r.srcDev, tag := r.tag, farDie := r.srcDie, issued := s.now }
  let s := s.setReq id q
  let k : AccessKind := match r.kind with
    | .read => .load
    | .write | .wmask => .store
    | _ => .atomic
  if !(s.ctx r.ctx).v then .next (s.answerError id 1)
  else match s.walk die r.ctx r.va with
    | (.leaf e lg a, s) =>
      let s := s.raiseHeat die a (r.kind != .read)
      let pa := physOf e lg r.va
      let wide := k == .atomic && decide (2 ^ (s.homeOf pa).granule < r.size)
      if leafPermits e k && s.homeOf pa != .hole && !wide then .next ((s.setReq id { q with pa := pa }).toHome id)
      else .next (s.answerError id 1)
    | (.perm, s) => .next (s.answerError id 1)
    | (.ecc, s) => .next (s.answerError id 2)
    | (.link _, s) => .next (s.answerError id 3)

/-- A remote access fails: its launch ends by a late fault (R55, R147, R194). -/
def State.failRemote (s : State) (id : Nat) (cause : Cause) : State :=
  let r := s.req id
  (s.raiseLate r.lk (s.lateRec r cause r.srcDie (if cause = .link then r.va / 2 ^ 53 * 2 ^ 16 else 0))).loseReq id

/-- Causes of a response's status (Table 2.3). -/
def statusCause (n : Nat) : Cause := if n = 1 then .perm else if n = 2 then .ecc else .link

/-- ERR: an error response, of another device (R55) or of a home of the package. -/
def execErrArrive (req status : Nat) (s : State) : Host.Outcome State Fault Refusal :=
  match s.reqs.find req with
  | none => .next s
  | some r =>
    if r.lost then .next s
    else if r.stage == .remote || (r.stage == .resp && r.space == 3) then .next (s.failRemote req (statusCause status))
    else if r.stage == .resp then .next (s.takeResponse req r)
    else .next s

/-- REMOTE_REQ_TIMEOUT (R55). -/
def execRemoteReqTimeout (s : State) : Host.Outcome State Fault Refusal :=
  match s.reqs.find s.here.unit with
  | none => .next s
  | some r => .next (if r.stage == .remote && !r.lost && decide (r.issued + 1000000 ≤ s.now) then
      s.failRemote s.here.unit .link else s)

end Sys2Proof.Machine
end

