-- ==== Sys2Proof/Machine/Package.lean ====
section
/-! DEFINITION. The package: boot and trust (R26-R33), attestation (R31), islands and power (R16-R18, R21, R22), the
time base (R19, R20), soft errors (R24, R25), expanders (R58), resets (R33, R82). The steps PACKAGE_RESET, HOT_RESET,
FUNCTION_LEVEL_RESET, RECOVERY_IMAGE, TRUST_ALARM, SERVICE_REVERIFY, VERSION_ADVANCE, the SPDM requests,
THERMAL_THROTTLE, THERMAL_TRIP, ISLAND_FREQ_CHANGE, ISLAND_PAUSE_END, TIME_COMPARE, SOFT_ERROR, PATROL_SCRUB and
EXPANDER_FAILURE. -/

namespace Sys2Proof.Machine

-- ## Images and boot (R27-R30)

/-- Fused security version of an image class (R29). -/
def Trust.fuse (t : Trust) (service : Bool) : Nat := if service then t.fuseService else t.fuseTrusted

/-- An image is accepted (R29). What the two signatures cover is not said: here the content alone, the security version
number being a field beside it (log entry 55). -/
def Trust.accepts (t : Trust) (service : Bool) (i : Image) : Bool :=
  Config.ecdsaOk (Config.sha384 i.content) i.ecdsa && Config.lmsOk i.content i.lms && decide (t.fuse service ≤ i.svn)

/-- Bytes of a digest. -/
def digestBytes (d : BitVec 384) : List Byte := toLe 48 d.toNat

/-- Measurement 5: the M-dies and channels in service at boot (Table 1.8). -/
def State.geomMeas (s : State) : BitVec 384 :=
  Config.sha384 (toLe 1 s.geomMdie.toNat ++ (List.range 8).flatMap (fun m => toLe 1 (s.chans m)))

/-- The device-ready bit is set, with what the service firmware sets before it: the domain identity, the usable ports
and the annex ports that work (R28, R53, R54, R79). -/
def State.becomeReady (s : State) : State :=
  let n := s.trust.cycles
  let d := Config.domainAt n
  let ports := (Config.portsAt n).foldl (fun (t : Tab (List Nat)) e => t.set e.1 e.2) []
  { s with
    ready := true, geomAnnex := Config.annexAt n, domDev := d.1, domValid := d.2,
    domUp := BitVec.ofNat 6 ((List.range 36).filter (fun p => (s.link (hyleyOut p)).lanes != 0)).length, ports := ports,
    trust := { s.trust with awaiting := none, meas := s.trust.meas.set 5 s.geomMeas } }

/-- The bridges of the package, from the lower die ID (R14). -/
def bridges : List (Nat × Nat) :=
  (List.range 16).flatMap (fun c =>
    (if c % 4 < 3 then [(c, c + 1)] else [(c, 20 + c / 4)]) ++ (if c / 4 < 3 then [(c, c + 4)] else [(c, 25)])
      ++ (if c % 4 = 0 then [(c, 16 + c / 4)] else []) ++ (if c / 4 = 0 then [(c, 24)] else []))

/-- A bridge is trained at boot: each half of its lanes works or not (R28, R34, R46), and one without a half is down (R47). -/
def State.trainBridge (s : State) (b : Nat × Nat) : State :=
  let k := s.undefs
  let w := lanesAfter 0 64 (Config.halfOk k 0) (Config.halfOk k 1)
  let s := { s with undefs := k + 1 }
  if w = 64 then s
  else
    let n := b.1 * 32 + b.2
    let s := (s.setLink n { s.link n with lanes := w }).setLink (backLink n) { s.link (backLink n) with lanes := w }
    let s := (s.tell (.ras 46 n)).tell (.msix 0)
    if w = 0 then { s with bridgeDown := true } else s

/-- Ticks between two verifications of the running service firmware (R32): 10 s. -/
def reverifyTicks : Nat := 10000000000

/-- The service firmware image is measured and runs; it trains the bridges, and is verified again every 10 s (R28, R30,
R32). Training HBM4E leaves nothing that the spec names. -/
def State.runService (s : State) (i : Image) : State :=
  let t := s.trust
  let s := { s with trust := { t with meas := t.meas.set 3 (Config.sha384 i.content), service := some i } }
  ((bridges.foldl State.trainBridge s).becomeReady).dueOnce reverifyTicks {} (.serviceReverify i)

/-- The service firmware is loaded and verified; without one the part waits for a recovery image (R28). -/
def State.loadService (s : State) : State :=
  match s.trust.flashService with
  | some i => if s.trust.accepts true i then s.runService i
      else { s with trust := { s.trust with awaiting := some 1 } }
  | none => { s with trust := { s.trust with awaiting := some 1 } }

/-- The trusted firmware image is measured and runs, and derives the identity key (R28, R30, R31). -/
def State.runTrusted (s : State) (i : Image) : State :=
  let t := s.trust
  let m := t.meas.set 2 (Config.sha384 i.content)
  ({ s with trust := { t with booted := true, awaiting := none, meas := m, keys := !t.erased } }).loadService

/-- The boot ROM starts, and the trusted firmware is loaded (R27, R28). -/
def State.boot (s : State) : State :=
  let t := s.trust.start
  let s := { s with trust := t }
  match t.flashTrusted with
  | some i => if t.accepts false i then s.runTrusted i else { s with trust := { t with awaiting := some 0 } }
  | none => { s with trust := { t with awaiting := some 0 } }

/-- What keeps its value over a loss of volatile state: fuses, flash, and the count of power cycles. -/
def Trust.kept (t : Trust) : Trust :=
  { flashTrusted := t.flashTrusted, flashService := t.flashService, fuseTrusted := t.fuseTrusted,
    fuseService := t.fuseService, record := t.record, cycles := t.cycles + 1 }

/-- Memory outside the package: annex expanders and host memory. -/
def outside (m : List Host.Cell) : List Host.Cell :=
  m.filter (fun c => (decide (0x040000000000 ≤ c.1) && decide (c.1 < 0x080000000000)) || decide (0x800000000000 ≤ c.1))

/-- PACKAGE_RESET (R33). -/
def execPackageReset (s : State) : Host.Outcome State Fault Refusal :=
  .next (({ State.reset with trust := s.trust.kept, mem := outside s.mem } : State).boot)

/-- RECOVERY_IMAGE (R28): what boot waits for, over the DOE recovery mailbox. -/
def execRecoveryImage (service : Bool) (img : Image) (s : State) : Host.Outcome State Fault Refusal :=
  if s.trust.awaiting ≠ some service.toNat ∨ !s.trust.accepts service img then .next s
  else .next (if service then s.runService img else s.runTrusted img)

-- ## Alarms and fuses (R29, R32)

/-- Code of an alarm in an extension. The model's own (log entry 9). -/
def alarmCode : AlarmKind → Nat
  | .glitch => 1 | .tamper => 2 | .reverify => 3

/-- An alarm: the key store is erased, or index 4 is extended (R30, R32). -/
def State.alarm (s : State) (k : AlarmKind) : State :=
  let t := s.trust
  let t := if t.record then
      { t with meas := t.meas.set 4 (Config.sha384 (digestBytes (t.meas.get 0 4) ++ [BitVec.ofNat 8 (alarmCode k)])) }
    else { t with keys := false, erased := true }
  (({ s with trust := t }).tell (.ras 32 (alarmCode k))).tell (.msix 0)

/-- TRUST_ALARM (R32). -/
def execTrustAlarm (kind : AlarmKind) (s : State) : Host.Outcome State Fault Refusal := .next (s.alarm kind)

/-- SERVICE_REVERIFY (R32) of the image as the service controller holds it: one that fails raises an alarm. The next is due
10 s later, of the image that runs. The verification is that of R29 with the fuses as they stand at the moment (log entry
61). -/
def execServiceReverify (img : Image) (s : State) : Host.Outcome State Fault Refusal :=
  let s := match s.trust.service with
    | some i => s.dueOnce reverifyTicks {} (.serviceReverify i)
    | none => s
  .next (if s.trust.accepts true img then s else s.alarm .reverify)

/-- VERSION_ADVANCE (R29): a fuse bit is blown on a signed command, at most 64 in a class. -/
def execVersionAdvance (service : Bool) (sig : List Byte) (s : State) : Host.Outcome State Fault Refusal :=
  let t := s.trust
  let n := t.fuse service
  if !t.booted ∨ 64 ≤ n ∨ !Config.ecdsaOk (Config.sha384 [BitVec.ofNat 8 service.toNat, BitVec.ofNat 8 n]) sig then .next s
  else .next { s with trust := if service then { t with fuseService := n + 1 } else { t with fuseTrusted := n + 1 } }

-- ## Attestation (R31): SPDM 1.3 codes, PRESUMED from that standard (log entry 9)

/-- An SPDM request is answered once the trusted firmware runs; after an Erase alarm with ERROR Unspecified (R31, R32). -/
def State.spdm (s : State) (code : Nat) (body : List Byte) : State :=
  if !s.trust.booted then s
  else if s.trust.erased then s.tell (.doe 0x7F [0x05])
  else s.tell (.doe code body)

/-- Body of VERSION: one entry, SPDM 1.3 (R31). -/
def versionBody : List Byte := [0x00, 0x01, 0x00, 0x13]

/-- Body of ALGORITHMS (R31): ECDSA P-384 and SHA-384 alone. -/
def algorithmsBody : List Byte :=
  toLe 2 36 ++ [0x01, 0x00] ++ toLe 4 0x04 ++ toLe 4 0x80 ++ toLe 4 0x02 ++ List.replicate 16 0

/-- GET_VERSION (R31). -/
def execGetVersion (s : State) : Host.Outcome State Fault Refusal := .next (s.spdm 0x04 versionBody)

/-- GET_CAPABILITIES (R31). -/
def execGetCapabilities (s : State) : Host.Outcome State Fault Refusal := .next (s.spdm 0x61 (Config.spdmBody 0xE1))

/-- NEGOTIATE_ALGORITHMS (R31). -/
def execNegotiateAlgorithms (s : State) : Host.Outcome State Fault Refusal := .next (s.spdm 0x63 algorithmsBody)

/-- GET_DIGESTS (R31). -/
def execGetDigests (s : State) : Host.Outcome State Fault Refusal :=
  .next (s.spdm 0x01 (digestBytes (Config.sha384 Config.certificate)))

/-- GET_CERTIFICATE (R31). -/
def execGetCertificate (off len : Nat) (s : State) : Host.Outcome State Fault Refusal :=
  .next (s.spdm 0x02 ((Config.certificate.drop off).take len))

/-- The measurement registers of an answer: one of them, or with index 255 all. -/
def Trust.measBytes (t : Trust) (idx : Nat) : List Byte :=
  (if idx = 255 then [1, 2, 3, 4, 5] else [idx]).flatMap (fun k => digestBytes (t.meas.get 0 k))

/-- CHALLENGE (R31): signed with the identity key. -/
def execChallenge (nonce : List Byte) (s : State) : Host.Outcome State Fault Refusal :=
  .next (s.spdm 0x03 (Config.sign (nonce ++ s.trust.measBytes 255)))

/-- GET_MEASUREMENTS (R31): the registers, and a signature over them. -/
def execGetMeasurements (idx : Nat) (s : State) : Host.Outcome State Fault Refusal :=
  .next (s.spdm 0x60 (s.trust.measBytes idx ++ Config.sign (s.trust.measBytes idx)))

/-- SPDM_UNSUPPORTED_REQUEST (R31): ERROR UnsupportedRequest. -/
def execSpdmUnsupported (code : Nat) (s : State) : Host.Outcome State Fault Refusal :=
  .next (s.spdm 0x7F [0x07, BitVec.ofNat 8 code])

-- ## Resets (R33, R82) and power (R22)

/-- A reset of the host port ends every context with its launches failed; NOW and secure boot go on (R33). -/
def State.portReset (s : State) : State :=
  let live := (s.ctxs.filter (fun e => e.2.v)).map Prod.fst
  let s := live.foldl State.killContext s
  ({ s with hostCached := [] } : State).pokeDies

/-- HOT_RESET (R33). -/
def execHotReset (s : State) : Host.Outcome State Fault Refusal := .next s.portReset

/-- FUNCTION_LEVEL_RESET (R82). -/
def execFunctionLevelReset (s : State) : Host.Outcome State Fault Refusal := .next s.portReset

/-- THERMAL_TRIP (R22): no power, no volatile state, the host's link down. -/
def execThermalTrip (s : State) : Host.Outcome State Fault Refusal :=
  .next { State.reset with
    power := false, hostLinkDown := true, trust := { s.trust.kept with cycles := s.trust.cycles }, mem := outside s.mem }

-- ## Islands (R16, R17)

/-- A frequency that the service firmware may set (R16). -/
def mhzOk (mhz : Nat) : Bool := decide (800 ≤ mhz) && decide (mhz ≤ 4000) && mhz % 100 == 0

/-- Cores of a compute island (Table 1.4). -/
def islandCores (i : Nat) : List Nat := (List.range 20).map (fun k => 40 * (i / 2) + 20 * (i % 2) + k)

/-- Ticks of an island pause (R17: at most 1 µs). -/
def pauseTicks : Nat := 1000

/-- Work of a core that does not advance in an island pause: bank passes, microprograms, conversions, Binder work and
clearing (R17). The items of a bank look for themselves whether they may begin (State.itemPaused). -/
def standsStill : Instr → Bool
  | .passEnd | .mpEnd | .mpCap | .bankConversionStart | .bankConversionComplete | .bexecStart
  | .buildStart | .buildComplete | .codexWriteComplete | .shareClearDone | .blockClearDone => true
  | _ => false

/-- The core with its cycle counts settled: phase timers, and the slice of its folio (R17). -/
def State.settleCore (s : State) (c : Nat) : State :=
  let k := s.core c
  let qs : Tab Quire := k.quires.map (fun e =>
    (e.1, { e.2 with timer := { e.2.timer with count := s.timerCount c e.2.timer, asOf := s.now } }))
  let n (r : Resident) : Nat := if s.paused.contains (islandOf c) then r.cycles
    else r.cycles + (s.now - r.asOf) * s.islandMhz (islandOf c) / 1000
  s.setCore c { k with quires := qs, resident := k.resident.map (fun r => { r with cycles := n r, asOf := s.now }) }

/-- The steps due that an island pause delays (R17). -/
def State.delayIsland (s : State) (i n : Nat) : State :=
  let mine (d : Due) : Bool := standsStill d.what && (islandCores i).contains d.here.unit
  let hit := s.agenda.filter mine
  hit.foldl (fun s d => s.dueAt (d.tick + n) d.here d.what) (s.undue mine)

/-- The package power limit lets an island have a frequency no higher than this: at the thermal design power any, and below
it what the service firmware lowers the island to (R22, log entry 10). -/
def State.limited (s : State) (i mhz : Nat) : Nat :=
  let l := Config.limitMhz s.powerLimit i
  if s.powerLimit < 2800 && mhzOk l then min l mhz else mhz

/-- A change of an island's frequency, with its pause (R16, R17). One that is ordered while the island is paused is made once
that pause has ended: the spec does not say what becomes of it (log entry 56). -/
def State.changeIsland (s : State) (i mhz : Nat) : State :=
  if 44 ≤ i ∨ !mhzOk mhz ∨ s.islandMhz i = mhz then s
  else if s.paused.contains i then s.dueOnce pauseTicks {} (.islandFreqChange i mhz)
  else
    let listed := (islandCores i).filter (fun c => (s.cores.find c).isSome)
    let s := listed.foldl State.settleCore s
    let s := (s.delayIsland i (pauseTicks + 1)).undue (fun d =>
      (d.what = Instr.phaseExpiry || d.what = Instr.sliceEnd) && (islandCores i).contains d.here.unit)
    ({ s with mhz := s.mhz.set i mhz, paused := i :: s.paused } : State).due pauseTicks { unit := i } .islandPauseEnd

/-- ISLAND_FREQ_CHANGE (R16, R17): a compute island is set to a frequency, as far as the power limit lets it (R22). -/
def execIslandFreqChange (island mhz : Nat) (s : State) : Host.Outcome State Fault Refusal :=
  .next (if 32 ≤ island ∨ !mhzOk mhz then s else s.changeIsland island (s.limited island mhz))

/-- Islands of a die (Table 1.4). -/
def islandsOf (die : Nat) : List Nat :=
  if die < 16 then [2 * die, 2 * die + 1] else if die < 26 then [die + 16] else []

/-- THERMAL_THROTTLE (R22): the islands of a hot die are lowered; one in a pause is lowered behind it (log entry 56). -/
def execThermalThrottle (die mhz : Nat) (s : State) : Host.Outcome State Fault Refusal :=
  .next ((islandsOf die).foldl (fun s i =>
    if s.islandMhz i ≤ mhz ∨ !mhzOk mhz then s
    else if s.paused.contains i then s.dueOnce pauseTicks {} (.thermalThrottle die mhz)
    else s.changeIsland i mhz) s)

/-- The host sets the package power limit, and the service firmware lowers islands as far as it takes (R22). The spec names
no register for it (log entry 10). -/
def State.setPowerLimit (s : State) (watts : Nat) : State :=
  if 2800 < watts then s
  else (List.range 32).foldl (fun s i => s.changeIsland i (s.limited i (s.islandMhz i))) { s with powerLimit := watts }

/-- The work of a core goes on after an island pause (R17). -/
def State.resumeCore (s : State) (c : Nat) : State :=
  let k := s.core c
  let armed := (k.quires.filter (fun e => e.2.live && e.2.timer.armed)).map Prod.fst
  let s := armed.foldl (fun s j => s.armTimer c j) s
  let s := (k.banks.map Prod.fst).foldl (fun s b => s.kickBank c b) s
  let s := if k.resident.isSome then s.dueOnce 0 { unit := c } .sliceEnd else s
  s.pokeEngine c

/-- ISLAND_PAUSE_END (R17). -/
def execIslandPauseEnd (s : State) : Host.Outcome State Fault Refusal :=
  let i := s.here.unit
  if !s.paused.contains i then .next s
  else
    let listed := (islandCores i).filter (fun c => (s.cores.find c).isSome)
    let s := listed.foldl State.settleCore s
    .next (listed.foldl State.resumeCore { s with paused := s.paused.filter (· != i) })

-- ## The time base (R19, R20, R157)

/-- The deviation a die may slew to, so that any two dies differ by at most δ (R19). -/
def State.fitDev (s : State) (d : Nat) (x : Int) : Int :=
  let others := (s.dies.filter (fun e => e.1 != d && !e.2.failed)).flatMap (fun e => [e.2.dev, e.2.devFrom])
  let own := (s.die d).devNow s.now
  let lo := (others ++ [0, own]).foldl max (-2) - 2
  let hi := (others ++ [0, own]).foldl min 2 + 2
  clamp x lo hi

/-- Launches that have quires on a die, with at least one waiter or live quire there. -/
def State.launchesOn (s : State) (d : Nat) : List Nat :=
  ((s.cores.filter (fun e => dieOf e.1 == d)).flatMap (fun e =>
    (e.2.quires.filter (fun q => q.2.live)).map (fun q => q.2.lk))).eraseDups

/-- Every waiter of a launch's package barriers is released with status 1 (R157). -/
def State.breakBarriers (s : State) (lk : Nat) : State :=
  let l := s.launch lk
  let ws := l.pbars.flatMap (fun e => e.2.waiters.map (fun w => (e.1, w)))
  let s := s.setLaunch lk { l with pbars := l.pbars.map (fun e => (e.1, { phase := e.2.phase + 1 })) }
  ws.foldl (fun s e => s.releaseQuire e.2.1 e.2.2 (fun w => w.kind == .pbar e.1) 1 3) s

/-- The fatal RAS event of a die: its launches end with LINK, or with BARBROKEN when a package barrier loses a
participant (R20, R157), and a launch that waits for a word on it finds it gone (R110). -/
def State.failDie (s : State) (d : Nat) : State :=
  let s := s.setDie d { s.die d with failed := true }
  let s := (s.tell (.ras 20 d)).tell (.msix 0)
  (s.launchesOn d).foldl (fun s lk =>
    if (s.launch lk).pbars.any (fun e => !e.2.waiters.isEmpty) then
      (s.breakBarriers lk).raiseFatal lk (s.dieRec lk d .barbroken)
    else s.raiseFatal lk (s.dieRec lk d .link)) (s.lookWatches none)

/-- Dies that compare their NOW with X-die 0, one after the other. -/
def nextCompared (d : Nat) : Nat := if d = 23 then 25 else if 25 ≤ d then 0 else d + 1

/-- TIME_COMPARE (R20): each die once a microsecond, one every 40 ticks. What the comparison finds beyond δ, and what the die
drifts to before its next one, is a free value (log entry 8). -/
def execTimeCompare (s : State) : Host.Outcome State Fault Refusal :=
  let d := s.here.unit
  let x := Config.deviation s.undefs
  let s := { s with undefs := s.undefs + 1 }
  let k := s.die d
  let s := if k.failed then s
    else if x < -2 ∨ 2 < x then s.failDie d
    else s.setDie d { k with devFrom := k.devNow s.now, dev := s.fitDev d x, devAt := s.now }
  .next (s.due 40 { unit := nextCompared d } .timeCompare)

-- ## Soft errors (R24, R25) and expanders (R58)

/-- A corrected error is counted (R24). -/
def State.countError (s : State) : State := { s with trust := { s.trust with telemetry := s.trust.telemetry + 1 } }

/-- An array that the patrol scrubber goes through (R25). -/
def patrolled : ErrLoc → Bool
  | .bankWord .. | .regWord .. | .queueSlot .. => true
  | _ => false

/-- A cached copy, if there is one, with an uncorrectable error in one of its words (R24). -/
def spoilLine (t : Tab Line) (line w : Nat) : Tab Line :=
  match t.find line with
  | some l => if w < 16 then t.set line { l with bad := w :: l.bad.filter (· != w) } else t
  | none => t

/-- An uncorrectable error (R24, Table 1.7). -/
def State.spoil (s : State) : ErrLoc → State
  | .line pa => { s with poison := if s.poison.contains (pa / 128) then s.poison else s.poison ++ [pa / 128] }
  | .bankWord c b row w =>
    let k := s.bank c b
    if k.mode = .storage ∨ k.mode = .toComp then s.setBank c b { k with badW := (16 * row + w) :: k.badW } else s
  | .rowGroup c b row g =>
    let k := s.bank c b
    if k.mode = .compute ∨ k.mode = .toStor then s.setBank c b { k with badG := (8 * row + g) :: k.badG } else s
  | .regWord c j i k =>
    let q := s.quire c j
    if q.live ∧ i < 32 ∧ k < 4 * q.blocks then s.setQuire c j (q.setTh i { q.th i with badV := k :: (q.th i).badV }) else s
  | .l1Copy c l w => s.setCore c { s.core c with l1 := spoilLine (s.core c).l1 l w }
  | .codeCopy c l w => s.setCore c { s.core c with icache := spoilLine (s.core c).icache l w }
  | .dieCopy d l w => s.setDie d { s.die d with cache := spoilLine (s.die d).cache l w }
  | .queueSlot q n =>
    let x := s.queue q
    s.setQueue q { x with sram := (List.range x.sram.length).map (fun k =>
      let e := x.sram.getD k ([], false)
      if k = n then (e.1, true) else e) }
  | .flit n =>
    let l := s.link n
    match l.wire with
    | f :: fs => s.setLink n { l with wire := { f with crc := crc32c f.image ^^^ 1 } :: fs }
    | [] => s

/-- SOFT_ERROR (R24). A flit's error is found by its CRC check. -/
def execSoftError (loc : ErrLoc) (correctable : Bool) (s : State) : Host.Outcome State Fault Refusal :=
  match loc with
  | .flit n => .next (s.spoil (.flit n))
  | _ =>
    if !correctable then .next (s.spoil loc)
    else if patrolled loc then .next { s with latent := s.latent ++ [loc] }
    else .next s.countError

/-- PATROL_SCRUB (R25): every bit error that a correction removes is corrected and counted. -/
def execPatrolScrub (s : State) : Host.Outcome State Fault Refusal :=
  let n := s.latent.length
  let s := { s with latent := [], trust := { s.trust with telemetry := s.trust.telemetry + n } }
  .next (s.due 100000000 {} .patrolScrub)

/-- EXPANDER_FAILURE (R58, R79): the port is unpopulated from now on. -/
def execExpanderFailure (port : Nat) (s : State) : Host.Outcome State Fault Refusal :=
  if 8 ≤ port ∨ !s.geomAnnex.getLsbD port then .next s
  else
    let s := { s with geomAnnex := s.geomAnnex &&& ~~~(1#8 <<< port), geomGen := s.geomGen + 1 }
    .next ((s.tell (.ras 58 port)).tell (.msix 0))

end Sys2Proof.Machine
end

