-- ==== Sys2Proof/Machine/Preempt.lean ====
section
/-! DEFINITION. Pre-emption and restore (R122, R123, R158-R164): PREEMPT_REQUEST, COLLECT, ENGINE_STOP_ACK,
DRAIN_COMPLETE, SAVE_COMPLETE and RESTORE. -/

namespace Sys2Proof.Machine

-- ## The request (R122, R158)

/-- A launch that can be pre-empted now. -/
def State.preemptable (l : Launch) : Bool := l.state == .running && !l.halted && !l.retiring

/-- X-die 0 marks a launch stopping and sends COLLECT to every die (R158). -/
def State.startPreempt (s : State) (lk : Nat) : State :=
  let s := s.setLaunch lk { s.launch lk with stopping := true, collecting := [], acked := [], drained := false }
  (List.range 16).foldl (fun s d => s.sendCtrl 24 d 1 (s.launch lk).ctx { unit := d, item := lk } .collect) s

/-- The launch with a share on a core that a waiting launch would have pre-empted (R122). -/
def State.victimOn (s : State) (c : Nat) (w : Launch) : Option Nat :=
  let here := (s.core c).shares.filter (fun e => !e.2.clearing)
  let cands := here.filterMap (fun e =>
    match s.launches.find e.2.lk with
    | some l => if State.preemptable l && (s.ctx l.ctx).pvic && decide (s.priority l < s.priority w) then some (e.2.lk, l) else none
    | none => none)
  (cands.foldl (fun (b : Option (Nat × Launch)) e =>
    match b with
    | none => some e
    | some x => if s.ranksBefore x e then some e else some x) none).map Prod.fst

/-- A launch that a dispatcher asked to pre-empt is not saved yet. -/
def State.askStands (s : State) (d : Nat) : Bool :=
  match (s.die d).preemptAsked with
  | some lk => (s.launch lk).stopping
  | none => false

/-- PREEMPT_REQUEST (R122, R158): of a dispatcher whose reserved core has waited for 4,096 ticks, and as long as it
waits; or of the host through the service firmware. A launch of a context with PVIC = 0 is never pre-empted. -/
def execPreemptRequest (src : PreemptSrc) (s : State) : Host.Outcome State Fault Refusal :=
  match src with
  | .firmware lk =>
    (match s.launches.find lk with
      | some l => .next (if State.preemptable l && (s.ctx l.ctx).pvic then s.startPreempt lk else s)
      | none => .next s)
  | .dispatcher d =>
    match (s.die d).resv with
    | none => .next s
    | some (c, lk, since) =>
      if s.now < since + 4096 then .next s
      else
        let s := s.due 4096 { unit := d } (.preemptRequest (.dispatcher d))
        if s.askStands d || s.fits c lk then .next s
        else match s.victimOn c (s.launch lk) with
          | none => .next s
          | some v => .next ((s.setDie d { s.die d with preemptAsked := some v }).startPreempt v)

-- ## Stopping (R158, R159, Table 6.7)

/-- The build of a launch's loop on a core is abandoned (Table 6.7, R270). -/
def State.dropBuild (s : State) (c lk : Nat) : State :=
  let k := s.core c
  match k.building with
  | some n =>
    if (k.heatAt n).lk = lk then
      let s := s.setCore c { k with building := none, heat := k.heat.set n (k.heatAt n).giveUp }
      (s.undue (fun d => d.what = .buildComplete && d.here.unit == c)).tryBuild c
    else s
  | none => s

/-- COLLECT (R158): the die's engines bring the launch to their stop points. -/
def execCollect (s : State) : Host.Outcome State Fault Refusal :=
  let d := s.here.unit
  let lk := s.here.item
  match s.launches.find lk with
  | none => .next s
  | some l =>
    if !l.stopping || l.collecting.contains d then .next s
    else
      let s := s.setLaunch lk { l with collecting := d :: l.collecting }
      let cs := (List.range 40).map (fun k => 40 * d + k)
      let s := cs.foldl (fun s c => s.dropBuild c lk) s
      .next (s.dueOnce 0 { unit := 40 * d } .engineStopAck)

/-- A long-latency instruction that need not end before the save: a notify store, a `bexec` that has stopped at its checkpoint,
and a `bwait` for it (R159, R252). -/
def State.mayStand (s : State) (o : Outst) : Bool :=
  s.reqs.any (fun e => e.2.ins == o.id && e.2.isNotify)
    || s.cores.any (fun e => e.2.banks.any (fun b => b.2.micro.isSome && (b.2.queue.any (fun it => it.ins == o.id)
        || o.banks.contains b.1)))

/-- A quire has stopped, and its loads and bank instructions are done (R159). -/
def State.quireStopped (s : State) (q : Quire) : Bool :=
  q.stopped.isSome && q.threads.all (fun e => e.2.outst.all s.mayStand)

/-- A bank holds no work but a microprogram at its checkpoint (R159, R252). -/
def State.bankStopped (s : State) (c b : Nat) : Bool :=
  let k := s.bank c b
  k.queue.isEmpty || (k.micro.isSome && !s.microDue c b && (k.queue.drop 1).isEmpty)

/-- Every engine of a core has brought a launch to its stop point (R159): the core's engine also ends the read of a shape
record and the write of LAYOUT that its commands have under way (R279, R280). -/
def State.coreStopped (s : State) (c lk : Nat) : Bool :=
  let k := s.core c
  (k.slotsOf lk).all (fun j => s.quireStopped (k.quire j) && !k.inFolio j && !k.issues j)
    && k.shares.all (fun e => e.2.lk != lk || e.2.clearing || e.2.banks.all (s.bankStopped c))
    && s.cores.all (fun e => e.2.cmds.all (fun x => x.lk != lk
      || (x.flying.all (fun f => f.1 != c) && (e.1 != c || x.got.isEmpty))))
    && k.codex.all (fun e => e.2.owner != some lk || e.2.writing.isNone)
    && s.queues.all (fun e => (e.2.consumer != some lk || e.2.consumerCore != c || !e.2.refilling)
      && (e.2.pdie != dieOf c || e.2.flying.all (fun f => f.lk != lk)))

/-- Threads of a stopped quire that share a pending fault take it now, in saved state (R159). -/
def State.settlePends : Nat → State → Nat → Nat → State
  | 0, s, _, _ => s
  | n + 1, s, c, j =>
    let q := s.quire c j
    match q.pendsAmong q.liveLanes with
    | none => s
    | some (ls, p) => State.settlePends n (s.takePend c j ls p) c j

/-- A die collector acknowledges once every engine of its die has (R158). -/
def State.tryAck (s : State) (d lk : Nat) : State :=
  let l := s.launch lk
  let cs := (List.range 40).map (fun k => 40 * d + k)
  if l.acked.contains d || !l.collecting.contains d || !cs.all (fun c => s.coreStopped c lk) then s
  else
    let s := cs.foldl (fun s c => ((s.core c).slotsOf lk).foldl (fun s j => State.settlePends 32 s c j) s) s
    let s := s.setLaunch lk { s.launch lk with acked := d :: l.acked }
    if (s.launch lk).acked.length < 16 then s
    else
      let w := { s.retireWait lk with goal := .drain lk }
      if s.waitOver w then s.due 0 { unit := lk } .drainComplete else (s.addWait w).2

/-- ENGINE_STOP_ACK (R158, R159): looked at whenever something of a stopping launch has come to an end on a core;
it looks again while something is under way. -/
def execEngineStopAck (s : State) : Host.Outcome State Fault Refusal :=
  let c := s.here.unit
  let d := dieOf c
  let lks := (s.launches.filter (fun e => e.2.stopping && e.2.collecting.contains d && !e.2.acked.contains d)).map Prod.fst
  let s := lks.foldl (fun s lk => s.tryAck d lk) s
  let more := lks.any (fun lk => (s.launch lk).stopping && !(s.launch lk).acked.contains d)
  .next (if more then s.dueOnce 8 { unit := 40 * d } .engineStopAck else s)

/-- DRAIN_COMPLETE (R160): the save begins. -/
def execDrainComplete (s : State) : Host.Outcome State Fault Refusal :=
  let lk := s.here.unit
  match s.launches.find lk with
  | none => .next s
  | some l =>
    if !l.stopping || l.acked.length < 16 then .next s
    else .next ((s.setLaunch lk { l with drained := true }).due 2500 { unit := lk } .saveComplete)

-- ## The save (R161, Table 6.8)

/-- A quire as it is saved: its timer stands still (R152). -/
def State.savedQuire (s : State) (c : Nat) (q : Quire) : Quire :=
  { q with timer := { q.timer with count := s.timerCount c q.timer }, active := false }

/-- The share of a launch on a core, saved (Table 6.8). -/
def State.saveShare (s : State) (c lk n : Nat) (x : Share) : SavedShare :=
  let k := s.core c
  { core := c, share := n, phys := x.banks,
    quires := (k.slotsOf lk).map (fun j => (j, s.savedQuire c (k.quire j))),
    groups := k.groups.filter (fun e => e.1 / 64 == n),
    banks := x.banks.map (fun b => k.bank b),
    codex := k.codex.filter (fun e => e.2.owner == some lk),
    cmds := k.cmds.filter (fun y => y.lk == lk), accepted := k.accepted.get 0 lk,
    claims := k.claims.filter (fun j => (k.quire j).lk == lk) }

/-- Live shares of a launch: core, number, share. -/
def State.sharesOf (s : State) (lk : Nat) : List (Nat × Nat × Share) :=
  s.cores.flatMap (fun e => (e.2.shares.filter (fun x => x.2.lk == lk && !x.2.clearing)).map (fun x => (e.1, x.1, x.2)))

/-- A quire leaves its slot for the save. -/
def State.unseat (s : State) (c j : Nat) : State :=
  let q := s.quire c j
  let s := s.undue (fun d => (d.what = .phaseExpiry || d.what = .sleepExpiry || d.what = .pbarArrival)
    && d.here.unit == c && d.here.sub == j)
  let s := { s with waits := s.waits.filter (fun e => !s.waitEnds c j e.2) }
  let k := s.core c
  (s.setCore c { k with quires := k.quires.del j, bar := k.bar.filter (· != j) }).clearBlocks c q.blocks []

/-- The TLB entries of a context on a core and on its die are discarded (R161). -/
def State.dropTlb (s : State) (c ctx : Nat) : State :=
  let s := s.setCore c { s.core c with tlb := (s.core c).tlb.filter (fun e => e.ctx != ctx) }
  s.setDie (dieOf c) { s.die (dieOf c) with tlb := (s.die (dieOf c)).tlb.filter (fun e => e.ctx != ctx) }

/-- What a share held on its core is freed (R158, R161). -/
def State.freeShare (s : State) (c lk n : Nat) : State :=
  let s := ((s.core c).slotsOf lk).foldl (fun s j => s.unseat c j) s
  let s := s.dropTlb c (s.launch lk).ctx
  let k := s.core c
  let ids := (k.cmds.filter (fun y => y.lk == lk)).map (fun y => y.id)
  let mine (g : Goal) : Bool := match g with
    | .cmdAcq c' i | .cmdRel c' i => c' == c && ids.contains i
    | _ => false
  let s := { s with waits := s.waits.filter (fun e => !mine e.2.goal) }
  let k := { k with cmds := k.cmds.filter (fun y => y.lk != lk), accepted := k.accepted.del lk,
                    claims := k.claims.filter (fun j => (k.quires.find j).isSome),
                    groups := k.groups.filter (fun e => e.1 / 64 != n) }
  let b := ((k.shares.get {} n : Share)).banks
  let k := b.foldl (fun k b => k.setBank b { k.bank b with queue := [], busy := false, micro := none }) k
  (s.setCore c k).endShare c n

/-- The consumer ends that a launch binds stand still, or go on (R161). -/
def State.freezeQueues (s : State) (lk : Nat) (on : Bool) : State :=
  s.queues.foldl (fun s e =>
    if e.2.consumer = some lk then
      let s := s.setQueue e.1 { s.queue e.1 with frozen := on }
      if on then s else (s.startRefill e.1).pokeSlots e.1
    else s) s

/-- SAVE_COMPLETE (R158 steps 7 and 8): STATE becomes PREEMPTED, and the resources are free. -/
def execSaveComplete (s : State) : Host.Outcome State Fault Refusal :=
  let lk := s.here.unit
  match s.launches.find lk with
  | none => .next s
  | some l =>
    if !l.stopping || !l.drained then .next s
    else
      let shares := s.sharesOf lk
      let saved := shares.map (fun e => s.saveShare e.1 lk e.2.1 e.2.2)
      let s := s.freezeQueues lk true
      let s := shares.foldl (fun s e => s.freeShare e.1 lk e.2.1) s
      let s := s.unreserve lk
      let s := s.setLaunch lk { s.launch lk with stopping := false, collecting := [], acked := [], drained := false, saved := saved }
      let s := s.setState lk .preempted
      .next (((s.queues.foldl (fun s e => s.pokeArrival e.1) s).pokeDies).pokeRestore)

-- ## Restore (R123, R163)

/-- A dispatcher has reserved a core for a group of another launch, which may be placed there (R121). -/
def State.heldFor (s : State) (c lk : Nat) : Bool :=
  match (s.core c).reserved with
  | some o => o != lk && (s.launch o).state != .preempted
  | none => false

/-- X-die 0 reserves the cores of the shares it restores, and the Codex slots they owned, in place of those of a launch that
is no longer first; a core that a dispatcher has reserved is reserved once that reservation ends (R121, R123, R252). -/
def State.reserveFor (s : State) (lk : Nat) : State :=
  let s := match s.restoring with
    | some o => if o = lk then s else (s.unhold o).pokeDies
    | none => s
  (s.launch lk).saved.foldl (fun s x =>
    if s.heldFor x.core lk then s else s.setCore x.core { s.core x.core with restoreFor := some lk })
    { s with restoring := some lk }

/-- A saved share fits the core it left (R123, R169, R252). -/
def State.shareFits (s : State) (lk : Nat) (x : SavedShare) : Bool :=
  let k := s.core x.core
  k.restoreFor == some lk && (x.quires.all (fun e => !(k.quire e.1).live)) && decide (k.liveShares < 4)
    && decide (x.banks.length ≤ k.freeBanks.length) && decide (x.blocks ≤ k.freeBlocks)
    && decide (k.groups.length + x.groups.length ≤ 64)
    && x.codex.all (fun e => ((k.codex.get {} e.1 : CxSlot)).owner.isNone)

/-- An outstanding instruction with its physical banks renamed. -/
def Outst.rebank (o : Outst) (olds news : List Nat) : Outst :=
  { o with banks := o.banks.map (fun b => news.getD (olds.idxOf b) b) }

/-- A quire as it is written back: it reports RESTORE, and its timer reads M again (R152, R163). -/
def State.backQuire (s : State) (share : Nat) (q : Quire) (olds news : List Nat) : Quire :=
  let m := (s.launch q.lk).rcd.phMargin
  { q with share := share, stopped := none, restoring := true, ready := false, stall := .restore,
           timer := { q.timer with asOf := s.now, margin := if m = 0 then s.margin.toNat else m },
           threads := q.threads.map (fun e => (e.1, { e.2 with outst := e.2.outst.map (fun o => o.rebank olds news) })) }

/-- The steps that a restored quire's waits and timers need: a timer counts from the write-back on (R152). -/
def State.wakeQuire (s : State) (c j : Nat) : State :=
  let s := (s.due 0 { unit := c, sub := j } .sleepExpiry).armTimer c j
  (s.quire c j).waits.foldl (fun s w =>
    if w.counted then s
    else match w.kind with
      | .gbar g => s.startArrival c j g
      | .pbar id =>
        let r := { s.releaseSet c j none 3 s.fresh with goal := Goal.pbar c j id }
        if s.waitOver r then s.sendPbar c j id else (s.addWait r).2
      | _ => s) s

/-- A saved share is written back to the core it left, under the lowest free share number (R163). The core's command list
keeps the order of acceptance (R272), and the remainder of a copy command reads with the AT values of a package-scope
acquire at the restore (R278). -/
def State.writeBack (s : State) (x : SavedShare) (lk : Nat) : State :=
  let c := x.core
  let k := s.core c
  let n := ((List.range 64).find? (fun n => (k.shares.find n).isNone)).getD 0
  let bs := k.freeBanks.take x.banks.length
  let k := { k with shares := k.shares.set n { lk := lk, banks := bs }, freeBlocks := k.freeBlocks - (x.quires.map (fun e => e.2.blocks)).sum,
                    accepted := k.accepted.set lk x.accepted, claims := x.claims ++ k.claims,
                    cmds := sortBy (fun (y z : Cmd) => decide (y.id ≤ z.id)) (k.cmds ++ x.cmds.map (fun y => { y with
                      share := n, atD := s.nowAt (dieOf c), atP := s.nowAt (dieOf c), todo := sortNat (y.todo ++ y.stolen.map Prod.snd), stolen := [] })) }
  let k := x.groups.foldl (fun k e => { k with groups := k.groups.set (groupKey n (e.1 % 64)) e.2 }) k
  let k := x.codex.foldl (fun k e => { k with codex := k.codex.set e.1 e.2 }) k
  let k := (x.banks.zip bs).foldl (fun k e => k.setBank e.2 e.1) k
  let k := x.quires.foldl (fun k e => k.seat e.1 (s.backQuire n e.2 x.phys bs) e.2.stamp) k
  let s := s.setCore c k
  let s := bs.foldl (fun s b => if (s.bank c b).micro.isSome then s.due 16 { unit := c, sub := b } .mpEnd else s) s
  let s := x.quires.foldl (fun s e => s.wakeQuire c e.1) s
  let s := x.cmds.foldl (fun s y =>
    let y := ((s.core c).cmd? y.id).getD y
    if y.ready then ((s.pokeEngine c).pokeThieves c).pokeCmd c y.id
    else
      let w := s.cmdAcqWait c y
      if s.waitOver w then s.endCmdAcq c y.id else (s.addWait w).2) s
  s.pokeClaims c

/-- The last step of a restore: every quire of the launch may issue, and STATE is RUNNING again (R123, R163). -/
def State.endRestore (s : State) (lk : Nat) : State :=
  let cores : Tab Core := s.cores.map (fun e => (e.1, ({ e.2 with
    quires := e.2.quires.map (fun q => (q.1, if q.2.lk = lk then { q.2 with restoring := false } else q.2)) } : Core)))
  let s := ({ s with cores := cores, restoring := none } : State).unhold lk
  let s := s.setLaunch lk { s.launch lk with saved := [] }
  (((s.setState lk .running).freezeQueues lk false).pokeDies).pokeRestore

/-- The launch that X-die 0 restores next (R123, R115). -/
def State.nextRestore (s : State) : Option Nat :=
  ((s.ranked (fun l => l.state == .preempted && l.ending.isNone)).head?).map Prod.fst

/-- The launch whose shares are written back and whose quires X-die 0 has not released yet (R163). -/
def State.writtenBack (s : State) : Option Nat := s.restoring.filter (fun lk => !(s.sharesOf lk).isEmpty)

/-- RESTORE (R123, R163): the reservations, then the write-back of every share once all fit, then the release. Until the
write-back the launch is the one that is first in the order. -/
def execRestore (s : State) : Host.Outcome State Fault Refusal :=
  if s.here.sub = 1 then .next (if s.restoring = some s.here.item then s.endRestore s.here.item else s)
  else if s.writtenBack.isSome then .next s
  else match s.nextRestore with
    | none => .next s
    | some lk =>
      let s := s.reserveFor lk
      let l := s.launch lk
      if l.saved.all (s.shareFits lk) then
        let s := l.saved.foldl (fun s x => s.writeBack x lk) s
        .next (s.dueOnce 100 { sub := 1, item := lk } .restore)
      else .next s

end Sys2Proof.Machine
end

