-- ==== Sys2Proof/Machine/Translate.lean ====
section
/-! DEFINITION. Translation and placement (R65-R79): page walks, heat sweeps, TLBINV, migration, retirement of
channels; device registers that the host writes (R7, R83), and its writes to the host window (R86). The steps
WALK_COMPLETE, SWEEP, SWEEP_WRITE, TLBINV_PAGE, TLBINV_ALL, TLBINV_COMPLETE, LEASECFG_WRITE, REGISTER_WRITE,
HOST_WINDOW_WRITE, MIGRATION_START, MIGRATION_SWITCH, MIGRATION_TIMEOUT and MDIE_RETIRE. -/

namespace Sys2Proof.Machine

-- ## Walks (R66)

/-- The accesses of a die that joined the walk of a page. -/
def State.joined (s : State) (d ctx page : Nat) : List Nat :=
  s.reqsWith (fun _ r => r.stage == .walk && dieOf r.core == d && r.ctx == ctx && r.va / 65536 == page)

/-- The walk that takes the walker which has come free (R66). -/
def State.nextWalk (s : State) (d : Nat) : State :=
  match (s.walksOf d).drop (walkers - 1) with
  | (_, ctx, page) :: _ => s.due walkTicks { unit := d, sub := ctx, item := page * 65536 } .walkComplete
  | [] => s

/-- WALK_COMPLETE (R66, R67): the heat is that of the access that began the walk. -/
def execWalkComplete (s : State) : Host.Outcome State Fault Refusal :=
  let d := s.here.unit
  let ctx := s.here.sub
  let va := s.here.item
  let page := va / 65536
  if !s.walks.contains (d, ctx, page) then .next s
  else
    let ids := s.joined d ctx page
    let first : Req := s.req (ids.headD 0)
    let cs := ((ids.map (fun k => (s.req k).core)).filter (· < 640)).eraseDups
    let (res, s) := s.walk d ctx va
    let s := match res with
      | .leaf e lg a =>
        let s := s.raiseHeat d a first.isStore
        s.installLeaf d cs { ctx := ctx, va := va / 2 ^ lg * 2 ^ lg, lg := lg, leaf := e, entryPa := a }
      | _ => s
    let s := ({ s with walks := s.walks.erase (d, ctx, page) }).nextWalk d
    .next (s.endWalk d ctx page res)

-- ## The sweeper (R67, R68, R71)

/-- Physical addresses of the valid leaves of a table at level `l + 1`. -/
def State.leavesFrom (s : State) : Nat → Nat → List Nat
  | 0, _ => []
  | l + 1, base =>
    (List.range (2 ^ levelBits (l + 1))).flatMap (fun n =>
      let a := base + 8 * n
      let e := BitVec.ofNat 64 (s.num a 8)
      match s.homeOf a with
      | .hbm _ | .annex _ =>
        if !e.getLsbD 0 then []
        else if e.getLsbD 13 then (if l + 1 < 4 ∧ s.leafOk (levelShift (l + 1)) e then [a] else [])
        else if 0 < l ∧ s.nonLeafOk e then State.leavesFrom s l (ptBits e 16 40 * 256)
        else []
      | _ => [])

/-- Roots of the live contexts. -/
def State.roots (s : State) : List Nat :=
  ((s.ctxs.filter (fun e => e.2.v)).map (fun e => e.2.root.toNat * 65536)).eraseDups

/-- A leaf with both heats halved (R67). -/
def heatHalf (e : Dword) : Dword :=
  let r := ptBits e 9 2
  let w := ptBits e 11 2
  e - BitVec.ofNat 64 ((r - r / 2) * 2 ^ 9 + (w - w / 2) * 2 ^ 11)

/-- The sweeper halves the heat of one leaf, by an atomic at its home (R67, R71). -/
def State.halve (s : State) (a : Nat) : State :=
  if s.poison.contains (a / 128) then s
  else
    let s := s.countRac 24 a
    s.applyWrite a (toLe 8 (heatHalf (BitVec.ofNat 64 (s.num a 8))).toNat)

/-- A record with its counters halved (R71). -/
def Rac.halve (r : Rac) : Rac := { r with loc := r.loc / 2, rem := r.rem / 2 }

/-- Every TLB entry of a list aged (R67). -/
def ageAll (t : List TlbEntry) : List TlbEntry := t.map (fun e => { e with aged := true })

/-- SWEEP (R67, R68, R71). -/
def execSweep (s : State) : Host.Outcome State Fault Refusal :=
  let s := ((s.roots.flatMap (s.leavesFrom 4)).eraseDups).foldl State.halve s
  let cores : Tab Core := s.cores.map (fun e => (e.1, ({ e.2 with tlb := ageAll e.2.tlb } : Core)))
  let dies : Tab Die := s.dies.map (fun e => (e.1, ({ e.2 with tlb := ageAll e.2.tlb } : Die)))
  let s := { s with cores := cores, dies := dies, rac := s.rac.map (fun e => (e.1, e.2.halve)) }
  .next (if s.sweepPeriod = 0 then s else s.due (1000 * s.sweepPeriod.toNat) {} .sweep)

/-- A write of SWEEP: the schedule starts again (R68). -/
def State.writeSweep (s : State) (v : Dword) : State :=
  let p := v.extractLsb' 0 32
  let s := ({ s with sweepPeriod := p } : State).undue (fun d => d.what = Instr.sweep)
  if p = 0 then s else s.due (1000 * p.toNat) {} .sweep

/-- SWEEP_WRITE (R68). -/
def execSweepWrite (v : Dword) (s : State) : Host.Outcome State Fault Refusal := .next (s.writeSweep v)

-- ## TLBINV (R70)

/-- A translation that an invalidation names. -/
def TlbInv.names (t : TlbInv) (e : TlbEntry) : Bool := e.ctx == t.ctx && (t.all || e.covers t.ctx (t.page * 65536))

/-- The TLBs and the resident-range cache without the translations that an invalidation names (R70, R102). -/
def State.dropNames (s : State) (t : TlbInv) : State :=
  let keep (l : List TlbEntry) : List TlbEntry := l.filter (fun e => !t.names e)
  let cores : Tab Core := s.cores.map (fun e => (e.1, ({ e.2 with tlb := keep e.2.tlb } : Core)))
  let dies : Tab Die := s.dies.map (fun e => (e.1, ({ e.2 with tlb := keep e.2.tlb } : Die)))
  let s := { s with cores := cores, dies := dies }
  let x := s.ctx t.ctx
  s.setCtx t.ctx { x with resident := x.resident.filter (fun r =>
    !(t.all || (decide (r.1 ≤ t.page) && decide (t.page < r.1 + r.2.1)))) }

/-- A write of a TLBINV instance (R70). -/
def State.writeTlbinv (s : State) (writer page ctx : Nat) (all : Bool) : State :=
  let t : TlbInv := s.tlbinv.get {} writer
  if t.pend then { s with tlbinv := s.tlbinv.set writer { t with ign := true } }
  else
    let t : TlbInv := { page := page, ctx := ctx, all := all, pend := true }
    ({ s with tlbinv := s.tlbinv.set writer t }).due 300 { unit := writer } .tlbinvComplete

/-- TLBINV_PAGE (R70). -/
def execTlbinvPage (writer page ctx : Nat) (s : State) : Host.Outcome State Fault Refusal :=
  .next (s.writeTlbinv writer (page % 2 ^ 36) (ctx % 64) false)

/-- TLBINV_ALL (R70). -/
def execTlbinvAll (writer ctx : Nat) (s : State) : Host.Outcome State Fault Refusal :=
  .next (s.writeTlbinv writer 0 (ctx % 64) true)

-- ## Migration (R73-R77)

/-- The writer number of an engine's TLBINV instance. -/
def engWriter (eng : Nat) : Nat := 2 + eng
/-- The die of a migration engine: engines 0-7 on the M-dies, 8 and 9 on the X-dies (R73). -/
def engDie (eng : Nat) : Nat := 16 + eng

/-- The leaf of a context's page, with its size and the address of its entry. -/
def State.leafOf (s : State) (ctx va : Nat) : Option (Dword × Nat × Nat) :=
  match (s.walk 24 ctx va).1 with
  | .leaf e lg a => some (e, lg, a)
  | _ => none

/-- The new leaf of a move: everything but the placement stays (R73). -/
def placedAt (old new : Dword) : Dword :=
  let keep : Dword := ~~~(0x0000FFFFFFFF01F0#64)
  (old &&& keep) ||| (new &&& ~~~keep)

/-- The MIG bit of a leaf. -/
def migBit : Dword := 0x4000

/-- The heat fields of a leaf. -/
def heatBits : Dword := 0x1E00

/-- A move that R73 lets an engine make. -/
def mayMove (eng lg : Nat) (old new : Dword) : Bool :=
  let near (e : Dword) : Bool := decide (leafPlc e ≤ 1)
  decide (lg ≤ 21) && decide (leafPlc old ≤ 2) && decide (leafPlc new ≤ 2)
    && (if eng < 8 then near old && near new else near old != near new)

/-- The page tables of a context from a table at level `l + 1` on: address and bytes of each. -/
def State.tablesFrom (s : State) : Nat → Nat → List (Nat × Nat)
  | 0, _ => []
  | l + 1, base =>
    (base, 8 * 2 ^ levelBits (l + 1)) :: (if l = 0 then [] else
      (List.range (2 ^ levelBits (l + 1))).flatMap (fun n =>
        let e := BitVec.ofNat 64 (s.num (base + 8 * n) 8)
        if e.getLsbD 0 && !e.getLsbD 13 && s.nonLeafOk e then State.tablesFrom s l (ptBits e 16 40 * 256) else []))

/-- A page's frames hold a page table of a live context, which no engine moves (R73). -/
def State.holdsTables (s : State) (m : Move) : Bool :=
  (s.roots.flatMap (s.tablesFrom 4)).any (fun t =>
    (List.range ((t.1 % 4096 + t.2 + 4095) / 4096)).any (fun k => m.inPage m.old (t.1 / 4096 * 4096 + 4096 * k)))

/-- The physical ranges that a leaf's page lies in: address and bytes of each (R64). -/
def leafRanges (e : Dword) (lg : Nat) : List (Nat × Nat) :=
  if leafPlc e = 0 then (List.range 8).map (fun h => (h * 2 ^ 36 + leafFrame e * 8192, 2 ^ lg / 8)) else [(physOf e lg 0, 2 ^ lg)]

/-- The ranges that a context's page tables, from one at level `l + 1` on, and the pages they map take up. -/
def State.usedFrom (s : State) : Nat → Nat → List (Nat × Nat)
  | 0, _ => []
  | l + 1, base =>
    (base, 8 * 2 ^ levelBits (l + 1)) :: (List.range (2 ^ levelBits (l + 1))).flatMap (fun n =>
      let e := BitVec.ofNat 64 (s.num (base + 8 * n) 8)
      if !e.getLsbD 0 then []
      else if e.getLsbD 13 then (if l + 1 < 4 ∧ s.leafOk (levelShift (l + 1)) e then leafRanges e (levelShift (l + 1)) else [])
      else if 0 < l ∧ s.nonLeafOk e then State.usedFrom s l (ptBits e 16 40 * 256) else [])

/-- The ranges in use: tables and pages of live contexts, and the places that pages are being moved to. -/
def State.used (s : State) : List (Nat × Nat) :=
  s.roots.flatMap (s.usedFrom 4) ++ s.moves.flatMap (fun e => leafRanges e.2.new e.2.lg)

/-- A page's frames lie in memory of the package and in no range in use: the service firmware moves a page to frames that are
free (R73, R74, R78). -/
def State.framesFree (s : State) (used : List (Nat × Nat)) (e : Dword) (lg : Nat) : Bool :=
  (leafRanges e lg).all (fun r => s.homeOf r.1 != .hole && s.homeOf (r.1 + r.2 - 1) != .hole
    && used.all (fun u => decide (u.1 + u.2 ≤ r.1) || decide (r.1 + r.2 ≤ u.1)))

/-- A migration engine begins to move a page to a new leaf, unless R73 forbids it, the engine is busy or the frames are not
free. It sets MIG by compare-and-swap, which fails where MIG is 1, and the copy is under way (R74). The compare-and-swap of an
M-die's engine counts as a request of that M-die (log entry 48). -/
def State.startMove (s : State) (eng ctx va : Nat) (leaf : Dword) : State :=
  match s.leafOf ctx va with
  | none => s
  | some (e, lg, a) =>
    let new := placedAt e leaf
    let m : Move := { ctx := ctx, va := va / 2 ^ lg * 2 ^ lg, lg := lg, entryPa := a, old := e ||| migBit, new := new, start := s.now }
    if 10 ≤ eng ∨ (s.moves.find eng).isSome ∨ !mayMove eng lg e new ∨ !s.leafOk lg new ∨ s.holdsTables m
      ∨ !s.framesFree s.used new lg then s
    else if e &&& migBit ≠ 0 then s.countRac (engDie eng) a
    else
      let s := (s.countRac (engDie eng) a).applyWrite a (toLe 8 (e ||| migBit).toNat)
      let s := { s with moves := s.moves.set eng m }
      (s.due (3000 * 2 ^ (lg - 16)) { unit := eng } .migrationSwitch).due 100000 { unit := eng } .migrationTimeout

/-- MIGRATION_START (R73, R74). -/
def execMigrationStart (eng ctx va : Nat) (leaf : Dword) (s : State) : Host.Outcome State Fault Refusal :=
  .next (s.startMove eng ctx va leaf)

/-- The held requests of a move come up again at their homes, in arrival order (R74-R76). -/
def State.releaseHeld (s : State) (m : Move) : State :=
  m.held.foldl (fun s id =>
    match s.reqs.find id with
    | some r => if r.stage = .held then (s.setReq id { r with stage := .home }).due 0 { unit := id } (homeStep r.kind) else s
    | none => s) s

/-- A move is over; its engine is free. -/
def State.endMove (s : State) (eng : Nat) : State :=
  ({ s with moves := s.moves.del eng } : State).undue (fun d =>
    (d.what = Instr.migrationSwitch || d.what = Instr.migrationTimeout) && d.here.unit == eng)

/-- The move aborts: MIG is cleared in an entry that software has not changed, and the old homes apply their held
requests (R76, R77). -/
def State.abortMove (s : State) (eng : Nat) (m : Move) : State :=
  let e := BitVec.ofNat 64 (s.num m.entryPa 8)
  let s := if (e ^^^ m.old) &&& ~~~heatBits = 0 then
      (s.countRac (engDie eng) m.entryPa).applyWrite m.entryPa (toLe 8 (e &&& ~~~migBit).toNat)
    else s
  (s.endMove eng).releaseHeld m

/-- An eviction mark raised to an expiry, if that is later (R190). -/
def raiseMark (t : Tab Nat) (k x : Nat) : Tab Nat := if x ≤ t.get 0 k then t else t.set k x

/-- The copy of one 4 KiB granule: its bytes, poison and lease expiries go to the new home, and the counters of both
clear (R71, R74). -/
def State.moveGranule (s : State) (m : Move) (k : Nat) : State :=
  let a := physOf m.old m.lg (m.va + 4096 * k)
  let b := physOf m.new m.lg (m.va + 4096 * k)
  let s := s.setBytes b (s.bytes a 4096)
  let lines := List.range 32
  let s := { s with
    poison := s.poison.filter (fun l => l / 32 != b / 4096)
      ++ (s.poison.filter (fun l => l / 32 == a / 4096)).map (fun l => b / 128 + l % 32),
    lease := lines.foldl (fun t i => t.set (b / 128 + i) (max (s.expiry (a / 128 + i)) (t.get 0 (b / 128 + i)))) s.lease,
    marks := lines.foldl (fun t i => match s.homeOf b with
      | .hbm n => raiseMark t (sliceSet n (b / 128 + i)) (s.expiry (a / 128 + i))
      | _ => t) s.marks }
  { s with rac := (s.rac.del (a / 4096)).del (b / 4096) }

/-- MIGRATION_SWITCH (R74, R76): the leaf is switched by compare-and-swap, its page copied, and the invalidation
begins. -/
def execMigrationSwitch (s : State) : Host.Outcome State Fault Refusal :=
  let eng := s.here.unit
  match s.moves.find eng with
  | none => .next s
  | some m =>
    let e := BitVec.ofNat 64 (s.num m.entryPa 8)
    if m.switched then .next s
    else if (e ^^^ m.old) &&& ~~~heatBits ≠ 0 then .next ((s.countRac (engDie eng) m.entryPa).abortMove eng m)
    else
      let s := (List.range (2 ^ m.lg / 4096)).foldl (fun s k => s.moveGranule m k) s
      let new := (m.new &&& ~~~(migBit ||| heatBits)) ||| (e &&& heatBits)
      let s := (s.countRac (engDie eng) m.entryPa).applyWrite m.entryPa (toLe 8 new.toNat)
      let s := { s with moves := s.moves.set eng { m with switched := true } }
      let s := s.dropNames { page := m.va / 65536, ctx := m.ctx }
      .next (s.writeTlbinv (engWriter eng) (m.va / 65536) m.ctx false)

/-- MIGRATION_TIMEOUT (R77). -/
def execMigrationTimeout (s : State) : Host.Outcome State Fault Refusal :=
  let eng := s.here.unit
  match s.moves.find eng with
  | none => .next s
  | some m => .next (if m.switched || decide (s.now < m.start + 100000) then s else s.abortMove eng m)

/-- The old homes forward their held requests, and every request in flight through the old translation goes to the
new home (R74 steps 5 and 6). -/
def State.forward (s : State) (eng : Nat) (m : Move) : State :=
  let live (r : Req) : Bool := (r.stage == .held || r.stage == .home || r.stage == .hold) && r.space != 1 && r.space != 3
  let reqs : Tab Req := s.reqs.map (fun e =>
    if live e.2 && m.inPage m.old e.2.pa then (e.1, { e.2 with pa := m.newPa e.2.pa }) else e)
  let s := { s with reqs := reqs }
  (s.endMove eng).releaseHeld m

/-- TLBINV_COMPLETE (R70, R74). -/
def execTlbinvComplete (s : State) : Host.Outcome State Fault Refusal :=
  let w := s.here.unit
  match s.tlbinv.find w with
  | none => .next s
  | some t =>
    if !t.pend then .next s
    else
      let s := s.dropNames t
      let s := { s with tlbinv := s.tlbinv.set w { t with pend := false } }
      match s.moves.find (w - 2) with
      | some m => .next (if 2 ≤ w ∧ m.switched then s.forward (w - 2) m else s)
      | none => .next s

-- ## Geometry (R78, R79)

/-- A change of the in-service M-dies or their channels; GEN counts a change of MDIE or CHMIN (R79). -/
def State.setMdies (s : State) (mdie : BitVec 8) (chans : Tab Nat) : State :=
  let t := { s with geomMdie := mdie, channels := chans }
  if t.geomMdie = s.geomMdie ∧ t.chmin = s.chmin then t else { t with geomGen := s.geomGen + 1 }

/-- A page table, or a 1 GiB page, that the host must move off an M-die: kind 0 a page, 1 a table; and the context
and address (R78). -/
structure Stuck where
  kind : Nat
  ctx : Nat
  va : Nat
  deriving DecidableEq, Repr, Inhabited

/-- What of a context's tables lies on an M-die: what the host must move, and the address and the leaf of each page that
the engines move; a malformed leaf is no page (R63). A table is named by the first address it covers (log entry 49). -/
def State.scanFrom (s : State) (m ctx : Nat) : Nat → Nat → Nat → List Stuck × List (Nat × Nat × Dword)
  | 0, _, _ => ([], [])
  | l + 1, base, va0 =>
    let own : List Stuck := if s.homeOf base = .hbm m then [{ kind := 1, ctx := ctx, va := va0 }] else []
    (List.range (2 ^ levelBits (l + 1))).foldl (fun acc n =>
      let e := BitVec.ofNat 64 (s.num (base + 8 * n) 8)
      let va := va0 + n * 2 ^ levelShift (l + 1)
      if !e.getLsbD 0 then acc
      else if e.getLsbD 13 then
        (if l + 1 < 4 ∧ s.leafOk (levelShift (l + 1)) e ∧ (leafPlc e = 0 ∨ (leafPlc e = 1 ∧ leafHome e = m)) then
          (if l + 1 = 3 then (acc.1 ++ [{ kind := 0, ctx := ctx, va := va }], acc.2) else (acc.1, acc.2 ++ [(ctx, va, e)]))
        else acc)
      else if 0 < l ∧ s.nonLeafOk e then
        let r := State.scanFrom s m ctx l (ptBits e 16 40 * 256) va
        (acc.1 ++ r.1, acc.2 ++ r.2)
      else acc) (own, [])

/-- One scan of every live context. -/
def State.scan (s : State) (m : Nat) : List Stuck × List (Nat × Nat × Dword) :=
  (s.ctxs.filter (fun e => e.2.v)).foldl (fun acc e =>
    let r := s.scanFrom m e.1 4 (e.2.root.toNat * 65536) 0
    (acc.1 ++ r.1, acc.2 ++ r.2)) ([], [])

/-- The leaf that the service firmware moves a page to: with PLC 1 on the lowest-numbered other M-die in service that has frames
free. Which of them is left to it: those that an undefined value names where they are free, else the first behind a range in
use (R78, log entry 17). -/
def State.refuge (s : State) (m lg : Nat) (e : Dword) : Dword × State :=
  let (v, s) := s.undef
  let used := s.used
  let unit := 2 ^ lg
  let leaf (h off : Nat) : Dword := (e &&& ~~~0x0000FFFFFFFF01F0#64) ||| 0x10#64 ||| BitVec.ofNat 64 (h * 2 ^ 6)
    ||| BitVec.ofNat 64 (off / 65536 % 2 ^ 32 * 65536)
  let cands := (List.range 8).flatMap (fun h =>
    if h = m then []
    else (v.toNat % 2 ^ 36 / unit * unit :: 0 :: used.map (fun u => (u.1 % 2 ^ 36 + u.2 + unit - 1) / unit * unit)).map (leaf h))
  ((cands.find? (fun x => s.leafOk lg x && s.framesFree used x lg)).getD e, s)

/-- The service firmware has the engine of M-die m begin to move the first page that its scan found (R78). -/
def State.evacuate (s : State) (m : Nat) (pages : List (Nat × Nat × Dword)) : State :=
  match pages.find? (fun p => p.2.2 &&& migBit = 0) with
  | none => s
  | some (ctx, va, e) =>
    match s.leafOf ctx va with
    | none => s
    | some (_, lg, _) =>
      let (leaf, s) := s.refuge m lg e
      s.startMove m ctx va leaf

/-- MDIE_RETIRE (R78): relocation requests for what the host must move, and moves of the other pages; once nothing remains
the M-die goes out of service, and comes back with its channels unless the whole die retires. -/
def execMdieRetire (m chans : Nat) (s : State) : Host.Outcome State Fault Refusal :=
  if 8 ≤ m ∨ 32 < chans then .next s
  else
    let (stuck, pages) := s.scan m
    let s := stuck.foldl (fun s x => s.tell (.relocate x.ctx x.va x.kind)) s
    let s := if stuck.isEmpty then s else s.tell (.msix 0)
    if !stuck.isEmpty || !pages.isEmpty then .next ((s.evacuate m pages).due 100000 {} (.mdieRetire m chans))
    else
      let out := s.setMdies (s.geomMdie &&& ~~~(1#8 <<< m)) s.channels
      .next (if chans = 0 then out else out.setMdies (out.geomMdie ||| (1#8 <<< m)) (out.channels.set m chans))

-- ## Device registers (R7, R83, R90, R103, R149, R154, R187)

/-- A write of LEASECFG (R187, Table 8.1): 3 stores 2; after a lower CAP the former one bounds Lmax for 4,096 ticks. -/
def State.writeLeasecfg (s : State) (v : Dword) : State :=
  let x := v.extractLsb' 0 2
  let cap := if x = 3 then 2 else x
  if cap < s.leaseCap then { s with leaseCap := cap, leaseOld := s.leaseCap, leaseUntil := s.now + 4096 }
  else { s with leaseCap := cap }

/-- LEASECFG_WRITE (R187). -/
def execLeasecfgWrite (v : Dword) (s : State) : Host.Outcome State Fault Refusal := .next (s.writeLeasecfg v)

/-- A write of a word of a context entry (R90, Table 4.4): the ring and the root only while V = 0. -/
def State.writeCtxWord (s : State) (ctx off : Nat) (v : Dword) : State :=
  let x := s.ctx ctx
  match off with
  | 0x00 => s.writeCtl ctx v
  | 0x08 => if x.v then s else s.setCtx ctx { x with root := v.extractLsb' 16 32 }
  | 0x10 => if x.v then s else s.setCtx ctx { x with frbase := v }
  | 0x18 => if x.v then s else s.setCtx ctx { x with frLog2 := v.extractLsb' 0 5 }
  | _ => s

/-- A 64-bit write of the device-register area of BAR0 (Table 4.2); a register that is read-only or not listed
ignores it. -/
def State.writeDevice (s : State) (off : Nat) (v : Dword) : State :=
  match off with
  | 0x0008 => s.writeSweep v
  | 0x0010 => s.writeTlbinv 0 (bitsOf v.toNat 16 36) (bitsOf v.toNat 52 6) (v.getLsbD 58)
  | 0x0020 => s.writeLeasecfg v
  | 0x0028 => { s with margin := v.extractLsb' 0 16 }
  | 0x0100 => { s with prqBase := v.extractLsb' 12 35 }
  | 0x0108 => ({ s with prqLog2 := v.extractLsb' 0 5 }).pokePrq
  | 0x0110 => ({ s with prqHead := v.extractLsb' 0 16 }).pokePrq
  | _ => s

end Sys2Proof.Machine
end

