-- ==== Sys2Proof/Machine/Events.lean ====
section
/-! DEFINITION. The ends of waits on completion times (R86, R111, R160, R174, R194-R197, R204, R208, R289, R385,
R403): the step GWCT_REACHED. -/

namespace Sys2Proof.Machine

/-- What goes on when a wait is over. -/
def State.endWait (s : State) (id : Nat) : Goal → State
  | .send c _ _ _ => s.pumpCore c
  | .fence c j i ins acq scope => s.endFence c j i ins acq scope
  | .acquire c j i ins scope => s.endAcquire c j i ins scope
  | .gbar c j _ => s.retryArrivals c j
  | .pbar c j k => s.sendPbar c j k
  | .cmdAcq c n => s.endCmdAcq c n
  | .cmdRel c n => s.pokeCmd c n
  | .push c _ => (s.sendSlots id).pumpCore c
  | .drain lk => s.due 0 { unit := lk } .drainComplete
  | .retire lk => s.endRetire lk
  | .hflush c j i ins => s.endFence c j i ins false 0
  | .remote req => s.sendResponse req
  | .hostWrite line => s.tell (.completion line)
  | .chunk o n k => s.chunkResume o n k
  | .added lk ok => s.endAdded lk ok
  | .hadd ctx v => s.hnotifyAdd ctx v

/-- GWCT_REACHED (R194): a wait whose responses are all there and whose completion time has come is over. -/
def execGwctReached (s : State) : Host.Outcome State Fault Refusal :=
  let id := s.here.unit
  match s.waits.find id with
  | none => .next s
  | some w =>
    if s.waitOver w then .next (({ s with waits := s.waits.del id } : State).endWait id w.goal)
    else if w.sends.isEmpty && w.reqs.isEmpty then
      .next (s.dueOnce (max 1 (w.need - s.nowAt w.die)) { unit := id } .gwctReached)
    else .next s

end Sys2Proof.Machine
end

