-- ==== Sys2Proof/Machine/Exchange.lean ====
section
/-! DEFINITION. Exchange within a quire: `vote`, `ballot`, `xlane`, `redq`, `scanq`, `match`
(R309, R310, R378-R382). -/

namespace Sys2Proof.Machine

/-- The predicate that a participant brings (R379). -/
def Ictx.cond (x : Ictx) (pa : PReg) (ng : Bool) (i : Nat) : Bool := (x.q.th i).pred pa.toNat != ng

/-- A predicate result in every participant. -/
def Ictx.allP (x : Ictx) (pd : PReg) (b : Bool) : Eff := .ok (x.put (x.q.laneWrite x.lanes (fun _ _ => outP pd b)))

/-- All values of a list are equal. -/
def allSame {α : Type} [BEq α] (l : List α) : Bool := l.all (fun a => some a == l.head?)

/-- VOTE_ALL (R379). -/
def execVoteAll (h : Head) (ng : Bool) (pd pa : PReg) (s : State) : Host.Outcome State Fault Refusal :=
  issue (.voteAll h ng pd pa) h s (fun x => x.allP pd ((lanesOf x.lanes).all (x.cond pa ng)))

/-- VOTE_ANY (R379). -/
def execVoteAny (h : Head) (ng : Bool) (pd pa : PReg) (s : State) : Host.Outcome State Fault Refusal :=
  issue (.voteAny h ng pd pa) h s (fun x => x.allP pd ((lanesOf x.lanes).any (x.cond pa ng)))

/-- VOTE_UNI (R379). -/
def execVoteUni (h : Head) (ng : Bool) (pd pa : PReg) (s : State) : Host.Outcome State Fault Refusal :=
  issue (.voteUni h ng pd pa) h s (fun x => x.allP pd (allSame ((lanesOf x.lanes).map (x.cond pa ng))))

/-- BALLOT (R379). -/
def execBallot (h : Head) (ng : Bool) (vd : VReg) (pa : PReg) (s : State) : Host.Outcome State Fault Refusal :=
  issue (.ballot h ng vd pa) h s (fun x =>
    let m := maskOf ((lanesOf x.lanes).filter (x.cond pa ng))
    .ok (x.put (x.q.laneWrite x.lanes (fun _ _ => out1 vd m))))

/-- `xlane` (R380): the source lane of each participant, from the segment's base, its width, the lane's place
in it and the lane operand within it. Sources are as they stood before the cycle. -/
def xlaneWord (i : Instr) (h : Head) (s : State) (seg : BitVec 3) (vd va : VReg) (l : Thread → Nat)
    (pick : Nat → Nat → Nat → Nat → Nat) : Host.Outcome State Fault Refusal :=
  issue i h s (fun x =>
    let w := 2 ^ seg.toNat
    let src (i : Nat) (t : Thread) : Nat := pick (i - i % w) w (i % w) (l t % w)
    .ok (x.put (x.q.laneWrite x.lanes (fun i t => out1 vd (x.sh.v (src i t) va.toNat)))))

/-- Lane operand of `xlane` (Table 17.2). -/
def Thread.laneOp (t : Thread) : LaneOp → Nat
  | .reg r => ((t.rv r).extractLsb' 0 5).toNat
  | .imm n => n.toNat

/-- XLANE_LANE (R380). -/
def execXlaneLane (h : Head) (seg : BitVec 3) (vd va : VReg) (src : LaneOp) (s : State) :
    Host.Outcome State Fault Refusal :=
  xlaneWord (.xlaneLane h seg vd va src) h s seg vd va (fun t => t.laneOp src) (fun base _ _ l => base + l)

/-- XLANE_ROT (R380). -/
def execXlaneRot (h : Head) (seg : BitVec 3) (vd va : VReg) (src : LaneOp) (s : State) :
    Host.Outcome State Fault Refusal :=
  xlaneWord (.xlaneRot h seg vd va src) h s seg vd va (fun t => t.laneOp src) (fun base w r l => base + (r + l) % w)

/-- XLANE_XOR (R380). -/
def execXlaneXor (h : Head) (seg : BitVec 3) (vd va : VReg) (src : LaneOp) (s : State) :
    Host.Outcome State Fault Refusal :=
  xlaneWord (.xlaneXor h seg vd va src) h s seg vd va (fun t => t.laneOp src) (fun base _ r l => base + (r ^^^ l))

/-- XLANE_REV (R380). -/
def execXlaneRev (h : Head) (seg : BitVec 3) (vd va : VReg) (s : State) : Host.Outcome State Fault Refusal :=
  xlaneWord (.xlaneRev h seg vd va) h s seg vd va (fun _ => 0) (fun base w r _ => base + (w - 1 - r))

-- ## Reductions (R309, R310, R381)

/-- The combination of two operands, with its flags (Table 17.3). -/
def reduceOp (op : Nat) (rm : BitVec 2) (ftz : Bool) (x y : Word) : Word × Word :=
  match op with
  | 0 => (x + y, 0)
  | 1 =>
    let e := x.toInt + y.toInt
    let c := clamp e (-2 ^ 31) (2 ^ 31 - 1)
    (BitVec.ofInt 32 c, flagIf (c != e) fIS)
  | 2 => (if y.toInt < x.toInt then y else x, 0)
  | 3 => (if x.toInt < y.toInt then y else x, 0)
  | 4 => (if y.toNat < x.toNat then y else x, 0)
  | 5 => (if x.toNat < y.toNat then y else x, 0)
  | 6 => (x &&& y, 0)
  | 7 => (x ||| y, 0)
  | 8 => (x ^^^ y, 0)
  | 9 =>
    let r := fp32.add (rndOf rm) ftz (fp32.read ftz x.toNat) (fp32.read ftz y.toNat)
    (BitVec.ofNat 32 r.1, r.2)
  | 10 =>
    let r := fp32.minMax false false ftz x.toNat y.toNat
    (BitVec.ofNat 32 r.1, r.2)
  | _ =>
    let r := fp32.minMax true false ftz x.toNat y.toNat
    (BitVec.ofNat 32 r.1, r.2)

/-- A node of a reduction: absent operands pass the other unchanged (R309). -/
def nodeOp (f : Word → Word → Word × Word) (x y : Option (Word × Word)) : Option (Word × Word) :=
  match x, y with
  | some (a, fa), some (b, fb) => some ((f a b).1, fa ||| fb ||| (f a b).2)
  | some a, none => some a
  | none, y => y

/-- One level of the tree of R309. -/
def treeLevel (f : Word → Word → Word × Word) :
    List (Option (Word × Word)) → List (Option (Word × Word))
  | x :: y :: t => nodeOp f x y :: treeLevel f t
  | l => l

/-- The root of the tree over 32 lanes. -/
def treeRoot (f : Word → Word → Word × Word) (l : List (Option (Word × Word))) : Option (Word × Word) :=
  ((treeLevel f (treeLevel f (treeLevel f (treeLevel f (treeLevel f l)))))[0]?).getD none

/-- One step of R310: an absent lane keeps its absence, and passes nothing on but what reaches it. -/
def scanStep (f : Word → Word → Word × Word) (l : List (Option (Word × Word))) (d : Nat) :
    List (Option (Word × Word)) :=
  (List.range 32).map (fun i => if d ≤ i then nodeOp f (l.getD (i - d) none) (l.getD i none) else l.getD i none)

/-- The values that the participants bring; other lanes are absent. -/
def Ictx.operands (x : Ictx) (va : VReg) : List (Option (Word × Word)) :=
  (List.range 32).map (fun i => if x.lanes.getLsbD i then some ((x.q.th i).rv va, 0) else none)

/-- REDQ (R309, R381). -/
def execRedq (h : Head) (op : BitVec 5) (rm : BitVec 2) (ftz : Bool) (vd va : VReg) (s : State) :
    Host.Outcome State Fault Refusal :=
  issue (.redq h op rm ftz vd va) h s (fun x =>
    let r := (treeRoot (reduceOp op.toNat rm ftz) (x.operands va)).getD (0, 0)
    .ok (x.put (x.q.laneWrite x.lanes (fun _ _ => { out1 vd r.1 with fl := r.2 }))))

/-- SCANQ (R310, R381). -/
def execScanq (h : Head) (op : BitVec 5) (rm : BitVec 2) (ftz : Bool) (vd va : VReg) (s : State) :
    Host.Outcome State Fault Refusal :=
  issue (.scanq h op rm ftz vd va) h s (fun x =>
    let f := reduceOp op.toNat rm ftz
    let l := [1, 2, 4, 8, 16].foldl (scanStep f) (x.operands va)
    .ok (x.put (x.q.laneWrite x.lanes (fun i _ =>
      let r := (l.getD i none).getD (0, 0)
      { out1 vd r.1 with fl := r.2 }))))

-- ## Match (R382)

/-- The value a participant brings. -/
def Ictx.matched (x : Ictx) (w : Bool) (va : VReg) (i : Nat) : Dword :=
  if w then (x.q.th i).pair va else ((x.q.th i).rv va).zeroExtend 64

/-- Participants whose value is that of a lane. -/
def Ictx.peers (x : Ictx) (w : Bool) (va : VReg) (i : Nat) : List Nat :=
  (lanesOf x.lanes).filter (fun j => x.matched w va j == x.matched w va i)

/-- MATCH_SAME (R382). -/
def execMatchSame (h : Head) (w : Bool) (pd : PReg) (va : VReg) (s : State) : Host.Outcome State Fault Refusal :=
  issue (.matchSame h w pd va) h s (fun x => x.allP pd (allSame ((lanesOf x.lanes).map (x.matched w va))))

/-- MATCH_PEERS (R382). -/
def execMatchPeers (h : Head) (w : Bool) (vd va : VReg) (s : State) : Host.Outcome State Fault Refusal :=
  issue (.matchPeers h w vd va) h s (fun x =>
    .ok (x.put (x.q.laneWrite x.lanes (fun i _ => out1 vd (maskOf (x.peers w va i))))))

/-- MATCH_LEAD (R382). -/
def execMatchLead (h : Head) (w : Bool) (vd va : VReg) (s : State) : Host.Outcome State Fault Refusal :=
  issue (.matchLead h w vd va) h s (fun x =>
    .ok (x.put (x.q.laneWrite x.lanes (fun i _ => out1 vd (BitVec.ofNat 32 ((x.peers w va i).headD 0))))))

end Sys2Proof.Machine
end

