-- ==== Sys2Proof/Machine/HostPort.lean ====
section
/-! DEFINITION. The host's accesses to the part's registers and to the host window (R7, R83-R86, R92, Tables 4.1 and 4.2):
the steps REGISTER_WRITE and HOST_WINDOW_WRITE, and what host reads return. -/

namespace Sys2Proof.Machine

-- ## Register writes

/-- A write of a word of the MSI-X table; a vector that was pending fires as it is unmasked (Table 4.1, log entry 57). -/
def State.writeMsix (s : State) (n : Nat) (v : Dword) : State :=
  let s := { s with msixTable := s.msixTable.set n v }
  if n % 2 = 1 ∧ s.pba.getLsbD (n / 2) ∧ !s.masked (n / 2) then
    ({ s with pba := s.pba &&& ~~~(1#64 <<< (n / 2)) } : State).tell (.msix (n / 2))
  else s

/-- Offsets from here on are of BAR2 (Table 4.1). The model's own numbering (log entry 57). -/
def bar2Base : Nat := 0x100000
/-- The offset that stands for the host's setting of the power limit, which the spec gives no register (R22). The model's
own (log entry 10). -/
def powerLimitAt : Nat := 0x140000

/-- A 64-bit write of a launch page by the host, at any offset (R92): one that reaches 0x000 to 0x00F and is no notify store
sets NDROP (R93). -/
def State.writeBar2 (s : State) (off : Nat) (v : Dword) : State :=
  if off % 4096 < 256 then s.pageWrite (off / 4096) (off % 4096) (toLe 8 v.toNat) else s

/-- REGISTER_WRITE (R7): a 64-bit write at an offset of BAR0 or of BAR2 (Table 4.1). The spec gives no width for writes of BAR0;
one at an offset that is no multiple of 8, such as a write of an upper half, is ignored here (log entry 57). -/
def execRegisterWrite (off : Nat) (v : Dword) (s : State) : Host.Outcome State Fault Refusal :=
  .next (if bar2Base ≤ off ∧ off < powerLimitAt then s.writeBar2 (off - bar2Base) v
    else if off % 8 ≠ 0 then s
    else if off < 0x10000 then s.writeDevice off v
    else if off < 0x11000 then s.writeCtxWord ((off - 0x10000) / 64) (off % 64) v
    else if 0x20000 ≤ off ∧ off < 0x20400 then s.writeMsix ((off - 0x20000) / 8) v
    else if 0x40000 ≤ off ∧ off < 0x80000 then s.writeDesc ((off - 0x40000) / 64) (off % 64) v.toNat
    else if off = powerLimitAt then s.setPowerLimit v.toNat
    else s)

-- ## What the host reads (R83, R85, R90, R92, Tables 4.1 and 4.2)

/-- A word of the device-register area; what is not listed reads zero (Table 4.2). -/
def State.deviceWord (s : State) (off : Nat) : Nat :=
  match off with
  | 0x0000 => s.geom
  | 0x0008 => s.sweepPeriod.toNat
  | 0x0010 => s.tlbinvWord 0
  | 0x0018 => s.domid
  | 0x0020 => s.leaseCap.toNat
  | 0x0028 => s.margin.toNat
  | 0x0100 => s.prqBase.toNat * 2 ^ 12
  | 0x0108 => s.prqLog2.toNat
  | 0x0110 => s.prqHead.toNat
  | 0x0118 => s.prqTail.toNat
  | _ => 0

/-- A word of a context entry (Tables 4.4 and 6.3). -/
def Ctx.entryWord (x : Ctx) (off : Nat) : Nat :=
  match off with
  | 0x00 => x.v.toNat + x.gen.toNat * 2 ^ 8 + x.pmax.toNat * 2 ^ 16 + x.pvic.toNat * 2 ^ 18 + x.vec.toNat * 2 ^ 24
  | 0x08 => x.root.toNat * 2 ^ 16
  | 0x10 => x.frbase.toNat
  | 0x18 => x.frLog2.toNat + x.frTail.toNat * 2 ^ 32 + x.frLost.toNat * 2 ^ 48
  | _ => 0

/-- A word of a queue descriptor (Table 12.2). -/
def Queue.descWord (x : Queue) (off : Nat) : Nat :=
  match off with
  | 0x00 => x.v.toNat + x.err.toNat * 2 + x.ctx * 2 ^ 8 + x.pdie * 2 ^ 16 + x.cdie * 2 ^ 20 + x.ccore * 2 ^ 24
      + x.sbase * 2 ^ 32 + x.nslot * 2 ^ 41 + x.allow * 2 ^ 50
  | 0x08 => x.ring.toNat
  | 0x10 => x.quota
  | 0x18 => x.alrec.toNat
  | 0x20 => x.wmark + x.arm.toNat * 2 ^ 16
  | 0x28 => x.spilled + x.binds % 2 ^ 8 * 2 ^ 16
  | _ => 0

/-- What a host read of a 64-bit word of BAR0 returns (Table 4.1). -/
def State.bar0Word (s : State) (off : Nat) : Nat :=
  if off < 0x10000 then s.deviceWord off
  else if off < 0x11000 then (s.ctx ((off - 0x10000) / 64)).entryWord (off % 64)
  else if 0x20000 ≤ off ∧ off < 0x20400 then (s.msixTable.get 0 ((off - 0x20000) / 8)).toNat
  else if off = 0x30000 then s.pba.toNat
  else if 0x40000 ≤ off ∧ off < 0x80000 then (s.queue ((off - 0x40000) / 64)).descWord (off % 64)
  else 0

/-- What a host read of a 64-bit word of BAR2 returns (Tables 4.1 and 4.5). -/
def State.bar2Word (s : State) (off : Nat) : Nat :=
  if off % 4096 < 256 then (s.ctx (off / 4096)).pageWord (off % 4096) else 0

/-- The READY register of the Falmon DVSEC (R83). -/
def State.readyWord (s : State) : Nat := s.ready.toNat

/-- A byte of the host window as the host's CXL.mem accesses see it: a register area reads zero (R85). -/
def State.windowByte (s : State) (off : Nat) : Byte :=
  if isRegArea (0x080000000000 + off) then 0 else s.byte (0x080000000000 + off)

/-- A CXL.mem read of bytes of one line of the window; the host may cache the line from then on (R85, R86). -/
def State.cxlRead (s : State) (off n : Nat) : List Byte × State :=
  let line := (0x080000000000 + off) / 128
  ((List.range n).map (fun k => s.windowByte (off + k)),
    if isRegArea (0x080000000000 + off) then s else { s with hostCached := line :: s.hostCached.filter (· != line) })

-- ## The host window (R85, R86)

/-- One piece of a host write, within one line: applied where it stands in arrival order, its GWCT taken, its completion due;
a register area ignores it (R85, R86). -/
def State.hostPiece (s : State) (off : Nat) (bs : List Byte) : State :=
  let pa := 0x080000000000 + off
  let line := pa / 128
  let whole := bs.length == 128
  let done (s : State) (ids : List Nat) (g : Nat) : State := (s.addWait { goal := .hostWrite line, need := g, die := 24, reqs := ids }).2
  if isRegArea pa then done s [] s.now
  else if (s.lineWaits 32 line).isEmpty then
    let g := s.gwctOf line
    let s := (s.seeGwct 24 g).applyPart pa bs whole
    done { s with hostCached := line :: s.hostCached.filter (· != line) } [] g
  else
    let (id, s) := s.queueHome { agent := .host, kind := .write, pa := pa, size := bs.length, data := bs } .writeHome
    done s [id] 0

/-- Pieces of a run of bytes of the window. -/
def hostPieces : Nat → Nat → List Byte → List (Nat × List Byte)
  | 0, _, _ => []
  | fuel + 1, off, bs =>
    if bs.isEmpty then []
    else
      let n := min bs.length (128 - off % 128)
      (off, bs.take n) :: hostPieces fuel (off + n) (bs.drop n)

/-- HOST_WINDOW_WRITE (R86). -/
def execHostWindowWrite (off : Nat) (bytes : List Byte) (s : State) : Host.Outcome State Fault Refusal :=
  if 262144 < off + bytes.length then .next s
  else .next ((hostPieces (bytes.length + 1) off bytes).foldl (fun s p => s.hostPiece p.1 p.2) s)

end Sys2Proof.Machine
end

