-- ==== Sys2Proof/Machine/Integer.lean ====
section
/-! DEFINITION. Integer, logic, address and predicate instructions (R334-R345). -/

namespace Sys2Proof.Machine

-- ## What they compute in one lane

/-- `imin` and `imax` (R337). -/
def pickInt (sg : Bool) (lt : Int → Int → Bool) (a b : Word) : Word :=
  if lt (readInt sg a) (readInt sg b) then a else b

/-- `shl` (R338). -/
def shlW (a : Word) (n : Nat) : Word := if 32 ≤ n then 0 else a <<< n
/-- `shr` (R338). -/
def shrW (a : Word) (n : Nat) : Word := if 32 ≤ n then 0 else a >>> n
/-- `sar` (R338). -/
def sarW (a : Word) (n : Nat) : Word := a.sshiftRight (min n 31)
/-- `rotl` (R338). -/
def rotlW (a : Word) (n : Nat) : Word := a.rotateLeft (n % 32)

/-- `popc` (R339). -/
def popcW (a : Word) : Nat := ((List.range 32).filter (fun k => a.getLsbD k)).length
/-- `clz` (R339). -/
def clzW (a : Word) : Nat := ((List.range 32).takeWhile (fun k => !a.getLsbD (31 - k))).length
/-- `ctz` (R339). -/
def ctzW (a : Word) : Nat := ((List.range 32).takeWhile (fun k => !a.getLsbD k)).length
/-- `brev` (R339). -/
def brevW (a : Word) : Word := a.reverse

/-- Position and length of a bit field (R340). -/
def fieldOf (b : Word) : Nat × Nat :=
  let p := min (b.extractLsb' 0 8).toNat 32
  (p, min (b.extractLsb' 8 8).toNat (32 - p))

/-- `bfe` (R340). -/
def bfeW (sg : Bool) (a b : Word) : Word :=
  let (p, l) := fieldOf b
  let f := a.toNat / 2 ^ p % 2 ^ l
  if l = 0 then 0
  else if sg ∧ 2 ^ (l - 1) ≤ f then BitVec.ofInt 32 (Int.ofNat f - 2 ^ l)
  else BitVec.ofNat 32 f

/-- `bfi` (R340). -/
def bfiW (a b c : Word) : Word :=
  let (p, l) := fieldOf b
  let m := BitVec.ofNat 32 ((2 ^ l - 1) * 2 ^ p)
  (c &&& ~~~m) ||| BitVec.ofNat 32 (a.toNat % 2 ^ l * 2 ^ p)

/-- One byte of `bytex` (R341). -/
def bytexByte (a b : Word) (c : BitVec 8) : BitVec 8 :=
  let j := (c.extractLsb' 0 3).toNat
  let x := if j < 4 then a.extractLsb' (8 * j) 8 else b.extractLsb' (8 * (j - 4)) 8
  match (c.extractLsb' 3 2).toNat with
  | 0 => x
  | 1 => 0
  | 2 => if x.getLsbD 7 then 0xFF else 0
  | _ => 0xFF

/-- `bytex` (R341). -/
def bytexW (a b c : Word) : Word :=
  bytexByte a b (c.extractLsb' 24 8) ++ bytexByte a b (c.extractLsb' 16 8)
    ++ bytexByte a b (c.extractLsb' 8 8) ++ bytexByte a b (c.extractLsb' 0 8)

/-- High word of the 64-bit product (R336). -/
def mulhW (sg : Bool) (a b : Word) : Word := BitVec.ofInt 32 ((readInt sg a * readInt sg b) / 2 ^ 32)

/-- `iadd` (R335). -/
def addOut (sg sat : Bool) (d : VReg) (a b : Word) : LaneOut :=
  if !sat then out1 d (a + b)
  else if sg then satOut d (a.toInt + b.toInt) (-2 ^ 31) (2 ^ 31 - 1)
  else satOut d (Int.ofNat a.toNat + Int.ofNat b.toNat) 0 (2 ^ 32 - 1)

/-- `isub` (R335). -/
def subOut (sg sat : Bool) (d : VReg) (a b : Word) : LaneOut :=
  if !sat then out1 d (a - b)
  else if sg then satOut d (a.toInt - b.toInt) (-2 ^ 31) (2 ^ 31 - 1)
  else satOut d (Int.ofNat a.toNat - Int.ofNat b.toNat) 0 (2 ^ 32 - 1)

/-- `iabs` (R337). -/
def absOut (sat : Bool) (d : VReg) (a : Word) : LaneOut :=
  if 0 ≤ a.toInt then out1 d a
  else if a = 0x80000000 then { v := [(d.toNat, if sat then 0x7FFFFFFF else a)], fl := flagIf sat fIS }
  else out1 d (-a)

-- ## Format A

/-- IADD (R335). -/
def execIadd (h : Head) (sgn sat : Bool) (vd va vb : VReg) (s : State) : Host.Outcome State Fault Refusal :=
  laneWord (.iadd h sgn sat vd va vb) h s (fun t => addOut sgn sat vd (t.rv va) (t.rv vb))

/-- ISUB (R335). -/
def execIsub (h : Head) (sgn sat : Bool) (vd va vb : VReg) (s : State) : Host.Outcome State Fault Refusal :=
  laneWord (.isub h sgn sat vd va vb) h s (fun t => subOut sgn sat vd (t.rv va) (t.rv vb))

/-- IADDX: the sum with carry in, and the carry out (R335). -/
def execIaddx (h : Head) (ci : Bool) (pci pco : PReg) (vd va vb : VReg) (s : State) :
    Host.Outcome State Fault Refusal :=
  laneWord (.iaddx h ci pci pco vd va vb) h s (fun t =>
    let n := (t.rv va).toNat + (t.rv vb).toNat + (ci && t.pred pci.toNat).toNat
    { v := [(vd.toNat, BitVec.ofNat 32 n)], p := [(pco.toNat, decide (2 ^ 32 ≤ n))] })

/-- IMUL (R336). -/
def execImul (h : Head) (vd va vb : VReg) (s : State) : Host.Outcome State Fault Refusal :=
  laneWord (.imul h vd va vb) h s (fun t => out1 vd (t.rv va * t.rv vb))

/-- IMULH (R336). -/
def execImulh (h : Head) (sgn : Bool) (vd va vb : VReg) (s : State) : Host.Outcome State Fault Refusal :=
  laneWord (.imulh h sgn vd va vb) h s (fun t => out1 vd (mulhW sgn (t.rv va) (t.rv vb)))

/-- IMAD (R336). -/
def execImad (h : Head) (vd va vb vc : VReg) (s : State) : Host.Outcome State Fault Refusal :=
  laneWord (.imad h vd va vb vc) h s (fun t => out1 vd (t.rv va * t.rv vb + t.rv vc))

/-- IMADW (R336). -/
def execImadw (h : Head) (sgn : Bool) (vd va vb vc : VReg) (s : State) : Host.Outcome State Fault Refusal :=
  laneWord (.imadw h sgn vd va vb vc) h s (fun t =>
    out2 vd (BitVec.ofInt 64 (readInt sgn (t.rv va) * readInt sgn (t.rv vb)) + t.pair vc))

/-- IMIN (R337). -/
def execImin (h : Head) (sgn : Bool) (vd va vb : VReg) (s : State) : Host.Outcome State Fault Refusal :=
  laneWord (.imin h sgn vd va vb) h s (fun t => out1 vd (pickInt sgn (fun x y => decide (x < y)) (t.rv va) (t.rv vb)))

/-- IMAX (R337). -/
def execImax (h : Head) (sgn : Bool) (vd va vb : VReg) (s : State) : Host.Outcome State Fault Refusal :=
  laneWord (.imax h sgn vd va vb) h s (fun t => out1 vd (pickInt sgn (fun x y => decide (y < x)) (t.rv va) (t.rv vb)))

/-- IABS (R337). -/
def execIabs (h : Head) (sat : Bool) (vd va : VReg) (s : State) : Host.Outcome State Fault Refusal :=
  laneWord (.iabs h sat vd va) h s (fun t => absOut sat vd (t.rv va))

/-- AND (R338). -/
def execAnd (h : Head) (vd va vb : VReg) (s : State) : Host.Outcome State Fault Refusal :=
  laneWord (.and h vd va vb) h s (fun t => out1 vd (t.rv va &&& t.rv vb))

/-- OR (R338). -/
def execOr (h : Head) (vd va vb : VReg) (s : State) : Host.Outcome State Fault Refusal :=
  laneWord (.or h vd va vb) h s (fun t => out1 vd (t.rv va ||| t.rv vb))

/-- XOR (R338). -/
def execXor (h : Head) (vd va vb : VReg) (s : State) : Host.Outcome State Fault Refusal :=
  laneWord (.xor h vd va vb) h s (fun t => out1 vd (t.rv va ^^^ t.rv vb))

/-- ANDN (R338). -/
def execAndn (h : Head) (vd va vb : VReg) (s : State) : Host.Outcome State Fault Refusal :=
  laneWord (.andn h vd va vb) h s (fun t => out1 vd (t.rv va &&& ~~~(t.rv vb)))

/-- ORN (R338). -/
def execOrn (h : Head) (vd va vb : VReg) (s : State) : Host.Outcome State Fault Refusal :=
  laneWord (.orn h vd va vb) h s (fun t => out1 vd (t.rv va ||| ~~~(t.rv vb)))

/-- NOT (R338). -/
def execNot (h : Head) (vd va : VReg) (s : State) : Host.Outcome State Fault Refusal :=
  laneWord (.not h vd va) h s (fun t => out1 vd (~~~(t.rv va)))

/-- SHL (R338). -/
def execShl (h : Head) (vd va vb : VReg) (s : State) : Host.Outcome State Fault Refusal :=
  laneWord (.shl h vd va vb) h s (fun t => out1 vd (shlW (t.rv va) (t.rv vb).toNat))

/-- SHR (R338). -/
def execShr (h : Head) (vd va vb : VReg) (s : State) : Host.Outcome State Fault Refusal :=
  laneWord (.shr h vd va vb) h s (fun t => out1 vd (shrW (t.rv va) (t.rv vb).toNat))

/-- SAR (R338). -/
def execSar (h : Head) (vd va vb : VReg) (s : State) : Host.Outcome State Fault Refusal :=
  laneWord (.sar h vd va vb) h s (fun t => out1 vd (sarW (t.rv va) (t.rv vb).toNat))

/-- ROTL (R338). -/
def execRotl (h : Head) (vd va vb : VReg) (s : State) : Host.Outcome State Fault Refusal :=
  laneWord (.rotl h vd va vb) h s (fun t => out1 vd (rotlW (t.rv va) (t.rv vb).toNat))

/-- POPC (R339). -/
def execPopc (h : Head) (vd va : VReg) (s : State) : Host.Outcome State Fault Refusal :=
  laneWord (.popc h vd va) h s (fun t => out1 vd (BitVec.ofNat 32 (popcW (t.rv va))))

/-- CLZ (R339). -/
def execClz (h : Head) (vd va : VReg) (s : State) : Host.Outcome State Fault Refusal :=
  laneWord (.clz h vd va) h s (fun t => out1 vd (BitVec.ofNat 32 (clzW (t.rv va))))

/-- CTZ (R339). -/
def execCtz (h : Head) (vd va : VReg) (s : State) : Host.Outcome State Fault Refusal :=
  laneWord (.ctz h vd va) h s (fun t => out1 vd (BitVec.ofNat 32 (ctzW (t.rv va))))

/-- BREV (R339). -/
def execBrev (h : Head) (vd va : VReg) (s : State) : Host.Outcome State Fault Refusal :=
  laneWord (.brev h vd va) h s (fun t => out1 vd (brevW (t.rv va)))

/-- BFE (R340). -/
def execBfe (h : Head) (sgn : Bool) (vd va vb : VReg) (s : State) : Host.Outcome State Fault Refusal :=
  laneWord (.bfe h sgn vd va vb) h s (fun t => out1 vd (bfeW sgn (t.rv va) (t.rv vb)))

/-- BFI (R340). -/
def execBfi (h : Head) (vd va vb vc : VReg) (s : State) : Host.Outcome State Fault Refusal :=
  laneWord (.bfi h vd va vb vc) h s (fun t => out1 vd (bfiW (t.rv va) (t.rv vb) (t.rv vc)))

/-- BYTEX (R341). -/
def execBytex (h : Head) (vd va vb vc : VReg) (s : State) : Host.Outcome State Fault Refusal :=
  laneWord (.bytex h vd va vb vc) h s (fun t => out1 vd (bytexW (t.rv va) (t.rv vb) (t.rv vc)))

/-- SEL (R342). -/
def execSel (h : Head) (ng : Bool) (vd : VReg) (pn : PReg) (va vb : VReg) (s : State) :
    Host.Outcome State Fault Refusal :=
  laneWord (.sel h ng vd pn va vb) h s (fun t => out1 vd (if t.pred pn.toNat != ng then t.rv va else t.rv vb))

/-- MOV (R342). -/
def execMov (h : Head) (w : Bool) (vd va : VReg) (s : State) : Host.Outcome State Fault Refusal :=
  laneWord (.mov h w vd va) h s (fun t => if w then out2 vd (t.pair va) else out1 vd (t.rv va))

/-- LEA (R342). -/
def execLea (h : Head) (w sgn : Bool) (sh : BitVec 3) (vd va vb : VReg) (s : State) :
    Host.Outcome State Fault Refusal :=
  laneWord (.lea h w sgn sh vd va vb) h s (fun t =>
    if w then out2 vd (t.pair va + (BitVec.ofInt 64 (readInt sgn (t.rv vb)) <<< sh.toNat))
    else out1 vd (t.rv va + (t.rv vb <<< sh.toNat)))

-- ## Format I (R343)

/-- IADD_IMM (R343). -/
def execIaddImm (h : Head) (vd va : VReg) (imm : Word) (s : State) : Host.Outcome State Fault Refusal :=
  laneWord (.iaddImm h vd va imm) h s (fun t => out1 vd (t.rv va + imm))

/-- ISUB_IMM (R343). -/
def execIsubImm (h : Head) (vd va : VReg) (imm : Word) (s : State) : Host.Outcome State Fault Refusal :=
  laneWord (.isubImm h vd va imm) h s (fun t => out1 vd (t.rv va - imm))

/-- IMUL_IMM (R343). -/
def execImulImm (h : Head) (vd va : VReg) (imm : Word) (s : State) : Host.Outcome State Fault Refusal :=
  laneWord (.imulImm h vd va imm) h s (fun t => out1 vd (t.rv va * imm))

/-- IMIN_IMM_S32 (R343). -/
def execIminImmS (h : Head) (vd va : VReg) (imm : Word) (s : State) : Host.Outcome State Fault Refusal :=
  laneWord (.iminImmS h vd va imm) h s (fun t => out1 vd (pickInt true (fun x y => decide (x < y)) (t.rv va) imm))

/-- IMIN_IMM_U32 (R343). -/
def execIminImmU (h : Head) (vd va : VReg) (imm : Word) (s : State) : Host.Outcome State Fault Refusal :=
  laneWord (.iminImmU h vd va imm) h s (fun t => out1 vd (pickInt false (fun x y => decide (x < y)) (t.rv va) imm))

/-- IMAX_IMM_S32 (R343). -/
def execImaxImmS (h : Head) (vd va : VReg) (imm : Word) (s : State) : Host.Outcome State Fault Refusal :=
  laneWord (.imaxImmS h vd va imm) h s (fun t => out1 vd (pickInt true (fun x y => decide (y < x)) (t.rv va) imm))

/-- IMAX_IMM_U32 (R343). -/
def execImaxImmU (h : Head) (vd va : VReg) (imm : Word) (s : State) : Host.Outcome State Fault Refusal :=
  laneWord (.imaxImmU h vd va imm) h s (fun t => out1 vd (pickInt false (fun x y => decide (y < x)) (t.rv va) imm))

/-- AND_IMM (R343). -/
def execAndImm (h : Head) (vd va : VReg) (imm : Word) (s : State) : Host.Outcome State Fault Refusal :=
  laneWord (.andImm h vd va imm) h s (fun t => out1 vd (t.rv va &&& imm))

/-- OR_IMM (R343). -/
def execOrImm (h : Head) (vd va : VReg) (imm : Word) (s : State) : Host.Outcome State Fault Refusal :=
  laneWord (.orImm h vd va imm) h s (fun t => out1 vd (t.rv va ||| imm))

/-- XOR_IMM (R343). -/
def execXorImm (h : Head) (vd va : VReg) (imm : Word) (s : State) : Host.Outcome State Fault Refusal :=
  laneWord (.xorImm h vd va imm) h s (fun t => out1 vd (t.rv va ^^^ imm))

/-- ANDN_IMM (R343). -/
def execAndnImm (h : Head) (vd va : VReg) (imm : Word) (s : State) : Host.Outcome State Fault Refusal :=
  laneWord (.andnImm h vd va imm) h s (fun t => out1 vd (t.rv va &&& ~~~imm))

/-- ORN_IMM (R343). -/
def execOrnImm (h : Head) (vd va : VReg) (imm : Word) (s : State) : Host.Outcome State Fault Refusal :=
  laneWord (.ornImm h vd va imm) h s (fun t => out1 vd (t.rv va ||| ~~~imm))

/-- SHL_IMM (R343). -/
def execShlImm (h : Head) (vd va : VReg) (imm : Word) (s : State) : Host.Outcome State Fault Refusal :=
  laneWord (.shlImm h vd va imm) h s (fun t => out1 vd (shlW (t.rv va) imm.toNat))

/-- SHR_IMM (R343). -/
def execShrImm (h : Head) (vd va : VReg) (imm : Word) (s : State) : Host.Outcome State Fault Refusal :=
  laneWord (.shrImm h vd va imm) h s (fun t => out1 vd (shrW (t.rv va) imm.toNat))

/-- SAR_IMM (R343). -/
def execSarImm (h : Head) (vd va : VReg) (imm : Word) (s : State) : Host.Outcome State Fault Refusal :=
  laneWord (.sarImm h vd va imm) h s (fun t => out1 vd (sarW (t.rv va) imm.toNat))

/-- ROTL_IMM (R343). -/
def execRotlImm (h : Head) (vd va : VReg) (imm : Word) (s : State) : Host.Outcome State Fault Refusal :=
  laneWord (.rotlImm h vd va imm) h s (fun t => out1 vd (rotlW (t.rv va) imm.toNat))

/-- MOVI (R343). -/
def execMovi (h : Head) (vd : VReg) (imm : Word) (s : State) : Host.Outcome State Fault Refusal :=
  laneWord (.movi h vd imm) h s (fun _ => out1 vd imm)

/-- MOVI_B64 (R343). -/
def execMoviB64 (h : Head) (vd : VReg) (imm : Word) (s : State) : Host.Outcome State Fault Refusal :=
  laneWord (.moviB64 h vd imm) h s (fun _ => out2 vd (imm.signExtend 64))

/-- LEA_IMM (R343). -/
def execLeaImm (h : Head) (vd va : VReg) (imm : Word) (s : State) : Host.Outcome State Fault Refusal :=
  laneWord (.leaImm h vd va imm) h s (fun t => out1 vd (t.rv va + imm))

/-- LEA_W_IMM (R343). -/
def execLeaWImm (h : Head) (vd va : VReg) (imm : Word) (s : State) : Host.Outcome State Fault Refusal :=
  laneWord (.leaWImm h vd va imm) h s (fun t => out2 vd (t.pair va + imm.signExtend 64))

-- ## Compares and predicates

/-- ISETP (R344). -/
def execIsetp (h : Head) (cond : BitVec 3) (sgn w : Bool) (cmb : BitVec 2) (pd pc : PReg) (va vb : VReg)
    (s : State) : Host.Outcome State Fault Refusal :=
  laneWord (.isetp h cond sgn w cmb pd pc va vb) h s (fun t =>
    let c := if w then condInt cond.toNat (readInt sgn (t.pair va)) (readInt sgn (t.pair vb))
             else condInt cond.toNat (readInt sgn (t.rv va)) (readInt sgn (t.rv vb))
    outP pd (combine cmb (t.pred pc.toNat) c))

/-- ISETP_IMM (R344). -/
def execIsetpImm (h : Head) (cond : BitVec 3) (pd : PReg) (va : VReg) (imm : Word) (s : State) :
    Host.Outcome State Fault Refusal :=
  laneWord (.isetpImm h cond pd va imm) h s (fun t => outP pd (condImm cond.toNat (t.rv va) imm))

/-- PLOP (R345). -/
def execPlop (h : Head) (table : BitVec 8) (pd pa pb pc : PReg) (s : State) : Host.Outcome State Fault Refusal :=
  laneWord (.plop h table pd pa pb pc) h s (fun t =>
    outP pd (tableBit table (t.pred pa.toNat) (t.pred pb.toNat) (t.pred pc.toNat)))

/-- P2V (R345): bit 7 reads 1. -/
def execP2v (h : Head) (vd : VReg) (s : State) : Host.Outcome State Fault Refusal :=
  laneWord (.p2v h vd) h s (fun t => out1 vd (0#24 ++ (1#1 ++ t.p)))

/-- V2P (R345). -/
def execV2p (h : Head) (mask : BitVec 7) (va : VReg) (s : State) : Host.Outcome State Fault Refusal :=
  laneWord (.v2p h mask va) h s (fun t =>
    { p := ((List.range 7).filter (fun k => mask.getLsbD k)).map (fun k => (k, (t.rv va).getLsbD k)) })

end Sys2Proof.Machine
end

