-- ==== Sys2Proof/Machine/Scalar.lean ====
section
/-! DEFINITION. Scalar instructions (R346-R349). -/

namespace Sys2Proof.Machine

/-- `sshl` (R347). -/
def shlD (x n : Dword) : Dword := if 64 ≤ n.toNat then 0 else x <<< n.toNat
/-- `sshr` (R347). -/
def shrD (x n : Dword) : Dword := if 64 ≤ n.toNat then 0 else x >>> n.toNat
/-- `sshr.s` (R347). -/
def sarD (x n : Dword) : Dword := x.sshiftRight (min n.toNat 63)

/-- SADD (R347). -/
def execSadd (h : Head) (sd sa : SReg) (op2 : ScalOp) (s : State) : Host.Outcome State Fault Refusal :=
  scalarWord (.sadd h sd sa op2) h s sd (fun x => x.sh.s sa.toNat + x.op2 op2)

/-- SSUB (R347). -/
def execSsub (h : Head) (sd sa : SReg) (op2 : ScalOp) (s : State) : Host.Outcome State Fault Refusal :=
  scalarWord (.ssub h sd sa op2) h s sd (fun x => x.sh.s sa.toNat - x.op2 op2)

/-- SMUL (R347). -/
def execSmul (h : Head) (sd sa : SReg) (op2 : ScalOp) (s : State) : Host.Outcome State Fault Refusal :=
  scalarWord (.smul h sd sa op2) h s sd (fun x => x.sh.s sa.toNat * x.op2 op2)

/-- SSHL (R347). -/
def execSshl (h : Head) (sd sa : SReg) (op2 : ScalOp) (s : State) : Host.Outcome State Fault Refusal :=
  scalarWord (.sshl h sd sa op2) h s sd (fun x => shlD (x.sh.s sa.toNat) (x.op2 op2))

/-- SSHR (R347). -/
def execSshr (h : Head) (sd sa : SReg) (op2 : ScalOp) (s : State) : Host.Outcome State Fault Refusal :=
  scalarWord (.sshr h sd sa op2) h s sd (fun x => shrD (x.sh.s sa.toNat) (x.op2 op2))

/-- SSHR_S (R347). -/
def execSshrS (h : Head) (sd sa : SReg) (op2 : ScalOp) (s : State) : Host.Outcome State Fault Refusal :=
  scalarWord (.sshrS h sd sa op2) h s sd (fun x => sarD (x.sh.s sa.toNat) (x.op2 op2))

/-- SAND (R347). -/
def execSand (h : Head) (sd sa : SReg) (op2 : ScalOp) (s : State) : Host.Outcome State Fault Refusal :=
  scalarWord (.sand h sd sa op2) h s sd (fun x => x.sh.s sa.toNat &&& x.op2 op2)

/-- SOR (R347). -/
def execSor (h : Head) (sd sa : SReg) (op2 : ScalOp) (s : State) : Host.Outcome State Fault Refusal :=
  scalarWord (.sor h sd sa op2) h s sd (fun x => x.sh.s sa.toNat ||| x.op2 op2)

/-- SXOR (R347). -/
def execSxor (h : Head) (sd sa : SReg) (op2 : ScalOp) (s : State) : Host.Outcome State Fault Refusal :=
  scalarWord (.sxor h sd sa op2) h s sd (fun x => x.sh.s sa.toNat ^^^ x.op2 op2)

/-- SMOV (R347). -/
def execSmov (h : Head) (sd sa : SReg) (s : State) : Host.Outcome State Fault Refusal :=
  scalarWord (.smov h sd sa) h s sd (fun x => x.sh.s sa.toNat)

/-- SMOVI (R347). -/
def execSmovi (h : Head) (sd : SReg) (imm : BitVec 21) (s : State) : Host.Outcome State Fault Refusal :=
  scalarWord (.smovi h sd imm) h s sd (fun _ => imm.signExtend 64)

/-- SLI (R347). -/
def execSli (h : Head) (sd sa : SReg) (imm : BitVec 21) (s : State) : Host.Outcome State Fault Refusal :=
  scalarWord (.sli h sd sa imm) h s sd (fun x => (x.sh.s sa.toNat <<< 21) ||| imm.zeroExtend 64)

/-- SSETP (R348). -/
def execSsetp (h : Head) (cond : BitVec 4) (pd : PReg) (sa : SReg) (op2 : ScalOp) (s : State) :
    Host.Outcome State Fault Refusal :=
  issue (.ssetp h cond pd sa op2) h s (fun x =>
    let c := condScalar cond.toNat (x.sh.s sa.toNat) (x.op2 op2)
    .ok (x.put (x.q.laneWrite x.lanes (fun _ _ => outP pd c))))

/-- S2V (R349). -/
def execS2v (h : Head) (part : BitVec 2) (vd : VReg) (sa : SReg) (s : State) : Host.Outcome State Fault Refusal :=
  issue (.s2v h part vd sa) h s (fun x =>
    let y := x.sh.s sa.toNat
    let o := match part.toNat with
      | 0 => out1 vd (y.extractLsb' 0 32)
      | 1 => out1 vd (y.extractLsb' 32 32)
      | _ => out2 vd y
    .ok (x.put (x.q.laneWrite x.lanes (fun _ _ => o))))

/-- VREAD (R349): lane s[SA][4:0], whatever that lane's guard, path or exit state. -/
def execVread (h : Head) (kind : BitVec 2) (sd : SReg) (va : VReg) (sa : SReg) (s : State) :
    Host.Outcome State Fault Refusal :=
  scalarWord (.vread h kind sd va sa) h s sd (fun x =>
    let t := x.sh.th ((x.sh.s sa.toNat).toNat % 32)
    match kind.toNat with
    | 0 => (t.rv va).zeroExtend 64
    | 1 => (t.rv va).signExtend 64
    | _ => t.pair va)

end Sys2Proof.Machine
end

