-- ==== Sys2Proof/Machine/Dispatch.lean ====
section
/-! DEFINITION. One arm per instruction of the opcode table. -/

namespace Sys2Proof.Machine

def exec (i : Instr) (s : State) : Host.Outcome State Fault Refusal :=
  match i with
  | .iadd h sgn sat vd va vb => Sys2Proof.Machine.execIadd h sgn sat vd va vb s
  | .isub h sgn sat vd va vb => Sys2Proof.Machine.execIsub h sgn sat vd va vb s
  | .iaddx h ci pci pco vd va vb => Sys2Proof.Machine.execIaddx h ci pci pco vd va vb s
  | .imul h vd va vb => Sys2Proof.Machine.execImul h vd va vb s
  | .imulh h sgn vd va vb => Sys2Proof.Machine.execImulh h sgn vd va vb s
  | .imad h vd va vb vc => Sys2Proof.Machine.execImad h vd va vb vc s
  | .imadw h sgn vd va vb vc => Sys2Proof.Machine.execImadw h sgn vd va vb vc s
  | .imin h sgn vd va vb => Sys2Proof.Machine.execImin h sgn vd va vb s
  | .imax h sgn vd va vb => Sys2Proof.Machine.execImax h sgn vd va vb s
  | .iabs h sat vd va => Sys2Proof.Machine.execIabs h sat vd va s
  | .and h vd va vb => Sys2Proof.Machine.execAnd h vd va vb s
  | .or h vd va vb => Sys2Proof.Machine.execOr h vd va vb s
  | .xor h vd va vb => Sys2Proof.Machine.execXor h vd va vb s
  | .andn h vd va vb => Sys2Proof.Machine.execAndn h vd va vb s
  | .orn h vd va vb => Sys2Proof.Machine.execOrn h vd va vb s
  | .not h vd va => Sys2Proof.Machine.execNot h vd va s
  | .shl h vd va vb => Sys2Proof.Machine.execShl h vd va vb s
  | .shr h vd va vb => Sys2Proof.Machine.execShr h vd va vb s
  | .sar h vd va vb => Sys2Proof.Machine.execSar h vd va vb s
  | .rotl h vd va vb => Sys2Proof.Machine.execRotl h vd va vb s
  | .popc h vd va => Sys2Proof.Machine.execPopc h vd va s
  | .clz h vd va => Sys2Proof.Machine.execClz h vd va s
  | .ctz h vd va => Sys2Proof.Machine.execCtz h vd va s
  | .brev h vd va => Sys2Proof.Machine.execBrev h vd va s
  | .bfe h sgn vd va vb => Sys2Proof.Machine.execBfe h sgn vd va vb s
  | .bfi h vd va vb vc => Sys2Proof.Machine.execBfi h vd va vb vc s
  | .bytex h vd va vb vc => Sys2Proof.Machine.execBytex h vd va vb vc s
  | .sel h ng vd pn va vb => Sys2Proof.Machine.execSel h ng vd pn va vb s
  | .mov h w vd va => Sys2Proof.Machine.execMov h w vd va s
  | .lea h w sgn sh vd va vb => Sys2Proof.Machine.execLea h w sgn sh vd va vb s
  | .iaddImm h vd va imm => Sys2Proof.Machine.execIaddImm h vd va imm s
  | .isubImm h vd va imm => Sys2Proof.Machine.execIsubImm h vd va imm s
  | .imulImm h vd va imm => Sys2Proof.Machine.execImulImm h vd va imm s
  | .iminImmS h vd va imm => Sys2Proof.Machine.execIminImmS h vd va imm s
  | .iminImmU h vd va imm => Sys2Proof.Machine.execIminImmU h vd va imm s
  | .imaxImmS h vd va imm => Sys2Proof.Machine.execImaxImmS h vd va imm s
  | .imaxImmU h vd va imm => Sys2Proof.Machine.execImaxImmU h vd va imm s
  | .andImm h vd va imm => Sys2Proof.Machine.execAndImm h vd va imm s
  | .orImm h vd va imm => Sys2Proof.Machine.execOrImm h vd va imm s
  | .xorImm h vd va imm => Sys2Proof.Machine.execXorImm h vd va imm s
  | .andnImm h vd va imm => Sys2Proof.Machine.execAndnImm h vd va imm s
  | .ornImm h vd va imm => Sys2Proof.Machine.execOrnImm h vd va imm s
  | .shlImm h vd va imm => Sys2Proof.Machine.execShlImm h vd va imm s
  | .shrImm h vd va imm => Sys2Proof.Machine.execShrImm h vd va imm s
  | .sarImm h vd va imm => Sys2Proof.Machine.execSarImm h vd va imm s
  | .rotlImm h vd va imm => Sys2Proof.Machine.execRotlImm h vd va imm s
  | .movi h vd imm => Sys2Proof.Machine.execMovi h vd imm s
  | .moviB64 h vd imm => Sys2Proof.Machine.execMoviB64 h vd imm s
  | .leaImm h vd va imm => Sys2Proof.Machine.execLeaImm h vd va imm s
  | .leaWImm h vd va imm => Sys2Proof.Machine.execLeaWImm h vd va imm s
  | .isetp h cond sgn w cmb pd pc va vb => Sys2Proof.Machine.execIsetp h cond sgn w cmb pd pc va vb s
  | .isetpImm h cond pd va imm => Sys2Proof.Machine.execIsetpImm h cond pd va imm s
  | .plop h table pd pa pb pc => Sys2Proof.Machine.execPlop h table pd pa pb pc s
  | .p2v h vd => Sys2Proof.Machine.execP2v h vd s
  | .v2p h mask va => Sys2Proof.Machine.execV2p h mask va s
  | .sadd h sd sa op2 => Sys2Proof.Machine.execSadd h sd sa op2 s
  | .ssub h sd sa op2 => Sys2Proof.Machine.execSsub h sd sa op2 s
  | .smul h sd sa op2 => Sys2Proof.Machine.execSmul h sd sa op2 s
  | .sshl h sd sa op2 => Sys2Proof.Machine.execSshl h sd sa op2 s
  | .sshr h sd sa op2 => Sys2Proof.Machine.execSshr h sd sa op2 s
  | .sshrS h sd sa op2 => Sys2Proof.Machine.execSshrS h sd sa op2 s
  | .sand h sd sa op2 => Sys2Proof.Machine.execSand h sd sa op2 s
  | .sor h sd sa op2 => Sys2Proof.Machine.execSor h sd sa op2 s
  | .sxor h sd sa op2 => Sys2Proof.Machine.execSxor h sd sa op2 s
  | .smov h sd sa => Sys2Proof.Machine.execSmov h sd sa s
  | .smovi h sd imm => Sys2Proof.Machine.execSmovi h sd imm s
  | .sli h sd sa imm => Sys2Proof.Machine.execSli h sd sa imm s
  | .ssetp h cond pd sa op2 => Sys2Proof.Machine.execSsetp h cond pd sa op2 s
  | .s2v h part vd sa => Sys2Proof.Machine.execS2v h part vd sa s
  | .vread h kind sd va sa => Sys2Proof.Machine.execVread h kind sd va sa s
  | .fadd h m vd va vb => Sys2Proof.Machine.execFadd h m vd va vb s
  | .fsub h m vd va vb => Sys2Proof.Machine.execFsub h m vd va vb s
  | .fmul h m vd va vb => Sys2Proof.Machine.execFmul h m vd va vb s
  | .ffma h m vd va vb vc => Sys2Proof.Machine.execFfma h m vd va vb vc s
  | .fmin h m x vd va vb => Sys2Proof.Machine.execFmin h m x vd va vb s
  | .fmax h m x vd va vb => Sys2Proof.Machine.execFmax h m x vd va vb s
  | .fround h m x vd va => Sys2Proof.Machine.execFround h m x vd va s
  | .fclass h ty hi vd va => Sys2Proof.Machine.execFclass h ty hi vd va s
  | .frcp h ftz vd va => Sys2Proof.Machine.execFrcp h ftz vd va s
  | .frsq h ftz vd va => Sys2Proof.Machine.execFrsq h ftz vd va s
  | .fsqrt h rm ftz vd va => Sys2Proof.Machine.execFsqrt h rm ftz vd va s
  | .fex2 h ftz vd va => Sys2Proof.Machine.execFex2 h ftz vd va s
  | .flg2 h ftz vd va => Sys2Proof.Machine.execFlg2 h ftz vd va s
  | .fsin h ftz vd va => Sys2Proof.Machine.execFsin h ftz vd va s
  | .fcos h ftz vd va => Sys2Proof.Machine.execFcos h ftz vd va s
  | .ftanh h ftz vd va => Sys2Proof.Machine.execFtanh h ftz vd va s
  | .padd2 h m x vd va vb => Sys2Proof.Machine.execPadd2 h m x vd va vb s
  | .pmul2 h m x vd va vb => Sys2Proof.Machine.execPmul2 h m x vd va vb s
  | .pfma2 h m x vd va vb vc => Sys2Proof.Machine.execPfma2 h m x vd va vb vc s
  | .pdot2 h m x vd va vb vc => Sys2Proof.Machine.execPdot2 h m x vd va vb vc s
  | .dadd h m vd va vb => Sys2Proof.Machine.execDadd h m vd va vb s
  | .dmul h m vd va vb => Sys2Proof.Machine.execDmul h m vd va vb s
  | .dfma h m vd va vb vc => Sys2Proof.Machine.execDfma h m vd va vb vc s
  | .dmin h m x vd va vb => Sys2Proof.Machine.execDmin h m x vd va vb s
  | .dmax h m x vd va vb => Sys2Proof.Machine.execDmax h m x vd va vb s
  | .drcpa h ftz vd va => Sys2Proof.Machine.execDrcpa h ftz vd va s
  | .cvtf h c vd va => Sys2Proof.Machine.execCvtf h c vd va s
  | .cvti h c vd va => Sys2Proof.Machine.execCvti h c vd va s
  | .cvtif h c vd va => Sys2Proof.Machine.execCvtif h c vd va s
  | .mxpack h dpos hi fslot vd va vb => Sys2Proof.Machine.execMxpack h dpos hi fslot vd va vb s
  | .mxunpack h fmt rm ftz spos hi vd va vb => Sys2Proof.Machine.execMxunpack h fmt rm ftz spos hi vd va vb s
  | .fsetp h cond ftz cmb pd pc va vb => Sys2Proof.Machine.execFsetp h cond ftz cmb pd pc va vb s
  | .dsetp h cond ftz cmb pd pc va vb => Sys2Proof.Machine.execDsetp h cond ftz cmb pd pc va vb s
  | .ld h vt m => Sys2Proof.Machine.execLd h vt m s
  | .st h vt m => Sys2Proof.Machine.execSt h vt m s
  | .ldp h vt m => Sys2Proof.Machine.execLdp h vt m s
  | .atom h vt m => Sys2Proof.Machine.execAtom h vt m s
  | .red h vt m => Sys2Proof.Machine.execRed h vt m s
  | .fenceAcq h scope la => Sys2Proof.Machine.execFenceAcq h scope la s
  | .fenceRel h scope la => Sys2Proof.Machine.execFenceRel h scope la s
  | .fenceAr h scope la => Sys2Proof.Machine.execFenceAr h scope la s
  | .fenceFull h scope la => Sys2Proof.Machine.execFenceFull h scope la s
  | .prefetch h dc vo sb off => Sys2Proof.Machine.execPrefetch h dc vo sb off s
  | .hflush h la => Sys2Proof.Machine.execHflush h la s
  | .cp h db c => Sys2Proof.Machine.execCp h db c s
  | .cp2d h db c => Sys2Proof.Machine.execCp2d h db c s
  | .cpretile h c => Sys2Proof.Machine.execCpretile h c s
  | .cpkey h c => Sys2Proof.Machine.execCpkey h c s
  | .cpfill h db c => Sys2Proof.Machine.execCpfill h db c s
  | .cpbank h db c => Sys2Proof.Machine.execCpbank h db c s
  | .qpush h n va rel scope la => Sys2Proof.Machine.execQpush h n va rel scope la s
  | .qpop h n vd acq scope la => Sys2Proof.Machine.execQpop h n vd acq scope la s
  | .qtryPush h n pd va rel scope la => Sys2Proof.Machine.execQtryPush h n pd va rel scope la s
  | .qtryPop h n pd vd acq scope la => Sys2Proof.Machine.execQtryPop h n pd vd acq scope la s
  | .qstat h n sd la => Sys2Proof.Machine.execQstat h n sd la s
  | .bra h hint off => Sys2Proof.Machine.execBra h hint off s
  | .dbra h hint va off => Sys2Proof.Machine.execDbra h hint va off s
  | .brx h hint va => Sys2Proof.Machine.execBrx h hint va s
  | .call h hint va off => Sys2Proof.Machine.execCall h hint va off s
  | .callR h hint va => Sys2Proof.Machine.execCallR h hint va s
  | .ret h hint va => Sys2Proof.Machine.execRet h hint va s
  | .exit h => Sys2Proof.Machine.execExit h s
  | .nop h => Sys2Proof.Machine.execNop h s
  | .sleep h imm => Sys2Proof.Machine.execSleep h imm s
  | .phase h id imm => Sys2Proof.Machine.execPhase h id imm s
  | .voteAll h ng pd pa => Sys2Proof.Machine.execVoteAll h ng pd pa s
  | .voteAny h ng pd pa => Sys2Proof.Machine.execVoteAny h ng pd pa s
  | .voteUni h ng pd pa => Sys2Proof.Machine.execVoteUni h ng pd pa s
  | .ballot h ng vd pa => Sys2Proof.Machine.execBallot h ng vd pa s
  | .xlaneLane h seg vd va src => Sys2Proof.Machine.execXlaneLane h seg vd va src s
  | .xlaneRot h seg vd va src => Sys2Proof.Machine.execXlaneRot h seg vd va src s
  | .xlaneXor h seg vd va src => Sys2Proof.Machine.execXlaneXor h seg vd va src s
  | .xlaneRev h seg vd va => Sys2Proof.Machine.execXlaneRev h seg vd va s
  | .redq h op rm ftz vd va => Sys2Proof.Machine.execRedq h op rm ftz vd va s
  | .scanq h op rm ftz vd va => Sys2Proof.Machine.execScanq h op rm ftz vd va s
  | .matchSame h w pd va => Sys2Proof.Machine.execMatchSame h w pd va s
  | .matchPeers h w vd va => Sys2Proof.Machine.execMatchPeers h w vd va s
  | .matchLead h w vd va => Sys2Proof.Machine.execMatchLead h w vd va s
  | .join h vd g => Sys2Proof.Machine.execJoin h vd g s
  | .leave h vd g => Sys2Proof.Machine.execLeave h vd g s
  | .gbar h vd g => Sys2Proof.Machine.execGbar h vd g s
  | .pbar h vd id sn => Sys2Proof.Machine.execPbar h vd id sn s
  | .regclaim h n => Sys2Proof.Machine.execRegclaim h n s
  | .regrel h n => Sys2Proof.Machine.execRegrel h n s
  | .sget h sel sc clr vd => Sys2Proof.Machine.execSget h sel sc clr vd s
  | .bmode h bank compute la => Sys2Proof.Machine.execBmode h bank compute la s
  | .bclr h bank what la => Sys2Proof.Machine.execBclr h bank what la s
  | .bwait h bank all la => Sys2Proof.Machine.execBwait h bank all la s
  | .bkey h bank fslot va kv spos blk la => Sys2Proof.Machine.execBkey h bank fslot va kv spos blk la s
  | .bkscale h bank va kv hi l0 b0 la => Sys2Proof.Machine.execBkscale h bank va kv hi l0 b0 la s
  | .bmvm h bank fslot kv g0 ng1 b0 nb1 la => Sys2Proof.Machine.execBmvm h bank fslot kv g0 ng1 b0 nb1 la s
  | .bexec h bank cx vd va vb la => Sys2Proof.Machine.execBexec h bank cx vd va vb la s
  | .bcw h bank sa sb la => Sys2Proof.Machine.execBcw h bank sa sb la s
  | .bct h bank sa sb la => Sys2Proof.Machine.execBct h bank sa sb la s
  | .btw h bank sa sb la => Sys2Proof.Machine.execBtw h bank sa sb la s
  | .btt h bank sa sb la => Sys2Proof.Machine.execBtt h bank sa sb la s
  | .bcnt h bank vd sa sb la => Sys2Proof.Machine.execBcnt h bank vd sa sb la s
  | .bfirst h bank vd sa sb la => Sys2Proof.Machine.execBfirst h bank vd sa sb la s
  | .bacc h bank fslot vd w clr la => Sys2Proof.Machine.execBacc h bank fslot vd w clr la s
  | .bcodex h cx sa sb la => Sys2Proof.Machine.execBcodex h cx sa sb la s
  | .sysrd h sd num => Sys2Proof.Machine.execSysrd h sd num s
  | .syswr h num sa => Sys2Proof.Machine.execSyswr h num sa s
  | .trap h imm => Sys2Proof.Machine.execTrap h imm s
  | .eret h => Sys2Proof.Machine.execEret h s
  | .eretNext h => Sys2Proof.Machine.execEretNext h s
  | .brk h imm => Sys2Proof.Machine.execBrk h imm s
  | .bunbind h => Sys2Proof.Machine.execBunbind h s
  | .bindnow h off => Sys2Proof.Machine.execBindnow h off s
  | .recoveryImage service img => Sys2Proof.Machine.execRecoveryImage service img s
  | .thermalThrottle die mhz => Sys2Proof.Machine.execThermalThrottle die mhz s
  | .islandFreqChange island mhz => Sys2Proof.Machine.execIslandFreqChange island mhz s
  | .trustAlarm kind => Sys2Proof.Machine.execTrustAlarm kind s
  | .serviceReverify img => Sys2Proof.Machine.execServiceReverify img s
  | .versionAdvance service sig => Sys2Proof.Machine.execVersionAdvance service sig s
  | .getCertificate off len => Sys2Proof.Machine.execGetCertificate off len s
  | .challenge nonce => Sys2Proof.Machine.execChallenge nonce s
  | .getMeasurements idx => Sys2Proof.Machine.execGetMeasurements idx s
  | .spdmUnsupported code => Sys2Proof.Machine.execSpdmUnsupported code s
  | .softError loc correctable => Sys2Proof.Machine.execSoftError loc correctable s
  | .expanderFailure port => Sys2Proof.Machine.execExpanderFailure port s
  | .ack link e => Sys2Proof.Machine.execAck link e s
  | .nak link e => Sys2Proof.Machine.execNak link e s
  | .allow link sid n => Sys2Proof.Machine.execAllow link sid n s
  | .retrainComplete link lowOk highOk => Sys2Proof.Machine.execRetrainComplete link lowOk highOk s
  | .remoteRequest r => Sys2Proof.Machine.execRemoteRequest r s
  | .errArrive req status => Sys2Proof.Machine.execErrArrive req status s
  | .hostWindowWrite off bytes => Sys2Proof.Machine.execHostWindowWrite off bytes s
  | .sweepWrite v => Sys2Proof.Machine.execSweepWrite v s
  | .tlbinvPage writer page ctx => Sys2Proof.Machine.execTlbinvPage writer page ctx s
  | .tlbinvAll writer ctx => Sys2Proof.Machine.execTlbinvAll writer ctx s
  | .leasecfgWrite v => Sys2Proof.Machine.execLeasecfgWrite v s
  | .registerWrite off v => Sys2Proof.Machine.execRegisterWrite off v s
  | .migrationStart eng ctx va leaf => Sys2Proof.Machine.execMigrationStart eng ctx va leaf s
  | .mdieRetire m chans => Sys2Proof.Machine.execMdieRetire m chans s
  | .wayresWrite die n ctx v => Sys2Proof.Machine.execWayresWrite die n ctx v s
  | .racvaWrite core v => Sys2Proof.Machine.execRacvaWrite core v s
  | .bindctlWrite core v => Sys2Proof.Machine.execBindctlWrite core v s
  | .contextCreate ctx v => Sys2Proof.Machine.execContextCreate ctx v s
  | .contextKill ctx v => Sys2Proof.Machine.execContextKill ctx v s
  | .contextConfig ctx v => Sys2Proof.Machine.execContextConfig ctx v s
  | .notifyStore ctx recptr argptr => Sys2Proof.Machine.execNotifyStore ctx recptr argptr s
  | .hnotify ctx v => Sys2Proof.Machine.execHnotify ctx v s
  | .query ctx v => Sys2Proof.Machine.execQuery ctx v s
  | .presp ctx v => Sys2Proof.Machine.execPresp ctx v s
  | .preemptRequest src => Sys2Proof.Machine.execPreemptRequest src s
  | .queueEnable q v => Sys2Proof.Machine.execQueueEnable q v s
  | .queueDisable q v => Sys2Proof.Machine.execQueueDisable q v s
  | .packageReset => Sys2Proof.Machine.execPackageReset s
  | .hotReset => Sys2Proof.Machine.execHotReset s
  | .functionLevelReset => Sys2Proof.Machine.execFunctionLevelReset s
  | .thermalTrip => Sys2Proof.Machine.execThermalTrip s
  | .islandPauseEnd => Sys2Proof.Machine.execIslandPauseEnd s
  | .timeCompare => Sys2Proof.Machine.execTimeCompare s
  | .getVersion => Sys2Proof.Machine.execGetVersion s
  | .getCapabilities => Sys2Proof.Machine.execGetCapabilities s
  | .negotiateAlgorithms => Sys2Proof.Machine.execNegotiateAlgorithms s
  | .getDigests => Sys2Proof.Machine.execGetDigests s
  | .patrolScrub => Sys2Proof.Machine.execPatrolScrub s
  | .flitSend => Sys2Proof.Machine.execFlitSend s
  | .flitReceive => Sys2Proof.Machine.execFlitReceive s
  | .ackTimer => Sys2Proof.Machine.execAckTimer s
  | .replayTimeout => Sys2Proof.Machine.execReplayTimeout s
  | .retraining => Sys2Proof.Machine.execRetraining s
  | .bridgeReqTimeout => Sys2Proof.Machine.execBridgeReqTimeout s
  | .remoteReqTimeout => Sys2Proof.Machine.execRemoteReqTimeout s
  | .readHome => Sys2Proof.Machine.execReadHome s
  | .writeHome => Sys2Proof.Machine.execWriteHome s
  | .wmaskHome => Sys2Proof.Machine.execWmaskHome s
  | .atomHome => Sys2Proof.Machine.execAtomHome s
  | .redHome => Sys2Proof.Machine.execRedHome s
  | .dataArrive => Sys2Proof.Machine.execDataArrive s
  | .doneArrive => Sys2Proof.Machine.execDoneArrive s
  | .walkComplete => Sys2Proof.Machine.execWalkComplete s
  | .sweep => Sys2Proof.Machine.execSweep s
  | .tlbinvComplete => Sys2Proof.Machine.execTlbinvComplete s
  | .migrationSwitch => Sys2Proof.Machine.execMigrationSwitch s
  | .migrationTimeout => Sys2Proof.Machine.execMigrationTimeout s
  | .notifyWaitRelease => Sys2Proof.Machine.execNotifyWaitRelease s
  | .notifyEffect => Sys2Proof.Machine.execNotifyEffect s
  | .hnotifyEffect => Sys2Proof.Machine.execHnotifyEffect s
  | .recordCheck => Sys2Proof.Machine.execRecordCheck s
  | .residencyCheck => Sys2Proof.Machine.execResidencyCheck s
  | .pageRequestWrite => Sys2Proof.Machine.execPageRequestWrite s
  | .layoutCheck => Sys2Proof.Machine.execLayoutCheck s
  | .launchRetire => Sys2Proof.Machine.execLaunchRetire s
  | .groupPlace => Sys2Proof.Machine.execGroupPlace s
  | .dispatchSteal => Sys2Proof.Machine.execDispatchSteal s
  | .reservation => Sys2Proof.Machine.execReservation s
  | .collect => Sys2Proof.Machine.execCollect s
  | .engineStopAck => Sys2Proof.Machine.execEngineStopAck s
  | .drainComplete => Sys2Proof.Machine.execDrainComplete s
  | .saveComplete => Sys2Proof.Machine.execSaveComplete s
  | .restore => Sys2Proof.Machine.execRestore s
  | .shareClearDone => Sys2Proof.Machine.execShareClearDone s
  | .blockClearDone => Sys2Proof.Machine.execBlockClearDone s
  | .claimGrant => Sys2Proof.Machine.execClaimGrant s
  | .runArbitration => Sys2Proof.Machine.execRunArbitration s
  | .promotion => Sys2Proof.Machine.execPromotion s
  | .lateFault => Sys2Proof.Machine.execLateFault s
  | .launchFatal => Sys2Proof.Machine.execLaunchFatal s
  | .phaseExpiry => Sys2Proof.Machine.execPhaseExpiry s
  | .sleepExpiry => Sys2Proof.Machine.execSleepExpiry s
  | .pbarArrival => Sys2Proof.Machine.execPbarArrival s
  | .bankConversionStart => Sys2Proof.Machine.execBankConversionStart s
  | .bankConversionComplete => Sys2Proof.Machine.execBankConversionComplete s
  | .bankItemBegin => Sys2Proof.Machine.execBankItemBegin s
  | .passEnd => Sys2Proof.Machine.execPassEnd s
  | .bexecStart => Sys2Proof.Machine.execBexecStart s
  | .mpEnd => Sys2Proof.Machine.execMpEnd s
  | .mpCap => Sys2Proof.Machine.execMpCap s
  | .bcodexAccept => Sys2Proof.Machine.execBcodexAccept s
  | .codexWriteComplete => Sys2Proof.Machine.execCodexWriteComplete s
  | .buildStart => Sys2Proof.Machine.execBuildStart s
  | .buildComplete => Sys2Proof.Machine.execBuildComplete s
  | .folioResidency => Sys2Proof.Machine.execFolioResidency s
  | .folioIterationStart => Sys2Proof.Machine.execFolioIterationStart s
  | .folioIterationRetire => Sys2Proof.Machine.execFolioIterationRetire s
  | .folioExit => Sys2Proof.Machine.execFolioExit s
  | .sliceEnd => Sys2Proof.Machine.execSliceEnd s
  | .chunkStart => Sys2Proof.Machine.execChunkStart s
  | .chunkComplete => Sys2Proof.Machine.execChunkComplete s
  | .engineSteal => Sys2Proof.Machine.execEngineSteal s
  | .commandComplete => Sys2Proof.Machine.execCommandComplete s
  | .queueSlotArrive => Sys2Proof.Machine.execQueueSlotArrive s
  | .queueRefillComplete => Sys2Proof.Machine.execQueueRefillComplete s
  | .arrivalTrigger => Sys2Proof.Machine.execArrivalTrigger s
  | .gwctReached => Sys2Proof.Machine.execGwctReached s
  | .backInvalidateResponse => Sys2Proof.Machine.execBackInvalidateResponse s
  | .hostReadCompletion => Sys2Proof.Machine.execHostReadCompletion s
  | .stealComplete => Sys2Proof.Machine.execStealComplete s

end Sys2Proof.Machine
end

