-- ==== Sys2Proof/Machine/Issue.lean ====
section
/-! DEFINITION. What the part does next (log entry 1): the step that is due, the word that issues, the step of a
core at its run boundary; and the faults of a fetch and of a run without an end (R313, R323, R324). -/

namespace Sys2Proof.Machine

/-- What a step of the part runs. -/
inductive Turn where
  /-- No power (R22). -/
  | off
  /-- An instruction, in the state it runs in. -/
  | run (s : State) (i : Instr)
  /-- A state that is reached without one. -/
  | done (s : State)
  deriving DecidableEq, Repr

/-- A word that is no instruction raises ILLEGAL once the thread waits for nothing there (R316, R323); `alone`: its opcode
is that of solo words (R325). -/
def State.badWord (s : State) (c : Nat) (h : Head) (alone : Bool) : State :=
  match s.issuingAt c h with
  | none => s
  | some x => if coverStalls x h (.nop h) then stallPort x.s c else trapWord { enterRegion x h with alone := alone } none .illegal x.path 0 0

/-- A word of a core's run. -/
def State.wordTurn (s : State) (c : Nat) (w : Dword) : Turn :=
  match decodeWord w with
  | .ok i => .run { s with focus := c } i
  | .error _ => .done (s.badWord c (wordHead w) (soloOp (wordOp w)))

/-- The word at the address a run stands at, fetched under R324. -/
def State.fetchTurn (s : State) (c : Nat) (q : Quire) (p : PathRun) : Turn :=
  if p.pos == 0 && s.overlong c q p.pc then .done (s.fetchFault c .illegal 0)
  else match s.fetch c q p.pc with
    | (.ok w, s) => s.wordTurn c w
    | (.error none, s) => .done (stallPort s c)
    | (.error (some .link), s) => .done (s.fetchLink c (s.fetchDie c q p.pc) p.pc.toNat)
    | (.error (some e), s) => .done (s.fetchFault c e p.pc.toNat)

/-- The next word of a core's run; a resident folio's words are those it was built from (R263, R265). -/
def State.issueTurn (s : State) (c : Nat) (k : Core) (r : Run) : Turn :=
  let p := if r.turn then r.b else r.a
  match k.resident with
  | some x =>
    let f : Folio := k.folios.get {} x.folio
    s.wordTurn c (f.words.getD ((p.pc - f.header).toNat / 8) 0)
  | none => s.fetchTurn c (k.quire r.slot) p

/-- A step of a core that is no word. -/
def State.coreStep (s : State) (c : Nat) (i : Instr) : Turn :=
  .run { s with here := { unit := c }, events := s.events + 1 } i

/-- What a core does next, if it can do anything. -/
def State.coreTurn (s : State) (c : Nat) : Option Turn :=
  let k := s.core c
  if s.paused.contains (islandOf c) then none
  else match k.resident, k.run with
    | some r, u =>
      (match s.folioAct c k r, u with
        | .word, some u => some (s.issueTurn c k u)
        | .reopen j i, _ =>
          let k := k.resume j i
          k.run.map ((s.setCore c k).issueTurn c k)
        | .step i, _ => some (s.coreStep c i)
        | _, _ => none)
    | none, some u => if u.stalled = some s.events then none else some (s.issueTurn c k u)
    | none, none =>
      if (s.nextFolio c).isSome then some (s.coreStep c .folioResidency)
      else if k.promotes then some (s.coreStep c .promotion)
      else if k.boundary then some (s.coreStep c .runArbitration)
      else none

/-- The focused core has a run whose port does not stall: it goes on with it. -/
def State.keepsFocus (s : State) : Bool :=
  match (s.core s.focus).run with
  | some r => r.stalled != some s.events
  | none => false

/-- Cores in the order they are asked. -/
def State.coreOrder (s : State) : List Nat :=
  let ks := s.cores.map Prod.fst
  (if s.keepsFocus then [s.focus] else []) ++ ks.filter (fun c => decide (s.focus < c)) ++ ks.filter (fun c => decide (c ≤ s.focus))

/-- A step that is due, with NOW no earlier than its tick. -/
def State.dueTurn (s : State) (d : Due) (ds : List Due) : Turn :=
  .run { s with agenda := ds, here := d.here, now := max s.now d.tick, events := s.events + 1 } d.what

/-- What the cores do next; when none can do anything, the part waits for the next step that is due. -/
def State.portTurn (s : State) : Turn :=
  match s.coreOrder.findSome? s.coreTurn with
  | some t => t
  | none =>
    match s.agenda with
    | d :: ds => s.dueTurn d ds
    | [] => .done { s with now := s.now + 1, events := s.events + 1 }

/-- The next turn of the part. -/
def State.turn (s : State) : Turn :=
  if !s.power then .off
  else
    let s := s.refresh
    match s.agenda with
    | d :: ds => if d.tick ≤ s.now then s.dueTurn d ds else s.portTurn
    | [] => s.portTurn

end Sys2Proof.Machine
end

