-- ==== Sys2Proof/Machine/Step.lean ====
section
/-! DEFINITION. One step of the part, and the placing of a word where the next step issues it. -/

namespace Sys2Proof.Machine

/-- One step of the part (log entry 1): the step that is due, or the word that issues next. -/
def step (s : State) : Host.Outcome State Fault Refusal :=
  match s.turn with
  | .off => .fault .powerOff
  | .run t i => exec i t
  | .done t => .next t

/-- Address of the word that `withFetchWord` places, virtual and physical (log entry 11). -/
def wordVa : Nat := 0x10000

/-- Leaf of its page: V, RD, EX, PLC 1, HOME 0, leaf, FRAME 1 (Table 3.4). -/
def wordLeaf : Dword := 0x1201B

/-- The launch that owns it, in context 0. -/
def wordLaunch : Launch :=
  { lid := 1, state := .running, quires := 1, recOk := true, rcd := { code := BitVec.ofNat 64 wordVa },
    ranges := [{ base := wordVa, npage := 1, rd := true, ex := true }] }

/-- Its quire: one thread, at the word. -/
def wordQuire : Quire :=
  { live := true, lk := lkOf 0 1, blocks := 32, active := true,
    threads := (0, ({ pc := BitVec.ofNat 64 wordVa } : Thread))
      :: (List.range 31).map (fun k => (k + 1, ({ exited := true } : Thread))) }

/-- The run that stands at it. -/
def wordRun : Run := { a := { lanes := 1, pc := BitVec.ofNat 64 wordVa }, shadow := wordQuire }

/-- Core 0 with that quire in slot 0 and its run in progress. -/
def Core.withWord (k : Core) : Core :=
  { k.setQuire 0 wordQuire with
    run := some wordRun, resident := none, icache := k.icache.del (wordVa / 128),
    tlb := { ctx := 0, va := wordVa, lg := 16, leaf := wordLeaf } :: k.tlb,
    shares := k.shares.set 0 { lk := lkOf 0 1 } }

/-- The state in which the next step issues a word: a launch with one quire on core 0, its run at the word, which lies
in memory before a NOP that ends the run; steps that are due wait a tick (log entry 11). -/
def State.withFetchWord (s : State) (_nbits w : Nat) : State :=
  let s := s.setBytes wordVa (toLe 8 w ++ toLe 8 0x9EF0000000000000)
  let s := s.setCore 0 (s.core 0).withWord
  let s := s.setDie 0 { s.die 0 with cache := (s.die 0).cache.del (wordVa / 128), failed := false }
  let s := s.setDie 16 { s.die 16 with failed := false }
  let s := s.setLaunch (lkOf 0 1) wordLaunch
  { s with
    power := true, focus := 0, paused := s.paused.filter (· != 0), poison := s.poison.filter (· != wordVa / 128),
    geomMdie := s.geomMdie ||| 1, channels := s.channels.set 0 32,
    agenda := s.agenda.map (fun d => { d with tick := max d.tick (s.now + 1) }) }

end Sys2Proof.Machine
end

