-- ==== Sys2Proof/Safety.lean ====
section
/-! DEFINITION. What a step must never lose, and the terms the statements are made in: when a word performs, and what a
performed word may have changed. -/

namespace Sys2Proof.Machine

/-- The invariant of the state that every step keeps: memory is in its canonical form. -/
def State.Inv (s : State) : Prop := Memory.wf s.mem = true

-- ## When a word performs

/-- A word performs on its path: nothing makes it wait, slip or end its run first (R130, R133, R314, R316, R368), it is legal
there (R323), a lane takes part (R317), and no register word of its path's threads and none that it reads elsewhere has an
error (R24). -/
structure Performs (i : Instr) (h : Head) (s : State) (x : Ictx) : Prop where
  head : i.head = some h
  issues : s.issuing h = some x
  live : x.q.live = true
  notHeld : pathHeld x = false
  covered : coverStalls x h i = false
  legal : illegalWord x h i = false
  unitFree : portStalls x i = false
  staysInRun : runYields x i = false
  resultsHere : lateResult x i = false
  noSlip : slipsBank x i = false
  takesPart : x.lanes ≠ 0
  sound : ∀ n, x.path.getLsbD n = true → (x.q.th n).badV = []
  readsSound : x.badBlock i = none

-- ## What a performed word may have changed

/-- Nothing outside the word's quire changed but the time, and the run and the bar of its core. -/
structure OnlyQuire (x : Ictx) (t : State) : Prop where
  rest : t = { x.s with cores := t.cores, now := t.now, frac := t.frac }
  memory : ∀ a, t.byte a = x.s.byte a
  otherCores : ∀ c, c ≠ x.core → t.core c = x.s.core c
  core : t.core x.core
    = { x.s.core x.core with quires := (t.core x.core).quires, run := (t.core x.core).run, bar := (t.core x.core).bar }
  otherQuires : ∀ j, j ≠ x.slot → t.quire x.core j = x.s.quire x.core j

/-- Nothing of the word's quire changed but its threads, its scalar registers, its stamp and what is on its way. -/
def OnlyRegs (x : Ictx) (t : State) : Prop :=
  t.quire x.core x.slot
    = { x.q with threads := (t.quire x.core x.slot).threads, sr := (t.quire x.core x.slot).sr,
                 stamp := (t.quire x.core x.slot).stamp, arriving := (t.quire x.core x.slot).arriving }

/-- A thread behind a word: `t` at its next PC, one more word counted, and %repc set by a word that starts an
idempotent region (R138, R315). -/
def Ictx.behind (x : Ictx) (h : Head) (n : Nat) (t : Thread) (pc : Dword) : Thread :=
  { t with pc := pc, issued := (x.q.th n).issued + 1,
           repc := if h.e = true ∧ x.pos = 0 ∧ (x.q.th n).handler = false then x.pc else (x.q.th n).repc }

/-- The word's path stands behind it, its participants changed by `f`, and every other thread is as it was. -/
def LanesDone (x : Ictx) (h : Head) (t : State) (f : Nat → Thread → Thread) : Prop :=
  ∀ n, (t.quire x.core x.slot).th n
    = if x.path.getLsbD n then x.behind h n (if x.lanes.getLsbD n then f n (x.q.th n) else x.q.th n) (x.pc + 8)
      else x.q.th n

/-- A word whose whole effect is that it changes each participant by `f`, which may read the threads of the quire. -/
def Gives (i : Instr) (f : Ictx → Nat → Thread → Thread) : Prop :=
  ∀ h s x, Performs i h s x → ∃ t, exec i s = .next t ∧ OnlyQuire x t ∧ OnlyRegs x t
    ∧ (t.quire x.core x.slot).sr = x.q.sr ∧ LanesDone x h t (f x)

/-- A word whose whole effect in a lane is `f`, of that lane's thread alone. -/
def GivesLane (i : Instr) (f : Thread → Thread) : Prop := Gives i (fun _ _ => f)

/-- A word whose whole effect is that it writes a scalar register, unless path A wrote it in the cycle (R133); s0 stays
zero (R346). -/
def GivesScalar (i : Instr) (d : SReg) (f : Ictx → Dword) : Prop :=
  ∀ h s x, Performs i h s x → ∃ t, exec i s = .next t ∧ OnlyQuire x t ∧ OnlyRegs x t
    ∧ LanesDone x h t (fun _ u => u)
    ∧ ∀ r, (t.quire x.core x.slot).s r.toNat
        = if r = d ∧ d ≠ 0 ∧ ¬ (x.isB = true ∧ ∃ u, (x.s.core x.core).run = some u ∧ d.toNat ∈ u.aWrote) then f x
          else x.q.s r.toNat

-- ## Words with an effect beyond their quire's registers

/-- `t` is `u` once the word is behind its path: each thread of the path has issued one more word and stands at
`next` of itself. Nothing else of `u` changed but the time, the run and the bar of the core, and the quire's stamp
and what is on its way to its registers. -/
structure After (x : Ictx) (u t : State) (next : Thread → Dword) : Prop where
  rest : t = { u with cores := t.cores, now := t.now, frac := t.frac }
  memory : ∀ a, t.byte a = u.byte a
  otherCores : ∀ c, c ≠ x.core → t.core c = u.core c
  core : t.core x.core
    = { u.core x.core with quires := (t.core x.core).quires, run := (t.core x.core).run, bar := (t.core x.core).bar }
  otherQuires : ∀ j, j ≠ x.slot → t.quire x.core j = u.quire x.core j
  quire : t.quire x.core x.slot
    = { u.quire x.core x.slot with threads := (t.quire x.core x.slot).threads, stamp := (t.quire x.core x.slot).stamp,
                                   arriving := (t.quire x.core x.slot).arriving }
  threads : ∀ n, (t.quire x.core x.slot).th n
    = if x.path.getLsbD n then
        { (u.quire x.core x.slot).th n with pc := next ((u.quire x.core x.slot).th n),
                                            issued := ((u.quire x.core x.slot).th n).issued + 1 }
      else (u.quire x.core x.slot).th n

/-- A word performs, in the state it sees once it has entered the region it may start (R138, R315). -/
def Sees (i : Instr) (h : Head) (s : State) (x : Ictx) : Prop :=
  ∃ y, Performs i h s y ∧ x = enterRegion y h

/-- A word whose effect under a condition is to make the state `f x`, its path going on behind it. -/
def DoesWhen (i : Instr) (p : Ictx → Prop) (f : Ictx → State) : Prop :=
  ∀ h s x, Sees i h s x → p x → ∃ t, exec i s = .next t ∧ After x (f x) t (fun _ => x.pc + 8)

/-- A word whose effect is always `f x`. -/
def Does (i : Instr) (f : Ictx → State) : Prop := DoesWhen i (fun _ => True) f

/-- A word that under a condition makes the state `f x`, in which the threads of its path stand where they go on. -/
def JumpsWhen (i : Instr) (p : Ictx → Prop) (f : Ictx → State) : Prop :=
  ∀ h s x, Sees i h s x → p x → ∃ t, exec i s = .next t ∧ After x (f x) t Thread.pc

/-- A word that under a condition raises a precise fault with a mask, an address and a DETAIL (R141). -/
def TrapsWhen (i : Instr) (p : Ictx → Prop) (c : Cause) (m : Ictx → Lanes) (addr detail : Ictx → Nat) : Prop :=
  ∀ h s x, Sees i h s x → p x → exec i s = .next (trapWord x (some i) c (m x) (addr x) (detail x))

/-- A control transfer: each thread of the path is changed by `f` if its lane takes part, has issued one more word and
stands at `next` of its lane; outside the quire only the heat table of the core, and what is due, may have changed
(R253). -/
structure Transfers (x : Ictx) (t : State) (f : Thread → Thread) (next : Nat → Dword) : Prop where
  rest : t = { x.s with cores := t.cores, now := t.now, frac := t.frac, agenda := t.agenda }
  memory : ∀ a, t.byte a = x.s.byte a
  otherCores : ∀ c, c ≠ x.core → t.core c = x.s.core c
  core : t.core x.core
    = { x.s.core x.core with quires := (t.core x.core).quires, run := (t.core x.core).run, bar := (t.core x.core).bar,
                             heat := (t.core x.core).heat }
  otherQuires : ∀ j, j ≠ x.slot → t.quire x.core j = x.s.quire x.core j
  quire : t.quire x.core x.slot
    = { x.q with threads := (t.quire x.core x.slot).threads, stamp := (t.quire x.core x.slot).stamp,
                 arriving := (t.quire x.core x.slot).arriving }
  threads : ∀ n, (t.quire x.core x.slot).th n
    = if x.path.getLsbD n then
        { (if x.lanes.getLsbD n then f (x.q.th n) else x.q.th n) with pc := next n, issued := (x.q.th n).issued + 1 }
      else x.q.th n

/-- A word that under a condition transfers control. -/
def TransfersWhen (i : Instr) (p : Ictx → Prop) (f : Ictx → Thread → Thread) (next : Ictx → Nat → Dword) : Prop :=
  ∀ h s x, Sees i h s x → p x → ∃ t, exec i s = .next t ∧ Transfers x t (f x) (next x)

-- ## Lane accesses

/-- The pages of the accesses are in no TLB of the core or of its die, so that each piece needs a walk (R65, R66). -/
def Ictx.misses (x : Ictx) (as : List LaneAcc) : Prop :=
  ∀ e, e ∈ (x.s.core x.core).tlb ∨ e ∈ (x.s.die (dieOf x.core)).tlb →
    ∀ a ∈ as, ∀ p ∈ piecesOf a.ea a.size, e.covers (x.s.launch x.q.lk).ctx (a.ea + p.1) = false

/-- A `.g` or `.h` access that meets none of the causes of R392 at issue, and whose pages are in no TLB, completes its
issue: every piece is a request that waits for its walk, the participants have the instruction outstanding, and no
register and no byte of memory has changed. -/
def WalksWhen (i : Instr) (w : Ictx → AccWord) (as : Ictx → List LaneAcc) : Prop :=
  ∀ h s x, Sees i h s x → (w x).space = 0 ∨ (w x).space = 2 → x.accessFault (w x) (as x) = none → as x ≠ [] →
    x.misses (as x) → ∃ t u, exec i s = .next t ∧ After x u t (fun _ => x.pc + 8)
      ∧ u = { x.s with cores := u.cores, reqs := u.reqs, ins := u.ins, walks := u.walks, agenda := u.agenda,
                       fresh := u.fresh }
      ∧ (∀ c, c ≠ x.core → u.core c = x.s.core c) ∧ (∀ j, j ≠ x.slot → u.quire x.core j = x.s.quire x.core j)
      ∧ (∀ n, (u.quire x.core x.slot).th n
          = if x.lanes.getLsbD n then
              { x.q.th n with outst := (x.q.th n).outst ++
                  [{ id := x.s.fresh, la := (w x).la, reason := .mem, regs := (w x).regs,
                     acq := decide ((w x).order = 1 ∨ (w x).order = 3), idx := (x.q.th n).issued }] }
            else x.q.th n)
      ∧ ∀ a ∈ as x, ∀ p ∈ piecesOf a.ea a.size, ∃ id, x.s.fresh < id ∧ u.req id = x.reqOf (w x) x.s.fresh a p.1 p.2

/-- A `.b` or `.d` access that meets none of the causes of R392, no other access waiting in the core, completes its issue:
every participant's access is a request on its way or held, and no byte of memory has changed. -/
def SendsWhen (i : Instr) (w : Ictx → AccWord) (as : Ictx → List LaneAcc) : Prop :=
  ∀ h s x, Sees i h s x → (w x).space = 1 ∨ (w x).space = 3 → x.accessFault (w x) (as x) = none → as x ≠ [] →
    x.s.heldOf x.core = [] →
    ∃ t, exec i s = .next t ∧ (∀ a, t.byte a = s.byte a)
      ∧ ∀ a ∈ as x, ∃ id, x.s.fresh < id ∧ t.req id = { x.reqOf (w x) x.s.fresh a 0 a.size with
          stage := (t.req id).stage, issued := (t.req id).issued, lost := (t.req id).lost }

/-- An access that meets a cause of R392 at issue raises it for the lanes it holds for, and is performed for none. -/
def FaultsWhen (i : Instr) (w : Ictx → AccWord) (as : Ictx → List LaneAcc) : Prop :=
  ∀ h s x c m, Sees i h s x → x.accessFault (w x) (as x) = some (c, m) →
    exec i s = .next (trapWord x (some i) c m (addrOf (as x) m) 0)

-- ## Device steps

/-- The state without what is on its way and what only counts: due steps, requests, flits, messages to the host, lease
ends, the home slices' lines, HLX and access counts. -/
def State.still (s : State) : State :=
  { s with agenda := [], reqs := [], links := [], fresh := 0, outbox := [], lease := [], slices := [], marks := [],
           hlx := 0, rac := [] }

/-- A step is due some ticks from now. -/
def State.isDue (s : State) (n : Nat) (h : Here) (i : Instr) : Prop := { tick := s.now + n, here := h, what := i } ∈ s.agenda

/-- Memory is as in `s` but for a run of bytes. -/
def State.Wrote (t s : State) (pa : Nat) (bs : List Byte) : Prop :=
  ∀ a, t.byte a = if pa ≤ a then bs.getD (a - pa) (s.byte a) else s.byte a

/-- A request stands at a home that serves it now: nothing stands before it, no page move holds it, and both dies run. -/
structure AtHome (s : State) (id : Nat) (r : Req) : Prop where
  here : s.here.unit = id
  found : s.reqs.find id = some r
  stage : r.stage = .home
  alive : s.deadDie r = none
  first : s.lineBusy id r = false
  unmoved : s.movedBy r = none

/-- A home has served a read: the line's value now, with its times (R186). -/
def ReadServed (s t : State) (id : Nat) (r : Req) : Prop :=
  t.still = s.still ∧ (t.req id).stage = .resp ∧ (t.req id).answer = s.bytes r.pa r.size
    ∧ (t.req id).status = (if s.poison.contains r.line then 2 else 0)
    ∧ (t.req id).g = max (s.nowAt (homeDie (s.homeOf r.pa))) r.q
    ∧ (t.req id).x = (t.req id).g + leaseLen (min r.lclass s.leaseCap.toNat)
    ∧ (r.cacheable = true → (t.req id).x ≤ t.lease.get 0 r.line)

/-- No register, predicate, PC or FPSR of a thread and no scalar register changed. -/
def SameRegs (s t : State) : Prop :=
  ∀ c j, (t.quire c j).sr = (s.quire c j).sr ∧ ∀ i, ((t.quire c j).th i).v = ((s.quire c j).th i).v
    ∧ ((t.quire c j).th i).p = ((s.quire c j).th i).p ∧ ((t.quire c j).th i).pc = ((s.quire c j).th i).pc
    ∧ ((t.quire c j).th i).fpsr = ((s.quire c j).th i).fpsr

/-- A home has applied bytes of a request: they stand in memory, the completion time follows the line's leases, and a
write of part of a poisoned line is a late fault (R24, R147, R190). -/
def WriteServed (s t : State) (id : Nat) (r : Req) (bs : List Byte) (late : Bool) : Prop :=
  t.Wrote s r.pa bs ∧ (t.req id).stage = .resp ∧ (t.req id).gwct = s.gwctOf r.line
    ∧ (if late = true ∧ r.srcDev = none ∧ r.agent = .thread then
        ∃ f, t.fatal = s.fatal ++ [(r.lk, f)] ∧ f.cause = .ecc ∧ f.deliv = 3 ∧ f.isFatal = true ∧ f.addr = r.va
      else t.fatal = s.fatal)
    ∧ t.still = { s.still with mem := t.mem, poison := t.poison, launches := t.launches, ctxs := t.ctxs, fatal := t.fatal,
                               hostCached := t.hostCached }
    ∧ (r.kind = .write ∨ r.kind = .wmask → r.whole = true → t.poison.contains r.line = false)
    ∧ ∀ l, (t.poison.contains l = true → s.poison.contains l = true) ∧ (l ≠ r.line → t.poison.contains l = s.poison.contains l)

-- ## Results, in the spec's terms

/-- A register set to a whole number, wrapped to 32 bits. -/
def Thread.setNat (t : Thread) (d : VReg) (n : Nat) : Thread := t.setReg d.toNat (BitVec.ofNat 32 n)
/-- A register set to an integer, wrapped to 32 bits. -/
def Thread.setInt (t : Thread) (d : VReg) (n : Int) : Thread := t.setReg d.toNat (BitVec.ofInt 32 n)
/-- A pair set: the low half in the named register, the high half in the next (R333). -/
def Thread.setPair (t : Thread) (d : VReg) (x : Dword) : Thread :=
  (t.setReg d.toNat (x.extractLsb' 0 32)).setReg (d.toNat + 1) (x.extractLsb' 32 32)
/-- A register set to an integer clamped to a range; FPSR.IS when the clamp changes it (R333). -/
def Thread.setSat (t : Thread) (d : VReg) (n lo hi : Int) : Thread :=
  (t.setInt d (max lo (min n hi))).raise (if max lo (min n hi) = n then 0 else 0x20)
/-- A register read unsigned. -/
def Thread.u (t : Thread) (r : VReg) : Nat := (t.rv r).toNat
/-- A register read as two's complement. -/
def Thread.i (t : Thread) (r : VReg) : Int := (t.rv r).toInt

/-- A register set to a 32-bit floating-point result, with its flags (R306). -/
def Thread.setF (t : Thread) (d : VReg) (r : Nat × Word) : Thread := (t.setReg d.toNat (BitVec.ofNat 32 r.1)).raise r.2
/-- A pair set to a 64-bit floating-point result, with its flags. -/
def Thread.setD (t : Thread) (d : VReg) (r : Nat × Word) : Thread := (t.setPair d (BitVec.ofNat 64 r.1)).raise r.2
/-- A result of `bits` bits merged at a position of the destination, with its flags (R361). -/
def Thread.putAt (t : Thread) (d : VReg) (bits pos : Nat) (r : Nat × Word) : Thread :=
  if bits = 64 then t.setD d r else (t.setReg d.toNat (mergeAt (t.rv d) bits pos r.1)).raise r.2
/-- The LFSR after a draw, if there was one (R299). -/
def Thread.drawn (t : Thread) (l : Option Word) : Thread := { t with lfsr := l.getD t.lfsr }

/-- The quire with each participant of a word changed. -/
def Ictx.each (x : Ictx) (f : Nat → Thread → Thread) : Quire := x.q.mapLanes (lanesOf x.lanes) f
/-- A list of the lanes that take part and meet a test, as a mask's value. -/
def Ictx.mask (x : Ictx) (f : Nat → Bool) : Nat :=
  ((List.range 32).map (fun n => if x.lanes.getLsbD n && f n then 2 ^ n else 0)).sum
/-- Every participant meets a test. -/
def Ictx.every (x : Ictx) (f : Nat → Bool) : Bool := (List.range 32).all (fun n => !x.lanes.getLsbD n || f n)
/-- Node `i` of a level of the tree of R309: a lane at level 0, else two adjacent nodes of the level below. -/
def treeNode (f : Word → Word → Word × Word) (l : Nat → Option (Word × Word)) : Nat → Nat → Option (Word × Word)
  | 0, i => l i
  | k + 1, i => nodeOp f (treeNode f l k (2 * i)) (treeNode f l k (2 * i + 1))
/-- What lane `i` holds after the first `k` steps of R310. -/
def scanNode (f : Word → Word → Word × Word) (l : Nat → Option (Word × Word)) : Nat → Nat → Option (Word × Word)
  | 0, i => l i
  | k + 1, i => if 2 ^ k ≤ i then nodeOp f (scanNode f l k (i - 2 ^ k)) (scanNode f l k i) else scanNode f l k i

end Sys2Proof.Machine
end

