-- ==== Sys2Proof/Certificates/Slice0/Obligations.lean ====
section
/-! DEFINITION. The statements. An obligation over several families is the conjunction of what each does. -/

open Sys2Proof Sys2Proof.Machine

/-- The condition of code `c` between two whole numbers (R344). -/
def condHolds (c : Nat) (x y : Int) : Bool :=
  if c = 0 then decide (x = y) else if c = 1 then decide (x ≠ y) else if c = 2 then decide (x < y)
  else if c = 3 then decide (x ≤ y) else if c = 4 then decide (x > y) else decide (x ≥ y)

-- ## Words and steps

/-- A step runs the decoded instruction: what a step adds around `exec`. It looks at the cores again, and when nothing
is due and the focused core stands at a word of its run, in no folio, fetches the word there; if that decodes, the
step is `exec` of the instruction in the state after the fetch. The fetch through a TLB entry of the core, without a
cached copy and from a home that can be reached and makes no read of the line wait, reads the eight bytes of memory at
the translated address, little-endian, and changes no register and no byte (R312, R324). -/
def Obligations.StepRunsDecodedWord : Prop :=
  (∀ (s : State) (r : Run) (w : Dword) (i : Instr) (t : State),
    let u := s.refresh
    let c := u.focus
    let p := if r.turn then r.b else r.a
    s.power = true → (∀ d, u.agenda.head? = some d → u.now < d.tick) → u.paused.contains (islandOf c) = false →
    (u.core c).resident = none → (u.core c).run = some r → r.stalled ≠ some u.events →
    (p.pos = 0 → u.overlong c ((u.core c).quire r.slot) p.pc = false) →
    u.fetch c ((u.core c).quire r.slot) p.pc = (.ok w, t) → decodeWord w = .ok i →
    step s = exec i { t with focus := c })
  ∧ ∀ (s : State) (c : Nat) (q : Quire) (pc : Dword) (e : TlbEntry),
    let pa := physOf e.leaf e.lg pc.toNat
    (s.launch q.lk).leased pc.toNat 8 = true →
    (s.core c).tlb.find? (fun e => e.covers (s.launch q.lk).ctx pc.toNat) = some e → e.aged = false →
    leafPermits e.leaf .fetch = true → s.homeOf pa ≠ .hole → pa % 8 = 0 → s.unreachable (dieOf c) pa = false →
    s.readWaits (dieOf c) pa = false → s.poison.contains (pa / 128) = false → (s.core c).icache.find (pa / 128) = none →
    (s.die (dieOf c)).cache.find (pa / 128) = none →
    ∃ t, s.fetch c q pc = (.ok (BitVec.ofNat 64 (s.num pa 8)), t) ∧ (∀ a, t.byte a = s.byte a) ∧ SameRegs s t
      ∧ ∀ d, (t.core d).run = (s.core d).run

/-- Words written out from the encodings of chapters 14 to 19 decode to the instructions they stand for. -/
def Obligations.DecodedWords : Prop :=
  let plain : Head := { b := false, e := false, gn := false, gp := 7 }
  decodeTableWord 64 0x8400303050000003 = some (.iadd { b := true, e := false, gn := false, gp := 1 } true true 6 6 10)
  ∧ decodeTableWord 64 0x1DC0082028000201 = some (.isetp plain 2 true false 0 1 0 4 5)
  ∧ decodeTableWord 64 0x1F986181004B3C4D = some (.sli plain 3 3 0x0B3C4D)
  ∧ decodeTableWord 64 0x1C00000000000000 = some (.iadd plain false false 0 0 0)
  ∧ decodeTableWord 64 0x9EF0000000000000 = some (.nop { plain with b := true })
  ∧ decodeTableWord 64 0x1EF0000000000000 = some (.nop plain)
  ∧ decodeTableWord 64 0x9EE8000000000000 = some (.exit { plain with b := true })
  ∧ decodeTableWord 64 0x1EE8000000000000 = none
  ∧ decodeTableWord 64 0x3EF0000000000000 = none
  ∧ decodeTableWord 64 0x1FF8000000000000 = none

/-- Every well-formed instruction word decodes from its own encoding to itself, and only the word that encodes it
decodes to it. -/
def Obligations.EncodeDecodeRoundTrip : Prop :=
  (∀ i : Instr, i.isWord = true → i.wf = true → ∃ w, encode i = [w] ∧ decodeWord w = .ok i)
  ∧ ∀ w i, decodeWord w = .ok i → encode i = [w] ∧ i.wf = true ∧ i.isWord = true

/-- R314, R317, R323 and R325: a word of an opcode that Table 14.6 marks reserved is no instruction, nor is a
run-ending word with B = 0, nor one with GN = 1 and GP = 7; a word that is illegal where it issues raises ILLEGAL with
every lane of its path, and writes no register but the counts of its threads. -/
def Obligations.IllegalWordsTrap : Prop :=
  (∀ w : Dword, let op := w.toNat / 2 ^ 51 % 128
    ((0x0C ≤ op ∧ op ≤ 0x0F) ∨ (0x15 ≤ op ∧ op ≤ 0x1F) ∨ (0x2D ≤ op ∧ op ≤ 0x2F) ∨ (0x35 ≤ op ∧ op ≤ 0x37) ∨ op = 0x3F
      ∨ (0x48 ≤ op ∧ op ≤ 0x4F) ∨ op = 0x6F ∨ op = 0x77 ∨ op = 0x7F) → decodeWord w = .error .reservedOpcode)
  ∧ (∀ w i, decodeWord w = .ok i → i.runEnding = true → w.getLsbD 63 = true)
  ∧ (∀ w i, decodeWord w = .ok i → w.getLsbD 61 = true → w.extractLsb' 58 3 ≠ 7)
  ∧ (∀ i h s x, i.head = some h → s.issuing h = some x → pathHeld x = false → coverStalls x h i = false →
      illegalWord x h i = true → exec i s = .next (trapWord (enterRegion x h) (some i) .illegal x.path 0 0))
  ∧ ∀ (s : State) (c : Nat) (h : Head) (alone : Bool) (x : Ictx), s.issuingAt c h = some x →
      coverStalls x h (.nop h) = false →
      s.badWord c h alone = trapWord { enterRegion x h with alone := alone } none .illegal x.path 0 0

/-- R317: a word without a participant performs nothing: its path goes on behind it, and no register, no predicate, no
byte of memory and no other quire changes. -/
def Obligations.WordsWithoutParticipants : Prop :=
  ∀ i h s x, i.head = some h → s.issuing h = some x → x.q.live = true → pathHeld x = false → coverStalls x h i = false →
    illegalWord x h i = false → portStalls x i = false → runYields x i = false → lateResult x i = false → x.lanes = 0 →
    ∃ t, exec i s = .next t ∧ OnlyQuire x t ∧ OnlyRegs x t ∧ (t.quire x.core x.slot).sr = x.q.sr
      ∧ (∀ n, ((t.quire x.core x.slot).th n).v = (x.q.th n).v ∧ ((t.quire x.core x.slot).th n).p = (x.q.th n).p
        ∧ ((t.quire x.core x.slot).th n).fpsr = (x.q.th n).fpsr)
      ∧ ∀ n, ((t.quire x.core x.slot).th n).pc = if x.path.getLsbD n then x.pc + 8 else (x.q.th n).pc

/-- R22: without power nothing runs: a step then stops the machine. With power every step answers a next state; no
instruction and no device step is refused. -/
def Obligations.EveryStepAnswersNext : Prop :=
  (∀ i s, ∃ t, exec i s = .next t) ∧ (∀ s : State, s.power = true → ∃ t, step s = .next t)
  ∧ ∀ s : State, s.power = false → step s = .fault .powerOff

/-- R33 and the Reset columns of the field tables: what a package reset leaves. The registers with no reset value of
the spec are log entry 2's, and no clause here rests on them. That every byte of memory reads 0 is the model's choice
(log entry 4): the spec gives memory no contents after power-on. -/
def Obligations.ResetValues : Prop :=
  let s := State.reset
  s.now = 0 ∧ (∀ a, s.byte a = 0)
  ∧ (∀ c j, (s.core c).run = none ∧ (s.core c).l1 = [] ∧ (s.core c).icache = [] ∧ (s.core c).tlb = []
      ∧ (s.quire c j).live = false ∧ (s.die (dieOf c)).cache = [] ∧ (s.die (dieOf c)).tlb = [])
  ∧ ∀ c lk, c < 640 → s.sysreg c lk 0x000 = 4000 + islandOf c * 2 ^ 16 ∧ s.sysreg c lk 0x001 = 4096 ∧ s.sysreg c lk 0x002 = 0
    ∧ s.sysreg c lk 0x003 = 0 ∧ s.sysreg c lk 0x004 = 0 ∧ s.sysreg c lk 0x005 = 0
    ∧ (∀ n, n < 8 → s.sysreg c lk (0x010 + n) = 0) ∧ s.sysreg c lk 0x102 = 0xFF + 32 * 2 ^ 8 ∧ s.sysreg c lk 0x103 = 0
    ∧ s.sysreg c lk 0x104 = 2 ∧ s.sysreg c lk 0x105 = 8 ∧ s.sysreg c lk 0x106 = 1000 ∧ s.sysreg c lk 0x107 = 0

/-- Reset memory is in its canonical form. -/
def Obligations.ResetMemoryCanonical : Prop :=
  State.reset.Inv

/-- Every step keeps memory in its canonical form: addresses rise, and no listed byte is the one an unlisted address
reads as. So equal memories are equal data. -/
def Obligations.StepsKeepMemoryCanonical : Prop :=
  (∀ s t : State, s.Inv → step s = .next t → t.Inv) ∧ (∀ i, ∀ s t : State, s.Inv → exec i s = .next t → t.Inv)

-- ## Integer, logic, address and predicate words

/-- R335: `iadd`, `isub` and `iaddx` in a lane. -/
def Obligations.AddSubtract : Prop :=
  ∀ (h : Head) (vd va vb : VReg) (pci pco : PReg) (sgn : Bool),
    GivesLane (.iadd h sgn false vd va vb) (fun t => t.setNat vd (t.u va + t.u vb))
    ∧ GivesLane (.isub h sgn false vd va vb) (fun t => t.setInt vd ((t.u va : Int) - (t.u vb : Int)))
    ∧ GivesLane (.iadd h true true vd va vb) (fun t => t.setSat vd (t.i va + t.i vb) (-2 ^ 31) (2 ^ 31 - 1))
    ∧ GivesLane (.isub h true true vd va vb) (fun t => t.setSat vd (t.i va - t.i vb) (-2 ^ 31) (2 ^ 31 - 1))
    ∧ GivesLane (.iadd h false true vd va vb) (fun t => t.setSat vd ((t.u va : Int) + (t.u vb : Int)) 0 (2 ^ 32 - 1))
    ∧ GivesLane (.isub h false true vd va vb) (fun t => t.setSat vd ((t.u va : Int) - (t.u vb : Int)) 0 (2 ^ 32 - 1))
    ∧ GivesLane (.iaddx h false pci pco vd va vb) (fun t =>
        (t.setNat vd (t.u va + t.u vb)).setPred pco.toNat (decide (2 ^ 32 ≤ t.u va + t.u vb)))
    ∧ GivesLane (.iaddx h true pci pco vd va vb) (fun t =>
        let n := t.u va + t.u vb + (if t.pred pci.toNat then 1 else 0)
        (t.setNat vd n).setPred pco.toNat (decide (2 ^ 32 ≤ n)))

/-- R336: the multiplications in a lane. -/
def Obligations.Multiply : Prop :=
  ∀ (h : Head) (vd va vb vc : VReg),
    GivesLane (.imul h vd va vb) (fun t => t.setNat vd (t.u va * t.u vb))
    ∧ GivesLane (.imulh h true vd va vb) (fun t => t.setInt vd (t.i va * t.i vb / 2 ^ 32))
    ∧ GivesLane (.imulh h false vd va vb) (fun t => t.setNat vd (t.u va * t.u vb / 2 ^ 32))
    ∧ GivesLane (.imad h vd va vb vc) (fun t => t.setNat vd (t.u va * t.u vb + t.u vc))
    ∧ GivesLane (.imadw h true vd va vb vc) (fun t =>
        t.setPair vd (BitVec.ofInt 64 (t.i va * t.i vb + (t.pair vc).toNat)))
    ∧ GivesLane (.imadw h false vd va vb vc) (fun t =>
        t.setPair vd (BitVec.ofNat 64 (t.u va * t.u vb + (t.pair vc).toNat)))

/-- R337: minimum, maximum and absolute value in a lane. R338: the logic and shift words in a lane. R339: the bit
counts in a lane, each by what it counts; `brev` by its bits. -/
def Obligations.MinMaxLogicCounts : Prop :=
  (∀ (h : Head) (vd va vb : VReg) (sat : Bool),
    GivesLane (.imin h true vd va vb) (fun t => t.setReg vd.toNat (if t.i va < t.i vb then t.rv va else t.rv vb))
    ∧ GivesLane (.imin h false vd va vb) (fun t => t.setReg vd.toNat (if t.u va < t.u vb then t.rv va else t.rv vb))
    ∧ GivesLane (.imax h true vd va vb) (fun t => t.setReg vd.toNat (if t.i vb < t.i va then t.rv va else t.rv vb))
    ∧ GivesLane (.imax h false vd va vb) (fun t => t.setReg vd.toNat (if t.u vb < t.u va then t.rv va else t.rv vb))
    ∧ GivesLane (.iabs h sat vd va) (fun t =>
        if 0 ≤ t.i va then t.setReg vd.toNat (t.rv va)
        else if t.rv va = 0x80000000 then
          (t.setReg vd.toNat (if sat then 0x7FFFFFFF else 0x80000000)).raise (if sat then 0x20 else 0)
        else t.setInt vd (-t.i va)))
  ∧ (∀ (h : Head) (vd va vb : VReg),
    GivesLane (.and h vd va vb) (fun t => t.setReg vd.toNat (t.rv va &&& t.rv vb))
    ∧ GivesLane (.or h vd va vb) (fun t => t.setReg vd.toNat (t.rv va ||| t.rv vb))
    ∧ GivesLane (.xor h vd va vb) (fun t => t.setReg vd.toNat (t.rv va ^^^ t.rv vb))
    ∧ GivesLane (.andn h vd va vb) (fun t => t.setReg vd.toNat (t.rv va &&& ~~~t.rv vb))
    ∧ GivesLane (.orn h vd va vb) (fun t => t.setReg vd.toNat (t.rv va ||| ~~~t.rv vb))
    ∧ GivesLane (.not h vd va) (fun t => t.setReg vd.toNat (~~~t.rv va))
    ∧ GivesLane (.shl h vd va vb) (fun t => t.setNat vd (if 32 ≤ t.u vb then 0 else t.u va * 2 ^ t.u vb))
    ∧ GivesLane (.shr h vd va vb) (fun t => t.setNat vd (if 32 ≤ t.u vb then 0 else t.u va / 2 ^ t.u vb))
    ∧ GivesLane (.sar h vd va vb) (fun t => t.setInt vd (t.i va / 2 ^ min (t.u vb) 31))
    ∧ GivesLane (.rotl h vd va vb) (fun t => t.setReg vd.toNat ((t.rv va).rotateLeft (t.u vb % 32))))
  ∧ (∀ (h : Head) (vd va : VReg),
    (∃ n : Word → Nat, GivesLane (.popc h vd va) (fun t => t.setNat vd (n (t.rv va)))
      ∧ ∀ x, n x = ((List.range 32).map (fun k => (x.getLsbD k).toNat)).sum)
    ∧ (∃ n : Word → Nat, GivesLane (.clz h vd va) (fun t => t.setNat vd (n (t.rv va)))
      ∧ ∀ x, n x ≤ 32 ∧ (∀ k, k < n x → x.getLsbD (31 - k) = false) ∧ (n x < 32 → x.getLsbD (31 - n x) = true))
    ∧ (∃ n : Word → Nat, GivesLane (.ctz h vd va) (fun t => t.setNat vd (n (t.rv va)))
      ∧ ∀ x, n x ≤ 32 ∧ (∀ k, k < n x → x.getLsbD k = false) ∧ (n x < 32 → x.getLsbD (n x) = true))
    ∧ (∃ r : Word → Word, GivesLane (.brev h vd va) (fun t => t.setReg vd.toNat (r (t.rv va)))
      ∧ ∀ x k, k < 32 → (r x).getLsbD (31 - k) = x.getLsbD k))

/-- R340 and R341: bit fields and `bytex` in a lane. R342: `sel`, `mov` and `lea` in a lane. -/
def Obligations.FieldsBytesSelects : Prop :=
  (∀ (h : Head) (vd va vb vc : VReg),
    GivesLane (.bfe h false vd va vb) (fun t =>
      let p := min (t.u vb % 256) 32
      t.setNat vd (t.u va / 2 ^ p % 2 ^ min (t.u vb / 256 % 256) (32 - p)))
    ∧ GivesLane (.bfe h true vd va vb) (fun t =>
      let p := min (t.u vb % 256) 32
      let l := min (t.u vb / 256 % 256) (32 - p)
      let f := t.u va / 2 ^ p % 2 ^ l
      t.setInt vd (if l = 0 then 0 else if 2 ^ (l - 1) ≤ f then (f : Int) - 2 ^ l else f))
    ∧ GivesLane (.bfi h vd va vb vc) (fun t =>
      let p := min (t.u vb % 256) 32
      let l := min (t.u vb / 256 % 256) (32 - p)
      t.setReg vd.toNat ((t.rv vc &&& ~~~BitVec.ofNat 32 ((2 ^ l - 1) * 2 ^ p))
        ||| BitVec.ofNat 32 (t.u va % 2 ^ l * 2 ^ p)))
    ∧ ∃ r : Word → Word → Word → Word, GivesLane (.bytex h vd va vb vc) (fun t =>
        t.setReg vd.toNat (r (t.rv va) (t.rv vb) (t.rv vc)))
      ∧ ∀ a b c k, k < 4 →
        let j := c.toNat / 2 ^ (8 * k) % 8
        let x := if j < 4 then a.extractLsb' (8 * j) 8 else b.extractLsb' (8 * (j - 4)) 8
        let act := c.toNat / 2 ^ (8 * k + 3) % 4
        (r a b c).extractLsb' (8 * k) 8
          = if act = 0 then x else if act = 1 then 0 else if act = 2 then (if x.getLsbD 7 then 0xFF else 0) else 0xFF)
  ∧ (∀ (h : Head) (vd va vb : VReg) (pn : PReg) (ng sgn : Bool) (sh : BitVec 3),
    GivesLane (.sel h ng vd pn va vb) (fun t =>
      t.setReg vd.toNat (if (t.pred pn.toNat ^^ ng) = true then t.rv va else t.rv vb))
    ∧ GivesLane (.mov h false vd va) (fun t => t.setReg vd.toNat (t.rv va))
    ∧ GivesLane (.mov h true vd va) (fun t => t.setPair vd (t.pair va))
    ∧ GivesLane (.lea h false sgn sh vd va vb) (fun t => t.setNat vd (t.u va + t.u vb * 2 ^ sh.toNat))
    ∧ GivesLane (.lea h true true sh vd va vb) (fun t =>
        t.setPair vd (BitVec.ofInt 64 ((t.pair va).toNat + t.i vb * 2 ^ sh.toNat)))
    ∧ GivesLane (.lea h true false sh vd va vb) (fun t =>
        t.setPair vd (BitVec.ofNat 64 ((t.pair va).toNat + t.u vb * 2 ^ sh.toNat))))

/-- R343: the immediate forms in a lane. -/
def Obligations.ImmediateForms : Prop :=
  ∀ (h : Head) (vd va : VReg) (imm : Word),
    GivesLane (.iaddImm h vd va imm) (fun t => t.setNat vd (t.u va + imm.toNat))
    ∧ GivesLane (.isubImm h vd va imm) (fun t => t.setInt vd ((t.u va : Int) - (imm.toNat : Int)))
    ∧ GivesLane (.imulImm h vd va imm) (fun t => t.setNat vd (t.u va * imm.toNat))
    ∧ GivesLane (.iminImmS h vd va imm) (fun t => t.setReg vd.toNat (if t.i va < imm.toInt then t.rv va else imm))
    ∧ GivesLane (.iminImmU h vd va imm) (fun t => t.setReg vd.toNat (if t.u va < imm.toNat then t.rv va else imm))
    ∧ GivesLane (.imaxImmS h vd va imm) (fun t => t.setReg vd.toNat (if imm.toInt < t.i va then t.rv va else imm))
    ∧ GivesLane (.imaxImmU h vd va imm) (fun t => t.setReg vd.toNat (if imm.toNat < t.u va then t.rv va else imm))
    ∧ GivesLane (.andImm h vd va imm) (fun t => t.setReg vd.toNat (t.rv va &&& imm))
    ∧ GivesLane (.orImm h vd va imm) (fun t => t.setReg vd.toNat (t.rv va ||| imm))
    ∧ GivesLane (.xorImm h vd va imm) (fun t => t.setReg vd.toNat (t.rv va ^^^ imm))
    ∧ GivesLane (.andnImm h vd va imm) (fun t => t.setReg vd.toNat (t.rv va &&& ~~~imm))
    ∧ GivesLane (.ornImm h vd va imm) (fun t => t.setReg vd.toNat (t.rv va ||| ~~~imm))
    ∧ GivesLane (.shlImm h vd va imm) (fun t => t.setNat vd (if 32 ≤ imm.toNat then 0 else t.u va * 2 ^ imm.toNat))
    ∧ GivesLane (.shrImm h vd va imm) (fun t => t.setNat vd (if 32 ≤ imm.toNat then 0 else t.u va / 2 ^ imm.toNat))
    ∧ GivesLane (.sarImm h vd va imm) (fun t => t.setInt vd (t.i va / 2 ^ min imm.toNat 31))
    ∧ GivesLane (.rotlImm h vd va imm) (fun t => t.setReg vd.toNat ((t.rv va).rotateLeft (imm.toNat % 32)))
    ∧ GivesLane (.movi h vd imm) (fun t => t.setReg vd.toNat imm)
    ∧ GivesLane (.moviB64 h vd imm) (fun t => t.setPair vd (BitVec.ofInt 64 imm.toInt))
    ∧ GivesLane (.leaImm h vd va imm) (fun t => t.setNat vd (t.u va + imm.toNat))
    ∧ GivesLane (.leaWImm h vd va imm) (fun t => t.setPair vd (BitVec.ofInt 64 ((t.pair va).toNat + imm.toInt)))

/-- R344 and R345: compares and predicate words in a lane. -/
def Obligations.ComparesAndPredicates : Prop :=
  ∀ (h : Head) (vd va vb : VReg) (pd pa pb pc : PReg) (c3 : BitVec 3) (sgn w : Bool) (cmb : BitVec 2) (imm : Word)
    (table : BitVec 8) (mask : BitVec 7),
    GivesLane (.isetp h c3 sgn w cmb pd pc va vb) (fun t =>
      let rd (r : VReg) : Int := if w then (if sgn then (t.pair r).toInt else (t.pair r).toNat)
        else if sgn then t.i r else t.u r
      let c := condHolds c3.toNat (rd va) (rd vb)
      t.setPred pd.toNat (if cmb = 0 then c else if cmb = 1 then c && t.pred pc.toNat else c || t.pred pc.toNat))
    ∧ GivesLane (.isetpImm h c3 pd va imm) (fun t =>
      t.setPred pd.toNat (if c3.toNat < 6 then condHolds c3.toNat (t.i va) imm.toInt
        else if c3.toNat = 6 then decide (t.u va < imm.toNat) else decide (t.u va ≥ imm.toNat)))
    ∧ GivesLane (.plop h table pd pa pb pc) (fun t =>
      let n (p : PReg) : Nat := if t.pred p.toNat then 1 else 0
      t.setPred pd.toNat (table.getLsbD (4 * n pa + 2 * n pb + n pc)))
    ∧ GivesLane (.p2v h vd) (fun t =>
      t.setNat vd (((List.range 8).map (fun k => if t.pred k then 2 ^ k else 0)).sum))
    ∧ GivesLane (.v2p h mask va) (fun t =>
      (List.range 7).foldl (fun u k => if mask.getLsbD k then u.setPred k ((t.rv va).getLsbD k) else u) t)

/-- R347: the scalar arithmetic words, once for the quire. R348 and R349: `ssetp`, `s2v` and `vread`. -/
def Obligations.ScalarWords : Prop :=
  (∀ (h : Head) (sd sa : SReg) (b : ScalOp) (imm : BitVec 21),
    GivesScalar (.sadd h sd sa b) sd (fun x => BitVec.ofNat 64 ((x.sh.s sa.toNat).toNat + (x.op2 b).toNat))
    ∧ GivesScalar (.ssub h sd sa b) sd (fun x => BitVec.ofInt 64 (((x.sh.s sa.toNat).toNat : Int) - ((x.op2 b).toNat : Int)))
    ∧ GivesScalar (.smul h sd sa b) sd (fun x => BitVec.ofNat 64 ((x.sh.s sa.toNat).toNat * (x.op2 b).toNat))
    ∧ GivesScalar (.sshl h sd sa b) sd (fun x =>
        if 64 ≤ (x.op2 b).toNat then 0 else BitVec.ofNat 64 ((x.sh.s sa.toNat).toNat * 2 ^ (x.op2 b).toNat))
    ∧ GivesScalar (.sshr h sd sa b) sd (fun x =>
        if 64 ≤ (x.op2 b).toNat then 0 else BitVec.ofNat 64 ((x.sh.s sa.toNat).toNat / 2 ^ (x.op2 b).toNat))
    ∧ GivesScalar (.sshrS h sd sa b) sd (fun x =>
        BitVec.ofInt 64 ((x.sh.s sa.toNat).toInt / 2 ^ min (x.op2 b).toNat 63))
    ∧ GivesScalar (.sand h sd sa b) sd (fun x => x.sh.s sa.toNat &&& x.op2 b)
    ∧ GivesScalar (.sor h sd sa b) sd (fun x => x.sh.s sa.toNat ||| x.op2 b)
    ∧ GivesScalar (.sxor h sd sa b) sd (fun x => x.sh.s sa.toNat ^^^ x.op2 b)
    ∧ GivesScalar (.smov h sd sa) sd (fun x => x.sh.s sa.toNat)
    ∧ GivesScalar (.smovi h sd imm) sd (fun _ => BitVec.ofInt 64 imm.toInt)
    ∧ GivesScalar (.sli h sd sa imm) sd (fun x => BitVec.ofNat 64 ((x.sh.s sa.toNat).toNat * 2 ^ 21 + imm.toNat)))
  ∧ (∀ (h : Head) (c4 : BitVec 4) (pd : PReg) (sd sa : SReg) (vd va : VReg) (b : ScalOp),
    Gives (.ssetp h c4 pd sa b) (fun x _ t =>
      let y := x.sh.s sa.toNat
      let z := x.op2 b
      t.setPred pd.toNat (if c4.toNat < 6 then condHolds c4.toNat y.toInt z.toInt
        else if c4.toNat = 6 then decide (y.toNat < z.toNat) else if c4.toNat = 7 then decide (y.toNat ≤ z.toNat)
        else if c4.toNat = 8 then decide (y.toNat > z.toNat) else decide (y.toNat ≥ z.toNat)))
    ∧ Gives (.s2v h 0 vd sa) (fun x _ t => t.setNat vd (x.sh.s sa.toNat).toNat)
    ∧ Gives (.s2v h 1 vd sa) (fun x _ t => t.setNat vd ((x.sh.s sa.toNat).toNat / 2 ^ 32))
    ∧ Gives (.s2v h 2 vd sa) (fun x _ t => t.setPair vd (x.sh.s sa.toNat))
    ∧ GivesScalar (.vread h 0 sd va sa) sd (fun x =>
        BitVec.ofNat 64 ((x.sh.th ((x.sh.s sa.toNat).toNat % 32)).u va))
    ∧ GivesScalar (.vread h 1 sd va sa) sd (fun x =>
        BitVec.ofInt 64 ((x.sh.th ((x.sh.s sa.toNat).toNat % 32)).i va))
    ∧ GivesScalar (.vread h 2 sd va sa) sd (fun x => (x.sh.th ((x.sh.s sa.toNat).toNat % 32)).pair va))

-- ## Floating point

/-- R353: FP32 and FP64 sums, products and fused products, with the inversions of R352. R306 and R353: a NaN operand,
opposite infinities and a zero times an infinity give the canonical NaN; NV is set but for a quiet NaN alone. -/
def Obligations.FloatArithmetic : Prop :=
  (∀ (h : Head) (m : FpMod) (vd va vb vc : VReg),
    GivesLane (.fadd h m vd va vb) (fun t =>
      t.setF vd (fp32.add (rndOf m.rm) m.ftz (t.f32 m.ftz m.na va) (t.f32 m.ftz m.nb vb)))
    ∧ GivesLane (.fsub h m vd va vb) (fun t =>
      t.setF vd (fp32.add (rndOf m.rm) m.ftz (t.f32 m.ftz m.na va) ((t.f32 m.ftz m.nb vb).neg true)))
    ∧ GivesLane (.fmul h m vd va vb) (fun t =>
      t.setF vd (fp32.mul (rndOf m.rm) m.ftz (t.f32 m.ftz m.na va) (t.f32 m.ftz m.nb vb)))
    ∧ GivesLane (.ffma h m vd va vb vc) (fun t =>
      t.setF vd (fp32.fma (rndOf m.rm) m.ftz (t.f32 m.ftz m.na va) (t.f32 m.ftz m.nb vb) (t.f32 m.ftz m.nc vc)))
    ∧ GivesLane (.dadd h m vd va vb) (fun t =>
      t.setD vd (fp64.add (rndOf m.rm) m.ftz (t.f64 m.ftz m.na va) (t.f64 m.ftz m.nb vb)))
    ∧ GivesLane (.dmul h m vd va vb) (fun t =>
      t.setD vd (fp64.mul (rndOf m.rm) m.ftz (t.f64 m.ftz m.na va) (t.f64 m.ftz m.nb vb)))
    ∧ GivesLane (.dfma h m vd va vb vc) (fun t =>
      t.setD vd (fp64.fma (rndOf m.rm) m.ftz (t.f64 m.ftz m.na va) (t.f64 m.ftz m.nb vb) (t.f64 m.ftz m.nc vc))))
  ∧ (∀ (m : Rnd) (ftz n : Bool) (k : Nat) (e : Int) (a c : FVal), k ≠ 0 →
    fp32.add m ftz (.nan false) a = (0x7FC00000, if a.isSig then fNV else 0)
    ∧ fp32.add m ftz (.nan true) a = (0x7FC00000, fNV)
    ∧ fp32.add m ftz (.inf n) (.inf !n) = (0x7FC00000, fNV)
    ∧ fp32.add m ftz (.inf n) (.inf n) = (fp32.sign n 0x7F800000, 0)
    ∧ fp32.add m ftz (.inf n) (.fin false k e) = (fp32.sign n 0x7F800000, 0)
    ∧ fp32.mul m ftz (.inf n) (.fin false 0 e) = (0x7FC00000, fNV)
    ∧ fp32.mul m ftz (.inf n) (.fin true k e) = (fp32.sign (!n) 0x7F800000, 0)
    ∧ fp32.fma m ftz (.fin n 0 e) (.inf false) c = (0x7FC00000, fNV))

/-- R354, R355 and R356: `fmin`, `fmax`, `dmin`, `dmax`, `fround` and `fclass` complete: in every state in which the
word performs, its `exec` is a next state, in which each participant has the result and its flags and nothing else has
changed. R354: without `.nan` a number is preferred to a NaN, with it a NaN operand gives the canonical NaN; of two
numbers the lesser or the greater one is given with its own bits, and -0 is below +0; NV alone is set, by a signalling
NaN. R355: a NaN gives the canonical NaN, infinities and zeros are given unchanged. R356: the FP32 classes of Table
16.3. -/
def Obligations.FloatSelectRoundClassify : Prop :=
  (let completes (i : Instr) (f : Thread → Thread) : Prop := ∀ h s x, Performs i h s x →
      ∃ t, exec i s = .next t ∧ OnlyQuire x t ∧ OnlyRegs x t ∧ (t.quire x.core x.slot).sr = x.q.sr
        ∧ LanesDone x h t (fun _ u => f u)
    ∀ (h : Head) (m : FpMod) (x hi : Bool) (vd va vb : VReg),
    completes (.fmin h m x vd va vb) (fun t =>
      t.setF vd (fp32.minMax false x m.ftz (fp32.flip m.na (t.u va)) (fp32.flip m.nb (t.u vb))))
    ∧ completes (.fmax h m x vd va vb) (fun t =>
      t.setF vd (fp32.minMax true x m.ftz (fp32.flip m.na (t.u va)) (fp32.flip m.nb (t.u vb))))
    ∧ completes (.dmin h m x vd va vb) (fun t =>
      t.setD vd (fp64.minMax false x m.ftz (fp64.flip m.na (t.pair va).toNat) (fp64.flip m.nb (t.pair vb).toNat)))
    ∧ completes (.dmax h m x vd va vb) (fun t =>
      t.setD vd (fp64.minMax true x m.ftz (fp64.flip m.na (t.pair va).toNat) (fp64.flip m.nb (t.pair vb).toNat)))
    ∧ completes (.fround h m x vd va) (fun t => t.setF vd (fp32.integral (rndOf m.rm) m.ftz x (t.u va)))
    ∧ completes (.fclass h 0 hi vd va) (fun t => t.setNat vd (2 ^ fp32.classify (t.u va)))
    ∧ completes (.fclass h 1 hi vd va) (fun t => t.setNat vd (2 ^ fp64.classify (t.pair va).toNat))
    ∧ completes (.fclass h 2 hi vd va) (fun t => t.setNat vd (2 ^ fp16.classify (t.u va / 2 ^ (16 * hi.toNat) % 2 ^ 16)))
    ∧ completes (.fclass h 3 hi vd va) (fun t => t.setNat vd (2 ^ bf16.classify (t.u va / 2 ^ (16 * hi.toNat) % 2 ^ 16))))
  ∧ (∀ (x : Bool) (a b : Nat), a < 2 ^ 32 → b < 2 ^ 32 →
    let va := fp32.read false a
    let vb := fp32.read false b
    let low := if a < 2 ^ 31 then (if b < 2 ^ 31 then min a b else b) else if b < 2 ^ 31 then a else max a b
    let high := if a < 2 ^ 31 then (if b < 2 ^ 31 then max a b else a) else if b < 2 ^ 31 then b else min a b
    (va.isNan = false → vb.isNan = false →
      fp32.minMax false x false a b = (low, 0) ∧ fp32.minMax true x false a b = (high, 0))
    ∧ ∀ g : Bool, (fp32.minMax g x false a b).2 = (if va.isSig = true ∨ vb.isSig = true then fNV else 0)
      ∧ (va.isNan = true → vb.isNan = false → (fp32.minMax g x false a b).1 = if x then 0x7FC00000 else b)
      ∧ (va.isNan = false → vb.isNan = true → (fp32.minMax g x false a b).1 = if x then 0x7FC00000 else a)
      ∧ (va.isNan = true → vb.isNan = true → (fp32.minMax g x false a b).1 = 0x7FC00000))
  ∧ (∀ (m : Rnd) (ftz ex : Bool) (a : Nat), a < 2 ^ 32 →
    (0x7F800000 < a % 2 ^ 31 → fp32.integral m ftz ex a = (0x7FC00000, if a % 2 ^ 31 < 0x7FC00000 then fNV else 0))
    ∧ (a % 2 ^ 31 = 0x7F800000 ∨ a % 2 ^ 31 = 0 → fp32.integral m ftz ex a = (a, 0)))
  ∧ ∀ a, a < 2 ^ 32 →
    let neg := decide (2 ^ 31 ≤ a)
    let g := a % 2 ^ 31
    fp32.classify a = if 0x7FC00000 ≤ g then 1 else if 0x7F800000 < g then 0
      else if g = 0x7F800000 then (if neg then 2 else 9) else if g = 0 then (if neg then 5 else 6)
      else if g < 0x800000 then (if neg then 4 else 7) else if neg then 3 else 8

/-- R357 and R358: the approximating words complete with what their functions give; `fsqrt` rounds once. Table 16.5:
the special operands of the approximating words, whatever the free choice of their result bits. -/
def Obligations.ApproximatingWords : Prop :=
  (∀ (h : Head) (rm : BitVec 2) (ftz : Bool) (vd va : VReg),
    let lane (fn : Nat) (f : FVal → Nat → Nat × Word) (t : Thread) : Thread :=
      let v := fp32.read ftz (t.u va)
      t.setF vd (if v.isNan then (0x7FC00000, if v.isSig then fNV else 0) else f v (Config.approx fn (t.rv va)))
    GivesLane (.frcp h ftz vd va) (lane 0 (rcpOf ftz))
    ∧ GivesLane (.frsq h ftz vd va) (lane 1 (rsqOf ftz))
    ∧ GivesLane (.fsqrt h rm ftz vd va) (lane 2 (fun v _ => sqrtOf (rndOf rm) ftz v))
    ∧ GivesLane (.fex2 h ftz vd va) (lane 3 (ex2Of ftz))
    ∧ GivesLane (.flg2 h ftz vd va) (lane 4 (lg2Of ftz))
    ∧ GivesLane (.fsin h ftz vd va) (lane 5 (sinOf ftz false))
    ∧ GivesLane (.fcos h ftz vd va) (lane 6 (sinOf ftz true))
    ∧ GivesLane (.ftanh h ftz vd va) (lane 7 (tanhOf ftz))
    ∧ GivesLane (.drcpa h ftz vd va) (fun t =>
        t.setD vd (rcpaChoose ftz (t.pair va).toNat (Config.drcpa (t.pair va)))))
  ∧ (∀ (m : Rnd) (ftz n : Bool) (e : Int) (k pick : Nat), k ≠ 0 →
    let pinf := 0x7F800000
    let ninf := 0xFF800000
    let nan := (0x7FC00000, fNV)
    rcpOf ftz (.fin false 0 e) pick = (pinf, fDZ) ∧ rcpOf ftz (.fin true 0 e) pick = (ninf, fDZ)
    ∧ rcpOf ftz (.inf false) pick = (0, 0) ∧ rcpOf ftz (.inf true) pick = (0x80000000, 0)
    ∧ rsqOf ftz (.fin false 0 e) pick = (pinf, fDZ) ∧ rsqOf ftz (.fin true 0 e) pick = (ninf, fDZ)
    ∧ rsqOf ftz (.inf false) pick = (0, 0) ∧ rsqOf ftz (.inf true) pick = nan ∧ rsqOf ftz (.fin true k e) pick = nan
    ∧ sqrtOf m ftz (.fin false 0 e) = (0, 0) ∧ sqrtOf m ftz (.fin true 0 e) = (0x80000000, 0)
    ∧ sqrtOf m ftz (.inf false) = (pinf, 0) ∧ sqrtOf m ftz (.inf true) = nan ∧ sqrtOf m ftz (.fin true k e) = nan
    ∧ ex2Of ftz (.fin n 0 e) pick = (0x3F800000, 0) ∧ ex2Of ftz (.inf false) pick = (pinf, 0)
    ∧ ex2Of ftz (.inf true) pick = (0, 0)
    ∧ lg2Of ftz (.fin n 0 e) pick = (ninf, fDZ) ∧ lg2Of ftz (.inf false) pick = (pinf, 0)
    ∧ lg2Of ftz (.inf true) pick = nan ∧ lg2Of ftz (.fin true k e) pick = nan
    ∧ sinOf ftz false (.inf n) pick = nan ∧ sinOf ftz true (.inf n) pick = nan
    ∧ sinOf ftz false (.fin false 0 e) pick = (0, 0) ∧ sinOf ftz false (.fin true 0 e) pick = (0x80000000, 0)
    ∧ sinOf ftz true (.fin n 0 e) pick = (0x3F800000, 0)
    ∧ tanhOf ftz (.inf false) pick = (0x3F800000, 0) ∧ tanhOf ftz (.inf true) pick = (0xBF800000, 0)
    ∧ tanhOf ftz (.fin false 0 e) pick = (0, 0) ∧ tanhOf ftz (.fin true 0 e) pick = (0x80000000, 0))

/-- R359: the packed words, half by half, and `pdot2`. R360: the floating-point compares, with the relation `cmp` of
two values that are no NaN. -/
def Obligations.PackedAndCompares : Prop :=
  (∀ (h : Head) (m : FpMod) (x : Bool) (vd va vb vc : VReg),
    let f := if x then bf16 else fp16
    let a (t : Thread) (k : Nat) : FVal := (f.read m.ftz (t.u va / 2 ^ (16 * k) % 2 ^ 16)).neg m.na
    let b (t : Thread) (k : Nat) : FVal := (f.read m.ftz (t.u vb / 2 ^ (16 * k) % 2 ^ 16)).neg m.nb
    let c (t : Thread) (k : Nat) : FVal := (f.read m.ftz (t.u vc / 2 ^ (16 * k) % 2 ^ 16)).neg m.nc
    let both (t : Thread) (g : Nat → Nat × Word) : Thread :=
      (t.setNat vd ((g 0).1 + (g 1).1 * 2 ^ 16)).raise ((g 0).2 ||| (g 1).2)
    GivesLane (.padd2 h m x vd va vb) (fun t => both t (fun k => f.add (rndOf m.rm) m.ftz (a t k) (b t k)))
    ∧ GivesLane (.pmul2 h m x vd va vb) (fun t => both t (fun k => f.mul (rndOf m.rm) m.ftz (a t k) (b t k)))
    ∧ GivesLane (.pfma2 h m x vd va vb vc) (fun t => both t (fun k => f.fma (rndOf m.rm) m.ftz (a t k) (b t k) (c t k)))
    ∧ GivesLane (.pdot2 h m x vd va vb vc) (fun t =>
        let p := (a t 0).mul (b t 0)
        let q := (a t 1).mul (b t 1)
        t.setF vd (fp32.sum (rndOf m.rm) m.ftz (p.2 || q.2) [p.1, q.1, (fp32.read false (t.u vc)).neg m.nc])))
  ∧ (∀ (h : Head) (c4 : BitVec 4) (ftz : Bool) (cmb : BitVec 2) (pd pc : PReg) (va vb : VReg), c4.toNat < 12 →
    let holds (a b : FVal) : Bool :=
      let un := a.isNan || b.isNan
      let k := a.cmp b
      let n := c4.toNat
      if n = 0 then !un && k == 0 else if n = 1 then un || k != 0 else if n = 6 then un else if n = 7 then !un
      else
        let r := if n = 2 ∨ n = 8 then decide (k < 0) else if n = 3 ∨ n = 9 then decide (k ≤ 0)
          else if n = 4 ∨ n = 10 then decide (k > 0) else decide (k ≥ 0)
        if n < 6 then !un && r else un || r
    let nv (a b : FVal) : Word :=
      if a.isSig || b.isSig || ((a.isNan || b.isNan) && decide (2 ≤ c4.toNat ∧ c4.toNat ≤ 5)) then fNV else 0
    let put (t : Thread) (a b : FVal) : Thread :=
      let r := holds a b
      (t.setPred pd.toNat (if cmb = 0 then r else if cmb = 1 then r && t.pred pc.toNat else r || t.pred pc.toNat)).raise
        (nv a b)
    GivesLane (.fsetp h c4 ftz cmb pd pc va vb) (fun t => put t (fp32.read ftz (t.u va)) (fp32.read ftz (t.u vb)))
    ∧ GivesLane (.dsetp h c4 ftz cmb pd pc va vb) (fun t =>
        put t (fp64.read ftz (t.pair va).toNat) (fp64.read ftz (t.pair vb).toNat)))

/-- R363, R364 and R365: the conversions, with rounding and saturation from the word or from its format slot. R298 and
R305: a finite value `(-1)^neg * n * 2^e` that converts to an integer without NV becomes a nearest whole number, the
even one in a tie (RNE), the whole number toward zero (RTZ), above it (RUP) or below it (RDN); NX exactly when it was
not whole. The value is written as `v / 2^d`, for any `d` with `0 ≤ e + d`. -/
def Obligations.Conversions : Prop :=
  (∀ (h : Head) (c : CvtFields) (vd va : VReg),
    let rnd (x : Ictx) (t : Thread) : Rnd × Option Word :=
      if c.fs then slotRnd (x.fslot c.fslot) t else (rndOf c.rm, none)
    let sat (x : Ictx) : Bool := if c.fs then (x.fslot c.fslot).getLsbD 9 else c.sat
    let f := fmtOf c.ff.toNat
    let it := c.sel.toNat
    Gives (.cvtf h c vd va) (fun x _ t =>
      let src := fmtOf c.sel.toNat
      (t.putAt vd f.bits c.dpos.toNat
        (cvtFloat src f (rnd x t).1 c.ftz (sat x) (t.at src.bits c.spos.toNat va))).drawn (rnd x t).2)
    ∧ Gives (.cvti h c vd va) (fun x _ t =>
      let r := (f.read c.ftz (t.at f.bits c.spos.toNat va)).toInt (rnd x t).1 1 0 (intLo it) (intHi it)
      (t.putAt vd (intBits it) c.dpos.toNat ((BitVec.ofInt 64 r.1).toNat, r.2)).drawn (rnd x t).2)
    ∧ Gives (.cvtif h c vd va) (fun x _ t =>
      (t.putAt vd f.bits c.dpos.toNat
        (f.ofInt (rnd x t).1 c.ftz (sat x) (intRead it (t.at (intBits it) c.spos.toNat va)))).drawn (rnd x t).2))
  ∧ (∀ (neg : Bool) (n d : Nat) (e lo hi y : Int) (m : Rnd) (fl : Word), 0 ≤ e + d →
    (FVal.fin neg n e).toInt m 1 0 lo hi = (y, fl) →
    let v : Int := (if neg then -1 else 1) * (n * 2 ^ (e + d).toNat)
    let w : Int := y * 2 ^ d
    (lo ≤ hi → lo ≤ y ∧ y ≤ hi)
    ∧ (fl = 0 ∨ fl = fNX ∨ fl = fNV)
    ∧ (fl = 0 → v = w) ∧ (fl = fNX → v ≠ w)
    ∧ (fl ≠ fNV → m = .rne → 2 * (v - w).natAbs ≤ 2 ^ d ∧ (2 * (v - w).natAbs = 2 ^ d → y % 2 = 0))
    ∧ (fl ≠ fNV → m = .rtz → (v - w).natAbs < 2 ^ d ∧ w.natAbs ≤ v.natAbs)
    ∧ (fl ≠ fNV → m = .rup → v ≤ w ∧ w < v + 2 ^ d)
    ∧ (fl ≠ fNV → m = .rdn → w ≤ v ∧ v < w + 2 ^ d))

/-- R366: `mxpack` forms one block of the participants with its shared scale, or raises PARAM. R367: `mxunpack` in a
lane. -/
def Obligations.BlockWords : Prop :=
  (∀ (h : Head) (dpos fslot : BitVec 3) (hi : Bool) (vd va vb : VReg),
    let ef (x : Ictx) : Nat := slotEF (x.fslot fslot)
    let serves (x : Ictx) : Prop := (ef x = 0 ∨ ef x = 2 ∨ ef x = 3 ∨ ef x = 4) ∧ (ef x = 4 ∨ dpos.toNat < 4)
    DoesWhen (.mxpack h dpos hi fslot vd va vb) serves (fun x =>
      let sc := blockScale (ef x) ((lanesOf x.lanes).map (fun n => (x.q.th n).u va))
      let m : Word := if hi then 0x03FF0000 else 0x000003FF
      x.put (x.each (fun _ t =>
        let r := slotRnd (x.fslot fslot) t
        let y := blockElem (ef x) sc r.1 false ((x.fslot fslot).getLsbD 9) (t.u va)
        let t1 := t.setReg vd.toNat (mergeAt (t.rv vd) (fmtBits (ef x)) dpos.toNat y.1)
        let t2 := t1.setReg vb.toNat ((t1.rv vb &&& ~~~m) ||| BitVec.ofNat 32 (if hi then sc * 2 ^ 16 else sc))
        (t2.raise y.2).drawn r.2)))
    ∧ TrapsWhen (.mxpack h dpos hi fslot vd va vb) (fun x => ¬ serves x) .param (fun x => x.lanes) (fun _ => 0) (fun _ => 0))
  ∧ (∀ (h : Head) (fmt : BitVec 4) (rm : BitVec 2) (ftz : Bool) (spos : BitVec 3) (hi : Bool) (vd va vb : VReg),
    GivesLane (.mxunpack h fmt rm ftz spos hi vd va vb) (fun t =>
      let e := t.at (fmtBits fmt.toNat) spos.toNat va
      let sc := t.u vb / 2 ^ (16 * hi.toNat) % 2 ^ 10
      let v := if fmt = 0 then FVal.fin (decide (128 ≤ e)) (if 128 ≤ e then 256 - e else e) 0
        else (fmtOf fmt.toNat).read false e
      match v with
      | .nan g => t.setF vd (0x7FC00000, if g then fNV else 0)
      | .inf n => t.setF vd (if s10Nan sc then 0x7FC00000 else fp32.sign n 0x7F800000, 0)
      | .fin n k d =>
        t.setF vd (if s10Nan sc then (0x7FC00000, 0)
          else fp32.round (rndOf rm) ftz false n (k * s10Num sc) 1 (d + s10Exp sc))))

-- ## Control, exchange, groups

/-- R321, R372 and R373: where each thread of the path goes on, and the link pair of a call. R321 and R373: an
indirect target that is no word address raises ALIGN for the lanes that hold one, and no lane is performed. -/
def Obligations.ControlTransfers : Prop :=
  (∀ (h : Head) (hint : BitVec 2) (va : VReg) (off : BitVec 24),
    let label (x : Ictx) : Dword := x.pc + BitVec.ofInt 64 (8 * off.toInt)
    let aligned (x : Ictx) : Prop := ∀ n, x.lanes.getLsbD n = true → ((x.q.th n).pair va).toNat % 8 = 0
    let wordAddress (x : Ictx) : Prop := (label x).toNat % 8 = 0
    let goTo (x : Ictx) (f : Nat → Dword) (n : Nat) : Dword := if x.lanes.getLsbD n then f n else x.pc + 8
    TransfersWhen (.bra h hint off) (fun _ => True) (fun _ t => t) (fun x => goTo x (fun _ => label x))
    ∧ TransfersWhen (.dbra h hint va off) (fun _ => True) (fun _ t => t.setReg va.toNat (t.rv va - 1))
        (fun x => goTo x (fun n => if (x.q.th n).rv va = 1 then x.pc + 8 else label x))
    ∧ TransfersWhen (.brx h hint va) aligned (fun _ t => t) (fun x => goTo x (fun n => (x.q.th n).pair va))
    ∧ TransfersWhen (.ret h hint va) aligned (fun _ t => t) (fun x => goTo x (fun n => (x.q.th n).pair va))
    ∧ TransfersWhen (.call h hint va off) wordAddress (fun x t => t.setPair va (x.pc + 8)) (fun x => goTo x (fun _ => label x))
    ∧ TransfersWhen (.callR h hint va) aligned (fun x t => t.setPair va (x.pc + 8))
        (fun x => goTo x (fun n => (x.q.th n).pair va)))
  ∧ (∀ (h : Head) (hint : BitVec 2) (va : VReg),
    let off (x : Ictx) (n : Nat) : Bool := x.lanes.getLsbD n && decide (((x.q.th n).pair va).toNat % 8 ≠ 0)
    let some (x : Ictx) : Prop := ∃ n, off x n = true
    let mask (x : Ictx) : Lanes := maskOf ((List.range 32).filter (off x))
    let addr (x : Ictx) : Nat := ((x.q.th (((List.range 32).find? (off x)).getD 0)).pair va).toNat
    TrapsWhen (.brx h hint va) some .align mask addr (fun _ => 0)
    ∧ TrapsWhen (.ret h hint va) some .align mask addr (fun _ => 0)
    ∧ TrapsWhen (.callR h hint va) some .align mask addr (fun _ => 0))

/-- R374, R376 and R377: `nop`, `sleep` and `phase`. R166 and R374: `exit` ends the threads of its participants; with
the last of them the quire leaves its slot. -/
def Obligations.NopSleepPhaseExit : Prop :=
  (∀ (h : Head) (id : BitVec 8) (imm : Word),
    Does (.nop h) (fun x => x.s)
    ∧ DoesWhen (.sleep h imm) (fun _ => imm = 0) (fun x => x.s)
    ∧ DoesWhen (.sleep h imm) (fun _ => imm ≠ 0) (fun x =>
        (x.put (x.each (fun _ t =>
          { t with wait := some { reason := .sleep, pc := x.pc, deadline := x.s.nowAt (dieOf x.core) + imm.toNat,
                                  since := x.s.cycle } }))).due imm.toNat { unit := x.core, sub := x.slot } .sleepExpiry)
    ∧ DoesWhen (.phase h id imm) (fun _ => imm = 0) (fun x =>
        let m := (x.s.launch x.q.lk).rcd.phMargin
        let u := x.put { x.q with timer := { armed := false, phid := id, budget := 0, count := 0, asOf := x.s.now,
                                             margin := if m = 0 then x.s.margin.toNat else m } }
        { u with agenda := u.agenda.filter (fun d =>
            !(d.what = .phaseExpiry && d.here.unit == x.core && d.here.sub == x.slot)) })
    ∧ DoesWhen (.phase h id imm) (fun _ => imm ≠ 0) (fun x =>
        let m := (x.s.launch x.q.lk).rcd.phMargin
        (x.put { x.q with timer := { armed := true, phid := id, budget := imm, count := 0, asOf := x.s.now,
                                     margin := if m = 0 then x.s.margin.toNat else m } }).armTimer x.core x.slot))
  ∧ (∀ (h : Head),
    let last (x : Ictx) : Prop := ∀ n, n < 32 → x.lanes.getLsbD n = true ∨ (x.q.th n).exited = true
    DoesWhen (.exit h) (fun x => ¬ last x)
      (fun x => x.put (x.each (fun _ t => { t with exited := true, pends := [], wait := none })))
    ∧ ∀ s x, Sees (.exit h) h s x → last x → ∃ t, exec (.exit h) s = .next t
        ∧ (t.quire x.core x.slot).live = false ∧ (t.core x.core).run = none ∧ ∀ a, t.byte a = s.byte a)

/-- R379 and R382: `vote`, `ballot` and `match`. R380: `xlane` reads its source lane as it stood before the cycle,
whether that lane takes part or not. -/
def Obligations.VotesAndLaneExchange : Prop :=
  (∀ (h : Head) (ng w : Bool) (pd pa : PReg) (vd va : VReg),
    let c (x : Ictx) (n : Nat) : Bool := (x.q.th n).pred pa.toNat ^^ ng
    let v (x : Ictx) (n : Nat) : Nat := if w then ((x.q.th n).pair va).toNat else (x.q.th n).u va
    Gives (.voteAll h ng pd pa) (fun x _ t => t.setPred pd.toNat (x.every (c x)))
    ∧ Gives (.voteAny h ng pd pa) (fun x _ t => t.setPred pd.toNat (!x.every (fun n => !c x n)))
    ∧ Gives (.voteUni h ng pd pa) (fun x _ t =>
        t.setPred pd.toNat (x.every (c x) || x.every (fun n => !c x n)))
    ∧ Gives (.ballot h ng vd pa) (fun x _ t => t.setNat vd (x.mask (c x)))
    ∧ Gives (.matchSame h w pd va) (fun x _ t =>
        t.setPred pd.toNat (x.every (fun n => x.every (fun m => v x n == v x m))))
    ∧ Gives (.matchPeers h w vd va) (fun x i t => t.setNat vd (x.mask (fun n => v x n == v x i)))
    ∧ Gives (.matchLead h w vd va) (fun x i t =>
        t.setNat vd (((List.range 32).find? (fun n => x.lanes.getLsbD n && v x n == v x i)).getD 0)))
  ∧ (∀ (h : Head) (seg : BitVec 3) (vd va : VReg) (src : LaneOp),
    let w := 2 ^ seg.toNat
    let lane (t : Thread) : Nat := match src with
      | .reg r => t.u r % 32
      | .imm n => n.toNat
    let base (n : Nat) : Nat := n - n % w
    Gives (.xlaneLane h seg vd va src) (fun x n t => t.setReg vd.toNat ((x.sh.th (base n + lane t % w)).rv va))
    ∧ Gives (.xlaneRot h seg vd va src) (fun x n t => t.setReg vd.toNat ((x.sh.th (base n + (n % w + lane t % w) % w)).rv va))
    ∧ Gives (.xlaneXor h seg vd va src) (fun x n t => t.setReg vd.toNat ((x.sh.th (base n + (n % w ^^^ lane t % w))).rv va))
    ∧ Gives (.xlaneRev h seg vd va) (fun x n t => t.setReg vd.toNat ((x.sh.th (base n + (w - 1 - n % w))).rv va)))

/-- R309, R310 and R381: `redq` gives every participant the root of the tree, `scanq` each its own prefix. R381:
`redq.add` is the sum of the participants' values, `redq.min.u32` the least of them, `redq.max.s32` the greatest. -/
def Obligations.ReduceAndScan : Prop :=
  (∀ (h : Head) (op : BitVec 5) (rm : BitVec 2) (ftz : Bool) (vd va : VReg),
    let ops (x : Ictx) (n : Nat) : Option (Word × Word) := if x.lanes.getLsbD n then some ((x.q.th n).rv va, 0) else none
    let f := reduceOp op.toNat rm ftz
    let put (t : Thread) (r : Option (Word × Word)) : Thread :=
      (t.setReg vd.toNat (r.getD (0, 0)).1).raise (r.getD (0, 0)).2
    Gives (.redq h op rm ftz vd va) (fun x _ t => put t (treeNode f (ops x) 5 0))
    ∧ Gives (.scanq h op rm ftz vd va) (fun x n t => put t (scanNode f (ops x) 5 n)))
  ∧ (∀ (h : Head) (rm : BitVec 2) (ftz : Bool) (vd va : VReg),
    Gives (.redq h 0 rm ftz vd va) (fun x _ t =>
      t.setNat vd (((List.range 32).map (fun n => if x.lanes.getLsbD n then (x.q.th n).u va else 0)).sum))
    ∧ (∃ r : Ictx → Word, Gives (.redq h 4 rm ftz vd va) (fun x _ t => t.setReg vd.toNat (r x))
      ∧ ∀ x, x.lanes ≠ 0 → (∃ n, x.lanes.getLsbD n = true ∧ r x = (x.q.th n).rv va)
        ∧ ∀ n, x.lanes.getLsbD n = true → (r x).toNat ≤ (x.q.th n).u va)
    ∧ (∃ r : Ictx → Word, Gives (.redq h 3 rm ftz vd va) (fun x _ t => t.setReg vd.toNat (r x))
      ∧ ∀ x, x.lanes ≠ 0 → (∃ n, x.lanes.getLsbD n = true ∧ r x = (x.q.th n).rv va)
        ∧ ∀ n, x.lanes.getLsbD n = true → (x.q.th n).i va ≤ (r x).toInt))

/-- R170 and R171: `join`, by the first condition of Table 7.1 that applies. R170, R172, R173 and R385: `leave` and
`gbar` of a quire that is no member, `leave` of a member, and the waits that `gbar` and `pbar` begin. R173: the
arrival that makes ARRIVED equal to MEMBERS completes the phase: GPH rises by 1, ARRIVED is 0 again, and no quire of
the share waits at the group's barrier any more. -/
def Obligations.GroupsAndBarriers : Prop :=
  (∀ (h : Head) (vd : VReg) (o : CountOp),
    let g (x : Ictx) : Nat := x.groupNo o
    let key (x : Ictx) : Nat := groupKey x.q.share (g x)
    let k (x : Ictx) : Core := x.s.core x.core
    let member (x : Ictx) : Prop := g x ∈ x.q.groups
    let full (x : Ictx) : Prop := 4 ≤ x.q.groups.length
    let status (x : Ictx) (n : Nat) : Quire := x.each (fun _ t => t.setNat vd n)
    let joins (x : Ictx) (r : Group) : State :=
      ((x.s.setCore x.core { k x with groups := (k x).groups.set (key x) r }).setQuire x.core x.slot
        { status x 0 with groups := x.q.groups ++ [g x] })
    DoesWhen (.join h vd o) member (fun x => x.put (status x 1))
    ∧ DoesWhen (.join h vd o) (fun x => ¬ member x ∧ full x) (fun x => x.put (status x 2))
    ∧ DoesWhen (.join h vd o) (fun x => ¬ member x ∧ ¬ full x ∧ (k x).groups.find (key x) = none ∧ 64 ≤ (k x).groups.length)
        (fun x => x.put (status x 3))
    ∧ DoesWhen (.join h vd o) (fun x => ¬ member x ∧ ¬ full x ∧ (k x).groups.find (key x) = none ∧ (k x).groups.length < 64)
        (fun x => joins x { members := 1, arrived := 0, gph := 0 })
    ∧ ∀ r : Group,
      DoesWhen (.join h vd o) (fun x => ¬ member x ∧ ¬ full x ∧ (k x).groups.find (key x) = some r ∧ r.arrived = 0
          ∧ 32 ≤ r.members) (fun x => x.put (status x 4))
      ∧ DoesWhen (.join h vd o) (fun x => ¬ member x ∧ ¬ full x ∧ (k x).groups.find (key x) = some r ∧ r.arrived = 0
          ∧ r.members < 32) (fun x => joins x { r with members := r.members + 1 })
      ∧ DoesWhen (.join h vd o) (fun x => ¬ member x ∧ ¬ full x ∧ (k x).groups.find (key x) = some r ∧ r.arrived ≠ 0)
          (fun x =>
            let q := if r.joinq.contains x.slot then r.joinq else r.joinq ++ [x.slot]
            (x.s.setCore x.core { k x with groups := (k x).groups.set (key x) { r with joinq := q } }).setQuire x.core x.slot
              { x.q with waits := x.q.waits ++ [x.waitOf (.join (g x)) vd.toNat] }))
  ∧ (∀ (h : Head) (vd : VReg) (o : CountOp) (id : BitVec 4) (sn : SReg),
    let g (x : Ictx) : Nat := x.groupNo o
    let member (x : Ictx) : Prop := g x ∈ x.q.groups
    let status (x : Ictx) (n : Nat) : Quire := x.each (fun _ t => t.setNat vd n)
    let pending (x : Ictx) : Prop := ∃ w ∈ x.q.waits, w.kind = .gbar (g x)
    DoesWhen (.leave h vd o) (fun x => ¬ member x ∧ ¬ pending x) (fun x => x.put (status x 5))
    ∧ DoesWhen (.leave h vd o) (fun x => member x ∧ ¬ pending x)
        (fun x => (x.put (status x 0)).leaveGroup x.core x.slot (g x))
    ∧ (∀ h' s x, Sees (.leave h vd o) h' s x → pending x →
        exec (.leave h vd o) s = .next (closeWord x.s x (some (.leave h vd o)) true false))
    ∧ DoesWhen (.gbar h vd o) (fun x => ¬ member x) (fun x => x.put (status x 5))
    ∧ DoesWhen (.gbar h vd o) (fun x => member x ∧ ¬ pending x) (fun x =>
        (x.put { x.q with waits := x.q.waits ++ [x.waitOf (.gbar (g x)) vd.toNat] }).startArrival x.core x.slot (g x))
    ∧ DoesWhen (.gbar h vd o) (fun x => member x ∧ pending x) (fun x =>
        let c := ((x.q.waits.find? (QWait.isGbar (g x))).map QWait.counted).getD false
        x.put { x.q with waits := x.q.waits ++ [{ x.waitOf (.gbar (g x)) vd.toNat with counted := c }] })
    ∧ Does (.pbar h vd id sn) (fun x =>
        let w := { x.waitOf (.pbar id.toNat) vd.toNat with count := (x.sh.s sn.toNat).toNat }
        let s := x.put { x.q with waits := x.q.waits ++ [w] }
        let r := { s.releaseSet x.core x.slot none 3 s.fresh with goal := .pbar x.core x.slot id.toNat }
        if s.waitOver r then s.sendPbar x.core x.slot id.toNat else (s.addWait r).2))
  ∧ (∀ (s : State) (c j g : Nat),
    let x := (s.core c).group (s.quire c j).share g
    let t := s.countArrival c j g
    (s.quire c j).live = true → x.joinq = [] →
    (x.arrived + 1 = x.members →
      (t.core c).group (s.quire c j).share g = { x with arrived := 0, gph := x.gph + 1 }
      ∧ ∀ i, i < 64 → (s.quire c i).live = true → (s.quire c i).share = (s.quire c j).share →
          ∀ w ∈ (t.quire c i).waits, w.kind ≠ .gbar g)
    ∧ (x.arrived + 1 ≠ x.members →
      (t.core c).group (s.quire c j).share g = { x with arrived := x.arrived + 1 }
      ∧ ∀ i, i ≠ j → t.quire c i = s.quire c i))

/-- R178 and R179: `regrel` and `regclaim`; CLAIM above 32 blocks. R182 and R387: `sget` of each register, into a
register or pair of each participant or into a scalar register. -/
def Obligations.BlocksAndSpecialRegisters : Prop :=
  (∀ (h : Head) (o : CountOp),
    let n (x : Ictx) : Nat := x.blockNo o
    let k (x : Ictx) : Nat := min (n x) (x.q.blocks - 1)
    let none (x : Ictx) : Prop := ∀ w ∈ x.q.waits, w.isClaim = false
    Does (.regrel h o) (fun x =>
      let keep := 8 * (x.q.blocks - k x)
      let cut (t : Thread) : Thread :=
        { t with v := t.v.filter (fun r => decide (r.1 < keep)), badV := t.badV.filter (fun w => decide (2 * w < keep)) }
      let q := { x.q with blocks := x.q.blocks - k x, threads := x.q.threads.map (fun e => (e.1, cut e.2)) }
      (x.put q).clearBlocks x.core (k x) [])
    ∧ DoesWhen (.regclaim h o) (fun x => n x = 0) (fun x => x.s)
    ∧ DoesWhen (.regclaim h o) (fun x => ¬ none x ∧ n x ≠ 0) (fun x =>
        x.put { x.q with waits := x.q.waits ++ [x.waitOf (.reclaim (n x)) 0] })
    ∧ DoesWhen (.regclaim h o) (fun x => none x ∧ n x ≠ 0 ∧ x.q.blocks + n x ≤ 32) (fun x =>
        ((x.s.setCore x.core { x.s.core x.core with claims := (x.s.core x.core).claims ++ [x.slot] }).setQuire x.core x.slot
          { x.q with waits := x.q.waits ++ [x.waitOf (.claim (n x)) 0] }).dueOnce 0 { unit := x.core } .claimGrant)
    ∧ TrapsWhen (.regclaim h o) (fun x => none x ∧ n x ≠ 0 ∧ 32 < x.q.blocks + n x) .claim (fun x => x.lanes)
        (fun _ => 0) (fun _ => 0))
  ∧ (∀ (h : Head) (vd : VReg),
    let one (sel : BitVec 4) (f : Ictx → Nat → Nat) : Prop :=
      Does (.sget h sel false false vd) (fun x => x.put (x.each (fun n t => t.setNat vd (f x n))))
    let two (sel : BitVec 4) (f : Ictx → Nat → Dword) : Prop :=
      Does (.sget h sel false false vd) (fun x => x.put (x.each (fun n t => t.setPair vd (f x n))))
    let now (x : Ictx) : Dword := BitVec.ofNat 64 (x.s.nowAt (dieOf x.core))
    let launch (x : Ictx) : Dword := BitVec.ofNat 64 ((x.s.launch x.q.lk).lid + (x.s.launch x.q.lk).ctx * 2 ^ 32)
    let scalar (sel : BitVec 4) (f : Ictx → Dword) : Prop :=
      GivesScalar (.sget h sel true false vd) (vd.extractLsb' 0 6) f
    two 0 (fun x n => BitVec.ofNat 64 (32 * x.q.qid + n)) ∧ one 1 (fun _ n => n) ∧ one 2 (fun x _ => x.q.qid)
    ∧ one 3 (fun x _ => x.q.gid) ∧ one 4 (fun x _ => x.q.grp) ∧ one 5 (fun x _ => x.core % 40)
    ∧ one 6 (fun x _ => dieOf x.core) ∧ two 7 (fun x _ => now x) ∧ two 8 (fun x n => (x.q.th n).repc)
    ∧ two 9 (fun x n => (x.q.th n).fpc) ∧ two 10 (fun x n => (x.q.th n).cause)
    ∧ one 11 (fun x n => (x.q.th n).fpsr.toNat) ∧ two 12 (fun x _ => launch x)
    ∧ Does (.sget h 11 false true vd) (fun x =>
        x.put (x.each (fun _ t => { t.setReg vd.toNat t.fpsr with fpsr := 0 })))
    ∧ scalar 2 (fun x => BitVec.ofNat 64 x.q.qid) ∧ scalar 3 (fun x => BitVec.ofNat 64 x.q.gid)
    ∧ scalar 4 (fun x => BitVec.ofNat 64 x.q.grp) ∧ scalar 5 (fun x => BitVec.ofNat 64 (x.core % 40))
    ∧ scalar 6 (fun x => BitVec.ofNat 64 (dieOf x.core)) ∧ scalar 7 now ∧ scalar 12 launch)

-- ## Memory, engines, banks, system

/-- R320, R390, R394, R396 and R399: the issue of `ld`, `st`, `ldp`, `atom` and `red`, one access a participant. R392:
the causes at issue in their order, each with exactly the lanes it holds for. R396 and R397: an `ldp` makes the
accesses that lie in its window; one wholly beyond it reads zero and sets PBND; a window of size 0 raises PARAM. -/
def Obligations.LaneAccesses : Prop :=
  (∀ (h : Head) (vt : VReg) (m : MemFields),
    let n := sizeBytes m.size.toNat
    let ld (_ : Ictx) : AccWord :=
      { kind := .read, space := m.space.toNat, order := m.order.toNat, scope := m.scope.toNat, la := m.la.toNat,
        result := .load m.size.toNat vt.toNat, regs := rBytes n vt }
    let st (_ : Ictx) : AccWord :=
      { kind := .write, space := m.space.toNat, order := m.order.toNat, scope := m.scope.toNat, la := m.la.toNat }
    let atom (x : Ictx) : AccWord := { ld x with kind := .atom, aop := m.aop }
    let red (x : Ictx) : AccWord := { st x with kind := .red, aop := m.aop }
    let off14 : Dword := m.off.signExtend 64
    let off8 : Dword := (m.off.extractLsb' 0 8).signExtend 64
    let all (i : Instr) (w : Ictx → AccWord) (as : Ictx → List LaneAcc) : Prop :=
      WalksWhen i w as ∧ SendsWhen i w as ∧ FaultsWhen i w as
    all (.ld h vt m) ld (fun x => x.accesses m off14 n (fun _ => []))
    ∧ all (.st h vt m) st (fun x => x.accesses m off14 n (fun t => storeBytes t vt.toNat n))
    ∧ all (.atom h vt m) atom (fun x => x.accesses m off8 n (fun t => atomData t vt m))
    ∧ all (.red h vt m) red (fun x => x.accesses m off8 n (fun t => atomData t vt m))
    ∧ ∀ (x : Ictx) (off : Dword) (lane : Nat), ((x.ea m.sb m.vo off lane).toNat : Int)
        = ((x.sh.s m.sb.toNat).toNat + (if m.vo = 255 then 0 else (x.q.th lane).u m.vo) + off.toInt) % 2 ^ 64)
  ∧ (∀ (x : Ictx) (w : AccWord) (as : List LaneAcc), (∀ a ∈ as, a.lane < 32) →
    let share := (x.s.core x.core).shareOf x.q
    let out (a : LaneAcc) : Bool := w.space == 1 && share.outside a
    let off (a : LaneAcc) : Bool := w.leased && w.misaligned a
    let shut (a : LaneAcc) : Bool := w.space == 1 && x.bankShut a
    let beyond (a : LaneAcc) : Bool :=
      (w.space == 0 || w.space == 2) && w.leased && !(x.s.launch x.q.lk).leased a.ea a.size
    (x.accessFault w as = none ↔ ∀ a ∈ as, out a = false ∧ off a = false ∧ shut a = false ∧ beyond a = false)
    ∧ ∀ c m, x.accessFault w as = some (c, m) →
      (c = .bankbound ∧ m = failing as out) ∨ (c = .align ∧ m = failing as off ∧ ∀ a ∈ as, out a = false)
      ∨ (c = .bankmode ∧ m = failing as shut ∧ ∀ a ∈ as, out a = false ∧ off a = false)
      ∨ (c = .lease ∧ m = failing as beyond ∧ ∀ a ∈ as, out a = false ∧ off a = false ∧ shut a = false))
  ∧ (∀ (h : Head) (vt : VReg) (m : MemFields),
    let n := sizeBytes m.size.toNat
    let size (x : Ictx) : Nat := (x.s.launch x.q.lk).rcd.pwSize.getD (m.sb.toNat % 4) 0
    let base (x : Ictx) : Nat := ((x.s.launch x.q.lk).rcd.pwBase.getD (m.sb.toNat % 4) 0).toNat
    let o (x : Ictx) (lane : Nat) : Nat :=
      ((if m.vo = 255 then 0 else ((x.q.th lane).rv m.vo).zeroExtend 64) + m.off.signExtend 64 : Dword).toNat
    let as (x : Ictx) : List LaneAcc := ((lanesOf x.lanes).map (fun lane =>
      ({ lane := lane, ea := base x + o x lane, size := min n (size x - o x lane) } : LaneAcc))).filter
        (fun a => a.size != 0)
    let w (x : Ictx) : AccWord :=
      { kind := .read, la := m.la.toNat, result := .load m.size.toNat vt.toNat, regs := rBytes n vt, leased := false,
        pbnd := maskOf ((lanesOf x.lanes).filter (fun lane => decide (min n (size x - o x lane) < n))) }
    TrapsWhen (.ldp h vt m) (fun x => size x = 0) .param (fun x => x.lanes) (fun _ => 0) (fun _ => 0)
    ∧ (∀ s x, Sees (.ldp h vt m) h s x → size x ≠ 0 → as x ≠ [] → x.misses (as x) →
        ∃ t, exec (.ldp h vt m) s = .next t ∧ (∀ a, t.byte a = s.byte a)
          ∧ ∀ a ∈ as x, ∀ p ∈ piecesOf a.ea a.size, ∃ id, x.s.fresh < id ∧ t.req id = x.reqOf (w x) x.s.fresh a p.1 p.2)
    ∧ ∀ s x, Sees (.ldp h vt m) h s x → size x ≠ 0 → as x = [] → (∀ e ∈ x.s.reqs, e.2.ins ≠ x.s.fresh) →
        (∀ e ∈ x.q.arriving.stale, e.1 ≠ x.s.fresh) →
        ∃ t, exec (.ldp h vt m) s = .next t ∧ (∀ a, t.byte a = s.byte a)
          ∧ ∀ lane, x.lanes.getLsbD lane = true →
            ((t.quire x.core x.slot).th lane).fpsr = (x.q.th lane).fpsr ||| 0x40
            ∧ ∀ k, 4 * k < n → ((t.quire x.core x.slot).th lane).reg (vt.toNat + k) = 0)

/-- R401 and R403: fences and `hflush` of threads with nothing to wait for are performed at once; an acquire sets the
AT values of its scope (R196). R195, R196 and R401: a fence of threads that each have a load outstanding stays
outstanding in each of them. R402: a prefetch outside the leased ranges is dropped without effect; one whose page is
in no TLB is a request that waits for its walk, and no thread has it outstanding. -/
def Obligations.FencesAndPrefetch : Prop :=
  (∀ (h : Head) (sc : BitVec 3) (la : BitVec 4),
    let quiet (x : Ictx) : Prop := x.s.reqs = [] ∧ x.s.waits = []
      ∧ (x.s.die (dieOf x.core)).gwctMax ≤ x.s.nowAt (dieOf x.core)
      ∧ ∀ n, ∀ o ∈ (x.q.th n).outst, o.id ≠ x.s.fresh
    let now (x : Ictx) : Nat := x.s.nowAt (dieOf x.core)
    let acquired (x : Ictx) : State :=
      let q := { x.q with atD := if 2 ≤ sc.toNat then now x else x.q.atD, atP := if 3 ≤ sc.toNat then now x else x.q.atP }
      { x.put q with fresh := x.s.fresh + 1 }
    DoesWhen (.fenceAcq h sc la) quiet acquired
    ∧ DoesWhen (.fenceRel h sc la) quiet (fun x => { x.s with fresh := x.s.fresh + 1 })
    ∧ DoesWhen (.fenceAr h sc la) quiet acquired
    ∧ DoesWhen (.fenceFull h sc la) quiet acquired
    ∧ DoesWhen (.hflush h la) quiet (fun x => { x.s with fresh := x.s.fresh + 1 }))
  ∧ (∀ (i : Instr) (h : Head) (sc : BitVec 3) (la : BitVec 4),
    (i = .fenceAcq h sc la ∨ i = .fenceRel h sc la ∨ i = .fenceAr h sc la ∨ i = .fenceFull h sc la) →
    ∀ s x, Sees i h s x →
      (∀ n, x.lanes.getLsbD n = true → ∃ k r, (k, r) ∈ x.s.reqs ∧ k < x.s.fresh ∧ r.isLoad = true
        ∧ r.ofQuire x.core x.slot = true ∧ x.q.owns r = true ∧ r.lane = n) →
      ∃ t, exec i s = .next t ∧ (∀ a, t.byte a = s.byte a)
        ∧ ∀ n, x.lanes.getLsbD n = true → ((t.quire x.core x.slot).th n).pc = x.pc + 8
          ∧ ∃ o ∈ ((t.quire x.core x.slot).th n).outst, o.id = x.s.fresh ∧ o.la = la.toNat
            ∧ o.acq = decide (i ≠ .fenceRel h sc la))
  ∧ (∀ (h : Head) (dc : Bool) (vo : VReg) (sb : SReg) (off : BitVec 14),
    let ea (x : Ictx) (n : Nat) : Nat := (x.ea sb vo (off.signExtend 64) n).toNat
    let line (x : Ictx) (n : Nat) : Nat := ea x n / 128 * 128
    let l (x : Ictx) : Launch := x.s.launch x.q.lk
    DoesWhen (.prefetch h dc vo sb off)
      (fun x => ∀ n, x.lanes.getLsbD n = true → (l x).leased (ea x n) 1 = false) (fun x => x.s)
    ∧ ∀ s x, Sees (.prefetch h dc vo sb off) h s x →
      (∀ n, x.lanes.getLsbD n = true → (l x).leased (ea x n) 1 = true
        ∧ ∀ e, e ∈ (x.s.core x.core).tlb ∨ e ∈ (x.s.die (dieOf x.core)).tlb → e.covers (l x).ctx (line x n) = false) →
      ∃ t u, exec (.prefetch h dc vo sb off) s = .next t ∧ After x u t (fun _ => x.pc + 8)
        ∧ u = { x.s with reqs := u.reqs, walks := u.walks, agenda := u.agenda, fresh := u.fresh }
        ∧ ∀ n, x.lanes.getLsbD n = true → ∃ id, x.s.fresh ≤ id ∧ (u.req id).prefetch = true ∧ (u.req id).dieOnly = dc
          ∧ (u.req id).va = line x n ∧ (u.req id).size = 128 ∧ (u.req id).stage = .walk)

/-- R273 and R405: a copy word makes vs pending, unless it is s0, and hands the engine one command with the scalar
registers as they stand. R272 and R274: an accepted command stands last in its core's list with its chunks of 4,096
bytes to do, or, where it breaks a limit of Table 12.1, failed with ENGINE before it writes anything. -/
def Obligations.CopyWordsAndCommands : Prop :=
  (∀ (h : Head) (db : Bool) (c : CopyFields),
    let hands (kind : CmdKind) (b : Bool) (x : Ictx) : State :=
      let q := if c.vs = 0 then x.q else { x.q with pend := c.vs.toNat :: x.q.pend }
      (x.put q).acceptCmd x.core
        { kind := kind, db := b, sa := x.sh.s c.sa.toNat, sd := x.sh.s c.sd.toNat, sl := x.sh.s c.sl.toNat,
          sl1 := x.sh.s (c.sl.toNat + 1), fs := x.fslot c.fslot, vs := c.vs.toNat, acq := c.acq, rel := c.rel,
          scope := c.scope.toNat, lk := x.q.lk, slot := x.slot, qid := x.q.qid, gid := x.q.gid, share := x.q.share,
          pc := x.pc, lanes := x.lanes }
    Does (.cp h db c) (hands .cp db) ∧ Does (.cp2d h db c) (hands .cp2d db) ∧ Does (.cpfill h db c) (hands .cpfill db)
    ∧ Does (.cpbank h db c) (hands .cpbank db) ∧ Does (.cpretile h c) (hands .cpretile true)
    ∧ Does (.cpkey h c) (hands .cpkey true))
  ∧ (∀ (s : State) (c : Nat) (x : Cmd), x.kind = .cp ∨ x.kind = .cp2d ∨ x.kind = .cpfill ∨ x.kind = .cpbank →
    x.acq = false → (∀ y ∈ (s.core c).cmds, y.id ≠ s.fresh) →
    let t := s.acceptCmd c x
    let y := { x with id := s.fresh, number := (s.core c).accepted.get 0 x.lk, ready := true }
    let n := (x.len + 4095) / 4096
    (x.fits (s.launch x.lk).rcd.nbank = true → (t.core c).cmds = (s.core c).cmds ++ [{ y with nchunks := n, todo := List.range n }])
    ∧ (x.fits (s.launch x.lk).rcd.nbank = false →
        let e := x.failed.getD .engine
        let a := if x.failed.isNone then 0 else x.addr
        (t.core c).cmds = (s.core c).cmds ++ [{ y with failed := some e, addr := a, todo := [], stolen := [] }])
    ∧ (∀ a, t.byte a = s.byte a) ∧ ∀ d, d ≠ c → (t.core d).cmds = (s.core d).cmds)

/-- R285-R288 and R408: the queue words on a binding of the right end; PARAM on any other, QUOTA on a full queue with
a ring. R285 and R287: a pushed slot holds the participants' registers and zero for every other lane; a pop takes the
slot at the head of queue SRAM, is outstanding in each participant, and brings each its own four bytes, which arrive 8
cycles later. That `qtry` writes its predicate in the participants only is the model's choice (log entry 35). -/
def Obligations.QueueWordsAndSlots : Prop :=
  (∀ (h : Head) (n : BitVec 2) (pd : PReg) (va vd : VReg) (sd : SReg) (b : Bool) (sc : BitVec 3) (la : BitVec 4) (q : Nat),
    let full (x : Ictx) : Prop := (x.s.queue q).nslot + (x.s.queue q).quota ≤ (x.s.queue q).occ
    let at_ (e : Bool) (x : Ictx) : Prop := x.endOf n e = some q
    let poppable (x : Ictx) : Prop := x.endOf n true = some q ∧ (x.s.queue q).headBad = false
    let all (x : Ictx) : Lanes := x.lanes
    let zero (_ : Ictx) : Nat := 0
    DoesWhen (.qpush h n va b sc la) (fun x => at_ false x ∧ ¬ full x) (fun x => x.pushSlot x.s q va b sc.toNat)
    ∧ TrapsWhen (.qpush h n va b sc la) (fun x => at_ false x ∧ full x) .quota all zero (fun _ => q)
    ∧ TrapsWhen (.qpush h n va b sc la) (fun x => x.endOf n false = none) .param all zero zero
    ∧ DoesWhen (.qpop h n vd b sc la) poppable (fun x => x.popSlot x.s q vd b sc.toNat la.toNat)
    ∧ TrapsWhen (.qpop h n vd b sc la) (fun x => x.endOf n true = none) .param all zero zero
    ∧ DoesWhen (.qtryPush h n pd va b sc la) (fun x => at_ false x ∧ ¬ full x)
        (fun x => x.setPd (x.pushSlot x.s q va b sc.toNat) pd true)
    ∧ DoesWhen (.qtryPush h n pd va b sc la) (fun x => at_ false x ∧ full x)
        (fun x => x.put (x.each (fun _ t => t.setPred pd.toNat false)))
    ∧ DoesWhen (.qtryPop h n pd vd b sc la) (fun x => poppable x ∧ (x.s.queue q).sram ≠ [])
        (fun x => x.setPd (x.popSlot x.s q vd b sc.toNat la.toNat) pd true)
    ∧ DoesWhen (.qtryPop h n pd vd b sc la) (fun x => at_ true x ∧ (x.s.queue q).sram = [])
        (fun x => x.put (x.each (fun _ t => t.setPred pd.toNat false)))
    ∧ (∀ e, DoesWhen (.qstat h n sd la) (fun x => x.s.binding x.q n.toNat = some (q, e))
        (fun x => x.put (x.q.setS sd.toNat (BitVec.ofNat 64 ((x.s.queue q).word e)))))
    ∧ TrapsWhen (.qstat h n sd la) (fun x => x.s.binding x.q n.toNat = none) .param all zero zero)
  ∧ (∀ (x : Ictx) (s : State) (n : Nat) (va vd : VReg) (acq : Bool) (sc la : Nat) (bs : List Byte) (bad : Bool)
    (rest : List (List Byte × Bool)),
    (x.slotOf va).length = 128
    ∧ (∀ i, i < 32 → leNat (slice (x.slotOf va) (4 * i) 4) = if x.lanes.getLsbD i then (x.q.th i).u va else 0)
    ∧ ((s.queue n).sram = (bs, bad) :: rest → (s.quire x.core x.slot).live = true →
        let t := x.popSlot s n vd acq sc la
        let y : Ins := t.ins.get {} s.fresh
        (t.queue n).sram = rest ∧ SameRegs s t ∧ y.result = .load 2 vd.toNat ∧ y.core = x.core ∧ y.slot = x.slot
        ∧ y.lanes = x.lanes
        ∧ t.isDue (s.ticksTo (s.cycle + s.parts x.core 8)) { unit := s.fresh, sub := 1 } .dataArrive
        ∧ ∀ i, x.lanes.getLsbD i = true → leNat (y.buf.getMany 0 (64 * i) 4) = leNat (slice bs (4 * i) 4)
          ∧ ∃ o ∈ ((t.quire x.core x.slot).th i).outst, o.id = s.fresh ∧ o.la = la ∧ o.regs = [vd.toNat]))

/-- R410, R411 and R413-R422: a bank word whose bank lies in the share, and whose mode and operands serve, becomes one
item of its bank's order; BANKBOUND, BANKMODE, PARAM or CODEX where they do not. R214, R413 and R415: `bmode` begins a
transition to the other mode at once, and is nothing towards the mode the bank is in or already heads for; towards the
mode that a transition leaves it waits at the issue port (R214). `bwait` ends at once when what it waits for is
performed, and is outstanding otherwise. -/
def Obligations.BankWordsAndModes : Prop :=
  (∀ (h : Head) (bank : BitVec 4) (what kv : BitVec 4) (fslot spos g0 ng1 w : BitVec 3) (blk l0 b0 nb1 : BitVec 5)
    (hi clr : Bool) (cx : BitVec 6) (vd va vb : VReg) (la : BitVec 4),
    let inside (x : Ictx) : Prop := bank.toNat < ((x.s.core x.core).shareOf x.q).banks.length
    let m (x : Ictx) : BMode := (x.s.bank x.core ((x.s.core x.core).physBank x.q bank.toNat)).mode
    let computes (x : Ictx) : Prop := inside x ∧ m x ≠ .storage ∧ m x ≠ .toStor
    let item (x : Ictx) (w : Work) (o : Option Outst) : State := x.pushWork x.s bank.toNat w o
    let ef (x : Ictx) : Nat := slotEF (x.fslot fslot)
    let all (x : Ictx) : Lanes := x.lanes
    let zero (_ : Ictx) : Nat := 0
    let outside (i : Instr) : Prop := TrapsWhen i (fun x => ¬ inside x) .bankbound all zero zero
    let storage (i : Instr) : Prop :=
      TrapsWhen i (fun x => inside x ∧ (m x = .storage ∨ m x = .toStor)) .bankmode all zero zero
    let keyOk (x : Ictx) : Prop := kv.toNat < formKeys (ef x)
    let keyReg (x : Ictx) : Prop :=
      keyOk x ∧ posOk (fmtBits (ef x)) spos.toNat = true ∧ regOk (fmtBits (ef x)) va = true
    let start (x : Ictx) : Work := .bexec cx.toNat ((List.range 4).map (fun n => (x.q.th n).u va % 1024))
      ((x.q.th 4).u va % 256) ((x.q.th 5).u va % 256) ((List.range 256).map (fun j =>
        if vb = 255 then 0 else (x.q.v (j % 128 / 4) (vb.toNat + j / 128)).toNat / 2 ^ (8 * (j % 4)) % 2 ^ 8)) vd.toNat
    DoesWhen (.bclr h bank what la) inside (fun x => item x (.bclr what) none) ∧ outside (.bclr h bank what la)
    ∧ DoesWhen (.bkscale h bank va kv hi l0 b0 la) inside (fun x =>
        item x (.bkscale kv.toNat (((List.range 32).filter (fun n => x.lanes.getLsbD n && decide (l0.toNat ≤ n)
          && decide (b0.toNat + n - l0.toNat ≤ 31))).map (fun n =>
            (b0.toNat + n - l0.toNat, ((x.q.th n).rv va).extractLsb' (if hi then 16 else 0) 10)))) none)
    ∧ outside (.bkscale h bank va kv hi l0 b0 la)
    ∧ outside (.bkey h bank fslot va kv spos blk la) ∧ outside (.bmvm h bank fslot kv g0 ng1 b0 nb1 la)
    ∧ outside (.bexec h bank cx vd va vb la)
    ∧ DoesWhen (.bkey h bank fslot va kv spos blk la) (fun x => inside x ∧ keyReg x) (fun x =>
        let elems := (List.range 32).map (fun n =>
          if x.lanes.getLsbD n then
            ((x.q.th n).at (fmtBits (ef x)) spos.toNat va, drawOf (lfsrDraw (x.q.th n).lfsr), true)
          else (0, 0, false))
        (item x (.bkey (x.fslot fslot) kv.toNat blk.toNat elems) none).setQuire x.core x.slot
          (if slotRND (x.fslot fslot) = 2 then x.each (fun _ t => { t with lfsr := lfsrDraw t.lfsr }) else x.q))
    ∧ TrapsWhen (.bkey h bank fslot va kv spos blk la) (fun x => inside x ∧ ¬ keyReg x) .param all zero zero
    ∧ DoesWhen (.bmvm h bank fslot kv g0 ng1 b0 nb1 la) (fun x => computes x ∧ keyOk x) (fun x =>
        item x (.bmvm (x.fslot fslot) kv.toNat g0.toNat (ng1.toNat + 1) b0.toNat (nb1.toNat + 1))
          (some { la := la.toNat, reason := .bank }))
    ∧ storage (.bmvm h bank fslot kv g0 ng1 b0 nb1 la)
    ∧ TrapsWhen (.bmvm h bank fslot kv g0 ng1 b0 nb1 la) (fun x => computes x ∧ ¬ keyOk x) .param all zero zero
    ∧ DoesWhen (.bexec h bank cx vd va vb la) (fun x => computes x ∧ (x.s.core x.core).mayExec x.q.lk cx.toNat = true)
        (fun x => item x (start x) (some { la := la.toNat, reason := .bank, regs := [vd.toNat] }))
    ∧ storage (.bexec h bank cx vd va vb la)
    ∧ TrapsWhen (.bexec h bank cx vd va vb la) (fun x => computes x ∧ (x.s.core x.core).mayExec x.q.lk cx.toNat = false)
        .codex all zero zero
    ∧ DoesWhen (.bacc h bank fslot vd w clr la) inside (fun x => item x (.bacc (x.fslot fslot) w.toNat clr vd.toNat)
        (some { la := la.toNat, reason := .bank, fpDone := true, regs := [vd.toNat] }))
    ∧ outside (.bacc h bank fslot vd w clr la))
  ∧ (∀ (h : Head) (bank : BitVec 4) (c all : Bool) (la : BitVec 4),
    let k (x : Ictx) : Core := x.s.core x.core
    let inside (x : Ictx) : Prop := bank.toNat < ((k x).shareOf x.q).banks.length
    let b (x : Ictx) : Nat := (k x).physBank x.q bank.toNat
    let mode (x : Ictx) : BMode := (x.s.bank x.core (b x)).mode
    let there : BMode := if c then .compute else .storage
    let away : BMode := if c then .storage else .compute
    let heading : BMode := if c then .toComp else .toStor
    let leaving : BMode := if c then .toStor else .toComp
    let bs (x : Ictx) : List Nat := if all then ((k x).shareOf x.q).banks else [b x]
    let past (x : Ictx) : Prop := ∀ n ∈ bs x, x.s.bwaitOver x.core x.slot x.s.fresh n = true
    DoesWhen (.bmode h bank c la) (fun x => inside x ∧ (mode x = there ∨ mode x = heading)) (fun x => x.s)
    ∧ (∀ s x, s.issuing h = some x → x.lanes ≠ 0 → inside x → mode x = leaving → pathHeld x = false →
        coverStalls x h (.bmode h bank c la) = false → illegalWord x h (.bmode h bank c la) = false →
        exec (.bmode h bank c la) s = .next (stallPort s x.core))
    ∧ DoesWhen (.bmode h bank c la) (fun x => inside x ∧ mode x = away) (fun x =>
        x.pushWork (x.s.setBank x.core (b x) { x.s.bank x.core (b x) with mode := heading })
          bank.toNat (.conv c) none)
    ∧ TrapsWhen (.bmode h bank c la) (fun x => ¬ inside x) .bankbound (fun x => x.lanes) (fun _ => 0) (fun _ => 0)
    ∧ TrapsWhen (.bwait h bank all la) (fun x => ¬ inside x) .bankbound (fun x => x.lanes) (fun _ => 0) (fun _ => 0)
    ∧ DoesWhen (.bwait h bank all la) (fun x => inside x ∧ past x) (fun x => { x.s with fresh := x.s.fresh + 1 })
    ∧ DoesWhen (.bwait h bank all la) (fun x => inside x ∧ ¬ past x) (fun x =>
        let o : Outst := { id := x.s.fresh, la := la.toNat, reason := .bank, fpDone := true, banks := bs x, pc := x.pc }
        { x.put (x.each (fun _ t => { t with outst := t.outst ++ [{ o with idx := t.issued }] })) with
          fresh := x.s.fresh + 1 }))

/-- R250 and R420: a micro-operation word that is well formed for its mnemonic becomes an item with its column
pointers; CODEX otherwise, after BANKBOUND and BANKMODE (R411). R421: `bcodex` names a slot of the launch, or a free
one. R252 keeps new owners from a slot that a launch under restore holds (R123); that the word then raises CODEX is
the model's choice (log entry 27). -/
def Obligations.MicroWords : Prop :=
  ∀ (h : Head) (bank : BitVec 4) (vd : VReg) (sa sb : SReg) (cx : BitVec 6) (la : BitVec 4),
    let k (x : Ictx) : Core := x.s.core x.core
    let mode (x : Ictx) : BMode := (x.s.bank x.core ((k x).physBank x.q bank.toNat)).mode
    let inside (x : Ictx) : Prop := bank.toNat < ((k x).shareOf x.q).banks.length
    let computes (x : Ictx) : Prop := inside x ∧ mode x ≠ .storage ∧ mode x ≠ .toStor
    let word (x : Ictx) : Dword := x.sh.s sa.toNat
    let ok (op : Nat) (x : Ictx) : Prop := computes x ∧ wordOk 256 (word x) = true ∧ mwOp (word x) = op
    let notOk (op : Nat) (x : Ictx) : Prop := computes x ∧ ¬ (wordOk 256 (word x) = true ∧ mwOp (word x) = op)
    let does (op : Nat) (d : Option VReg) (i : Instr) : Prop :=
      DoesWhen i (ok op) (fun x =>
        x.pushWork x.s bank.toNat (.micro (word x)
          ((List.range 4).map (fun n => (x.sh.s sb.toNat).toNat / 2 ^ (16 * n) % 2 ^ 10)) (d.map (·.toNat)))
          (d.map (fun r => { la := la.toNat, reason := .bank, fpDone := true, regs := [r.toNat] })))
      ∧ TrapsWhen i (notOk op) .codex (fun x => x.lanes) (fun _ => 0) (fun _ => 0)
      ∧ TrapsWhen i (fun x => ¬ inside x) .bankbound (fun x => x.lanes) (fun _ => 0) (fun _ => 0)
      ∧ TrapsWhen i (fun x => inside x ∧ (mode x = .storage ∨ mode x = .toStor)) .bankmode (fun x => x.lanes) (fun _ => 0)
          (fun _ => 0)
    let owner (x : Ictx) : Option Nat := ((k x).codex.get {} cx.toNat).owner
    let n (x : Ictx) : Nat := (x.sh.s sb.toNat).toNat
    let reserved (x : Ictx) : Prop := ∃ r, x.s.restoring = some r ∧ r ≠ x.q.lk
      ∧ ∃ y ∈ (x.s.launch r).saved, y.core = x.core ∧ ∃ e ∈ y.codex, e.1 = cx.toNat
    let free (x : Ictx) : Prop := (owner x = none ∨ owner x = some x.q.lk) ∧ ¬ reserved x
    does 0 none (.bcw h bank sa sb la) ∧ does 1 none (.bct h bank sa sb la) ∧ does 2 none (.btw h bank sa sb la)
    ∧ does 3 none (.btt h bank sa sb la) ∧ does 4 (some vd) (.bcnt h bank vd sa sb la)
    ∧ does 5 (some vd) (.bfirst h bank vd sa sb la)
    ∧ TrapsWhen (.bcodex h cx sa sb la) (fun x => (word x).toNat % 8 ≠ 0) .align (fun x => x.lanes)
        (fun x => (word x).toNat) (fun _ => 0)
    ∧ TrapsWhen (.bcodex h cx sa sb la) (fun x => (word x).toNat % 8 = 0 ∧ ¬ free x) .codex
        (fun x => x.lanes) (fun _ => 0) (fun _ => 0)
    ∧ DoesWhen (.bcodex h cx sa sb la)
        (fun x => (word x).toNat % 8 = 0 ∧ free x ∧ (n x = 0 ∨ 256 < n x)) (fun x =>
        let y : CxSlot := { (k x).codex.get {} cx.toNat with owner := some x.q.lk, writing := some ([], x.s.fresh) }
        let o : Outst := { id := x.s.fresh, la := la.toNat, reason := .mem, codex := true }
        let q := x.q.mapLanes (lanesOf x.lanes) (fun _ t =>
          { t with outst := t.outst.map (fun o => if o.id = x.s.fresh then { o with codex := true } else o)
              ++ [{ o with idx := t.issued }] })
        (({ (x.s.setCore x.core { k x with codex := (k x).codex.set cx.toNat y }) with
            fresh := x.s.fresh + 1 }).setQuire x.core x.slot q).due 0
          { unit := x.core, sub := cx.toNat, item := x.s.fresh } .bcodexAccept)
    ∧ ∀ s x, Sees (.bcodex h cx sa sb la) h s x → (word x).toNat % 8 = 0 → free x →
        1 ≤ n x → n x ≤ 256 →
        (∀ j, j < n x → (x.s.launch x.q.lk).leased (((word x).toNat + 8 * j) % 2 ^ 64) 8 = true
          ∧ ∀ e, e ∈ (x.s.core x.core).tlb ∨ e ∈ (x.s.die (dieOf x.core)).tlb →
            e.covers (x.s.launch x.q.lk).ctx (((word x).toNat + 8 * j) % 2 ^ 64) = false) →
        ∃ t, exec (.bcodex h cx sa sb la) s = .next t ∧ (∀ a, t.byte a = s.byte a)
          ∧ (((t.core x.core).codex.get {} cx.toNat).owner = some x.q.lk)
          ∧ ∀ j, j < n x → ∃ id, (t.req id).va = ((word x).toNat + 8 * j) % 2 ^ 64 ∧ (t.req id).size = 8
            ∧ (t.req id).ins = x.s.fresh ∧ (t.req id).stage = .walk

/-- R424, R425 and R426: `sysrd` writes the register's value; `syswr` of a register a launch may write, and PRIV for
any other, TLBINV and the capability registers among them. Tables 1.3, 2.4, 3.8, 3.10, 3.12, 3.13, 8.7, 11.2, 19.6 and
19.7: what system registers read as; the stepping in CAPDEV is the model's free constant (log entry 5). R270, R429 and
R430: `bunbind` unbinds the loops of its share, `bindnow` asks for a build of the loop at a label; what both do to the
heat table and to the folios (R254, R263). -/
def Obligations.SystemRegistersAndBinderWords : Prop :=
  (∀ (h : Head) (num : BitVec 12) (sd sa : SReg),
    let k (x : Ictx) : Core := x.s.core x.core
    let v (x : Ictx) : Dword := x.sh.s sa.toNat
    let n := num.toNat
    let writable : Prop := n = 0x001 ∨ n = 0x002 ∨ n = 0x005 ∨ (0x010 ≤ n ∧ n < 0x018)
    Does (.sysrd h sd num) (fun x => x.put (x.q.setS sd.toNat (BitVec.ofNat 64 (x.s.sysreg x.core x.q.lk n))))
    ∧ DoesWhen (.syswr h num sa) (fun _ => n = 0x001) (fun x =>
        (x.s.setCore x.core { k x with heatReg := BitVec.ofNat 16 (v x).toNat }).invalidate x.core (fun _ => true) false)
    ∧ DoesWhen (.syswr h num sa) (fun _ => n = 0x002) (fun x =>
        x.s.setCore x.core { k x with bindSel := BitVec.ofNat 4 (v x).toNat })
    ∧ DoesWhen (.syswr h num sa) (fun _ => n = 0x005) (fun x =>
        x.s.setCore x.core { k x with racva := BitVec.ofNat 52 (v x).toNat })
    ∧ DoesWhen (.syswr h num sa) (fun _ => 0x010 ≤ n ∧ n < 0x018) (fun x =>
        x.s.writeWayres (dieOf x.core) (n - 0x010) (x.s.launch x.q.lk).ctx (v x))
    ∧ TrapsWhen (.syswr h num sa) (fun _ => ¬ writable) .priv (fun x => x.lanes) (fun _ => 0) (fun _ => 0)
    ∧ TrapsWhen (.syswr h 0x107 sa) (fun _ => True) .priv (fun x => x.lanes) (fun _ => 0) (fun _ => 0))
  ∧ (∀ (s : State) (c lk n : Nat), n < 8 →
    let w : WayRes := (s.die (dieOf c)).wayres.get {} n
    s.sysreg c lk 0x000 = s.islandMhz (islandOf c) + islandOf c * 2 ^ 16
    ∧ s.sysreg c lk 0x001 = (s.core c).heatReg.toNat ∧ s.sysreg c lk 0x002 = (s.core c).bindSel.toNat
    ∧ s.sysreg c lk 0x005 = (s.core c).racva.toNat
    ∧ s.sysreg c lk (0x010 + n) = w.base + w.size * 2 ^ 31 + w.ways * 2 ^ 47 + w.k * 2 ^ 51 + w.ctx * 2 ^ 56
    ∧ s.sysreg c lk 0x104 = s.leaseCap.toNat ∧ s.sysreg c lk 0x105 = s.margin.toNat
    ∧ s.sysreg c lk 0x106 = s.sweepPeriod.toNat
    ∧ (((s.core c).heatAt (s.core c).bindSel.toNat).lk ≠ lk → s.sysreg c lk 0x003 = 0 ∧ s.sysreg c lk 0x004 = 0)
    ∧ s.sysreg c lk 0x100 = 16 + 40 * 2 ^ 8 + 12 * 2 ^ 16 + 512 * 2 ^ 20 + 4 * 2 ^ 32 + 16 * 2 ^ 36 + 64 * 2 ^ 44
        + Config.step.toNat * 2 ^ 52
    ∧ s.sysreg c lk 0x101 = 6 + 5 * 2 ^ 4 + 4 * 2 ^ 8 + 3 * 2 ^ 12 + 3 * 2 ^ 16
    ∧ (∃ m, s.sysreg c lk 0x102 = s.geomMdie.toNat + m * 2 ^ 8 + s.geomAnnex.toNat * 2 ^ 16 + s.geomGen.toNat * 2 ^ 32
        ∧ m ≤ 32 ∧ (∀ k, k < 8 → s.geomMdie.getLsbD k = true → m ≤ s.chans k)
        ∧ (m = 32 ∨ ∃ k, k < 8 ∧ s.geomMdie.getLsbD k = true ∧ m = s.chans k))
    ∧ s.sysreg c lk 0x103 = s.domDev.toNat + s.domValid.toNat * 2 ^ 16 + s.domUp.toNat * 2 ^ 32
    ∧ s.sysreg c lk 0x107 = (s.tlbinv.get {} 0).ign.toNat * 2 ^ 59 + (s.tlbinv.get {} 0).pend.toNat * 2 ^ 63)
  ∧ (∀ (s : State) (c lk : Nat),
    let va := (s.core c).racva.toNat
    let l := s.launch lk
    let away : Prop := s.peek l.ctx va = none ∨ l.leased va 1 = false
      ∨ ∃ pa e, s.peek l.ctx va = some (pa, e) ∧ (2 ≤ leafPlc e ∨ ∀ m, s.homeOf pa ≠ .hbm m)
    (away → s.sysreg c lk 0x006 = 0)
    ∧ ∀ pa e m, s.peek l.ctx va = some (pa, e) → s.homeOf pa = .hbm m → l.leased va 1 = true → leafPlc e ≤ 1 →
      let r : Rac := s.rac.get {} (pa / 4096)
      s.sysreg c lk 0x006 = r.loc.toNat + r.rem.toNat * 2 ^ 24 + r.last.toNat * 2 ^ 48 + m * 2 ^ 60 + 2 ^ 63)
  ∧ (∀ (h : Head) (off : BitVec 21),
    Does (.bunbind h) (fun x => x.s.invalidate x.core (fun e => e.share == x.q.share) false)
    ∧ Does (.bindnow h off) (fun x =>
        x.s.requestBuild x.core x.slot (x.pc + BitVec.ofInt 64 (8 * off.toInt))))
  ∧ (∀ (s : State) (c : Nat) (f : Heat → Bool),
    let t := s.invalidate c f false
    let k := s.core c
    let hit (n : Nat) : Prop := n < 16 ∧ f (k.heatAt n) = true ∧ (k.heatAt n).state ≠ .empty
    (∀ a, t.byte a = s.byte a) ∧ SameRegs s t
    ∧ (∀ n, hit n → (k.heatAt n).state = .bound →
        (t.core c).heatAt n = { k.heatAt n with state := .counting, count := 0, requested := false })
    ∧ (∀ n, hit n → (k.heatAt n).state = .building →
        (t.core c).heatAt n = { k.heatAt n with state := .counting, count := 0, requested := false, reason := 11 })
    ∧ (∀ n, ¬ (hit n ∧ ((k.heatAt n).state = .bound ∨ (k.heatAt n).state = .building)) →
        (t.core c).heatAt n = k.heatAt n)
    ∧ (∀ n, k.building = some n → hit n → (t.core c).building = none)
    ∧ ∀ n y, k.folios.find n = some y → y.valid = true → hit y.entry →
      ((∀ r, k.resident = some r → r.folio ≠ n) → (t.core c).folios.find n = none)
      ∧ ∀ r, k.resident = some r → r.folio = n →
        (t.core c).resident = some { r with draining := true } ∧ ((t.core c).folios.get {} n).valid = false)
  ∧ (∀ (s : State) (c j : Nat) (hdr : Dword),
    let t := s.requestBuild c j hdr
    let k := s.core c
    let sh := (s.quire c j).share
    (∀ a, t.byte a = s.byte a) ∧ SameRegs s t
    ∧ (∀ n, k.heatFor sh hdr = some n →
      ((k.heatAt n).state = .counting → (t.core c).heat = k.heat.set n { k.heatAt n with requested := true })
      ∧ ((k.heatAt n).state ≠ .counting → t = s))
    ∧ (k.heatFor sh hdr = none →
      (k.newHeat = none → t = s)
      ∧ ∀ n, k.newHeat = some n → (t.core c).heat = k.heat.set n
          { state := .counting, share := sh, lk := (s.quire c j).lk, header := hdr, requested := true, raised := s.cycle }))
  ∧ (∀ (k : Core) (sh : Nat) (hdr : Dword),
    let mine (n : Nat) : Prop := (k.heatAt n).state ≠ .empty ∧ (k.heatAt n).share = sh ∧ (k.heatAt n).header = hdr
    (∀ n, k.heatFor sh hdr = some n → n < 16 ∧ mine n) ∧ (k.heatFor sh hdr = none → ∀ n, n < 16 → ¬ mine n)
    ∧ (∀ n, k.newHeat = some n → n < 16 ∧ ((k.heatAt n).state = .empty
        ∨ ((∀ m, m < 16 → (k.heatAt m).state ≠ .empty) ∧ (k.heatAt n).state = .counting
          ∧ ∀ m, m < 16 → (k.heatAt m).state = .counting → (k.heatAt n).raised ≤ (k.heatAt m).raised)))
    ∧ (k.newHeat = none → ∀ m, m < 16 → (k.heatAt m).state ≠ .empty ∧ (k.heatAt m).state ≠ .counting))

/-- R144, R427 and R428: `trap` and `brk` raise USER, `brk` only in a launch with a handler and outside it; `eret`
goes on at %repc, `eret.next` behind the faulting word or at it with NP, in a handler only. R143 and Table 6.2: a
fault with handler disposition takes every stopped thread to CODE + HANDLER, its handler flag set, %fpc at the word
and %cause written, its registers as they were; no byte of memory changes. R145: a fatal cause, a launch without a
handler, and a fault in the handler end the launch: the fault goes to X-die 0 and no thread enters the handler. -/
def Obligations.TrapsHandlersAndFatalFaults : Prop :=
  (∀ (h : Head) (imm : BitVec 16),
    let all (x : Ictx) : Lanes := x.lanes
    let zero (_ : Ictx) : Nat := 0
    let inside (x : Ictx) : Prop := ∀ n, x.lanes.getLsbD n = true → (x.q.th n).handler = true
    let outside (x : Ictx) : Prop := ∀ n, x.lanes.getLsbD n = true → (x.q.th n).handler = false
    let none (x : Ictx) : Prop := (x.s.launch x.q.lk).rcd.handler = noHandler
    let goes (x : Ictx) (f : Thread → Dword) : State :=
      x.put (x.q.mapLanes (lanesOf x.path) (fun n t =>
        if x.lanes.getLsbD n then { t with handler := false, pc := f t } else { t with pc := x.pc + 8 }))
    let next (t : Thread) : Dword :=
      if t.cause.toNat / 2 ^ 8 % 4 = 0 then (if t.cause.getLsbD 11 then t.fpc else t.fpc + 8) else t.repc
    let bad (x : Ictx) : Lanes := maskOf ((List.range 32).filter (fun n => x.lanes.getLsbD n && !(x.q.th n).handler))
    TrapsWhen (.trap h imm) (fun _ => True) .user all zero zero
    ∧ TrapsWhen (.brk h imm) (fun x => ¬ none x ∧ outside x) .user all zero zero
    ∧ DoesWhen (.brk h imm) (fun x => none x ∨ ¬ outside x) (fun x => x.s)
    ∧ JumpsWhen (.eret h) inside (fun x => goes x Thread.repc)
    ∧ TrapsWhen (.eret h) (fun x => ¬ inside x) .priv bad zero zero
    ∧ JumpsWhen (.eretNext h) inside (fun x => goes x next)
    ∧ TrapsWhen (.eretNext h) (fun x => ¬ inside x) .priv bad zero zero)
  ∧ (∀ (s : State) (c j addr detail : Nat) (lanes : Lanes) (p : Pend),
    let q := s.quire c j
    let l := s.launch q.lk
    p.cause.isFatal = false → p.cause ≠ .ecc → l.rcd.handler ≠ noHandler → (s.core c).resident = none → p.deliv < 4 →
    (∀ n, p.mask.getLsbD n = true → (q.th n).handler = false) →
    let t := s.takeFault c j lanes p addr detail
    (∀ a, t.byte a = s.byte a) ∧ (t.quire c j).sr = q.sr ∧ t.launches = s.launches
    ∧ ∀ n, n < 32 →
      let u := (t.quire c j).th n
      if lanes.getLsbD n then
        u.handler = true ∧ u.pc = l.rcd.code + BitVec.ofNat 64 l.rcd.handler ∧ u.fpc = p.fpc
        ∧ u.cause.toNat = p.cause.code + p.deliv * 2 ^ 8 + (p.mask.getLsbD n).toNat * 2 ^ 10 + p.np.toNat * 2 ^ 11
            + p.mask.toNat * 2 ^ 32
        ∧ u.v = (q.th n).v ∧ u.p = (q.th n).p ∧ u.fpsr = (q.th n).fpsr ∧ u.repc = (q.th n).repc
      else u = q.th n)
  ∧ (∀ (s : State) (c j addr detail : Nat) (lanes : Lanes) (p : Pend),
    let q := s.quire c j
    let l := s.launch q.lk
    (s.core c).resident = none →
    (p.cause.isFatal = true ∨ l.rcd.handler = noHandler
      ∨ ∃ n, p.mask.getLsbD n = true ∧ lanes.getLsbD n = true ∧ (q.th n).handler = true) →
    let t := s.takeFault c j lanes p addr detail
    (∀ a, t.byte a = s.byte a) ∧ (t.quire c j) = q
    ∧ (∃ r : FaultRec, t.fatal = s.fatal ++ [(q.lk, r)] ∧ r.cause = p.cause ∧ r.isFatal = true ∧ r.mask = p.mask
        ∧ r.fpc = p.fpc ∧ r.addr = addr ∧ r.detail = detail)
    ∧ ∃ d ∈ t.agenda, d.what = .launchFatal ∧ d.here.unit = q.lk ∧ d.tick ≤ s.now)

-- ## Device steps: memory, launches, scheduling

/-- R186, R185: READ at a home other than host memory answers with the line's value; host memory is read first. R190,
R86: WRITE and WMASK at a home that need not ask the host put their bytes there and no others; a line the host may
cache is asked for first, and written with the host's answer. R191, R399, R24: an atomic at its home reads and writes
as one step; one with return is not applied to a poisoned line, nor where another of its instruction has met an error
(R141). The 1,440 ticks of a host read and the 1,000 ticks of the host's answer to a snoop, and when the host may hold
a line, are the model's choice (notes/assumptions/3 and 32.md). -/
def Obligations.RequestsAtHome : Prop :=
  ((∀ s id r, AtHome s id r → r.kind = .read → isRegArea r.pa = false → s.homeOf r.pa ≠ .hole → s.homeOf r.pa ≠ .host →
    ∃ t, exec .readHome s = .next t ∧ ReadServed s t id r)
  ∧ (∀ s id r, AtHome s id r → isRegArea r.pa = false → s.homeOf r.pa = .host →
    ∃ t, exec .readHome s = .next t ∧ t.still = s.still ∧ (t.req id).stage = .host
      ∧ t.outbox = s.outbox ++ [.snoop r.line] ∧ t.isDue 1440 { unit := id } .hostReadCompletion)
  ∧ (∀ s id r, s.here.unit = id → s.reqs.find id = some r → r.stage = .host → r.kind = .read →
    ∃ t, exec .hostReadCompletion s = .next t ∧ ReadServed s t id r)
  ∧ ∀ s id r, s.here.unit = id → s.reqs.find id = some r → r.stage = .host → r.kind ≠ .read → s.Inv →
    ¬ ((r.kind = .atom ∨ r.agent = .logic) ∧ s.poison.contains r.line) → s.atomSpoilt r = false →
    ∃ t, exec .hostReadCompletion s = .next t ∧ (t.req id).answer = s.bytes r.pa r.size
      ∧ WriteServed s t id r (atomNew r.aop r.size (s.bytes r.pa r.size) r.data) (s.poison.contains r.line))
  ∧ ((∀ i s id r, (i = .writeHome ∧ r.kind = .write) ∨ (i = .wmaskHome ∧ r.kind = .wmask) → AtHome s id r →
    isRegArea r.pa = false → s.homeOf r.pa ≠ .hole → s.Inv →
    (s.mustSnoop r = false → ∃ t, exec i s = .next t
      ∧ WriteServed s t id r (s.newBytes r) (s.poison.contains r.line && !r.whole)
      ∧ t.hostCached = if r.agent = .host then r.line :: s.hostCached.filter (· != r.line) else s.hostCached)
    ∧ (s.mustSnoop r = true → ∃ t, exec i s = .next t ∧ t.still = s.still ∧ (t.req id).stage = .snoop
      ∧ t.outbox = s.outbox ++ [.snoop r.line] ∧ t.isDue 1000 { unit := id } .backInvalidateResponse))
  ∧ ∀ s id r, s.here.unit = id → s.reqs.find id = some r → r.stage = .snoop → r.kind = .write ∨ r.kind = .wmask → s.Inv →
    r.agent = .thread ∨ r.agent = .logic →
    ∃ t, exec .backInvalidateResponse s = .next t ∧ t.hostCached = s.hostCached.filter (· != r.line)
      ∧ WriteServed s t id r (s.newBytes r) (s.poison.contains r.line && !r.whole))
  ∧ (∀ i s id r, (i = .atomHome ∧ r.kind = .atom) ∨ (i = .redHome ∧ r.kind = .red) → AtHome s id r →
    isRegArea r.pa = false → s.homeOf r.pa ≠ .hole → s.homeOf r.pa ≠ .host → s.mustSnoop r = false → s.Inv →
    (¬ ((r.kind = .atom ∨ r.agent = .logic) ∧ s.poison.contains r.line) → s.atomSpoilt r = false → ∃ t, exec i s = .next t
      ∧ (t.req id).answer = s.bytes r.pa r.size
      ∧ WriteServed s t id r (atomNew r.aop r.size (s.bytes r.pa r.size) r.data) (s.poison.contains r.line)
      ∧ t.hostCached = s.hostCached)
    ∧ ((r.kind = .atom ∨ r.agent = .logic) ∧ s.poison.contains r.line → ∃ t, exec i s = .next t ∧ t.still = s.still
      ∧ (t.req id).stage = .resp ∧ (t.req id).status = 2))

/-- R189, R194, R196, R394: the last data of a load without acquire write its registers in each lane that still waits,
and a response to a store is counted in its die's GWCTMAX; the data of a bank is written when it arrives (R213, R412).
No byte of memory changes. R43, R55, R147: a bridge request without a response for 200 microseconds, and a request to
another device that is answered with ERR or not at all for a millisecond, complete no more and fail their launch; of
the state around them nothing else changes but what waited behind them. A prefetch is dropped without a fault (R402).
R194, R197, R86, R160: a wait whose responses are there and whose completion time has come is over: the fence of a
thread ends, the completion of a host write goes out, the drain of a pre-emption ends; one whose time has not come is
looked at again. The largest completion time known so far, in place of those of single stores, the value another
device answers with, and the fields of a late record are the model's choice (notes/assumptions/29, 31, 42 and 52.md).
-/
def Obligations.ResponsesAndWaits : Prop :=
  ((∀ s id r n, s.here = { unit := id } → s.reqs.find id = some r → r.stage = .resp → r.srcDev = none →
    r.prefetch = false → r.status = 0 → r.brings = true → s.ins.find r.ins = some n → n.left = 1 → n.bad = 0 → n.arrives = 0 →
    (∃ code vt, n.result = .load code vt) → (∀ e ∈ s.reqs, e.2.stage ≠ .hold) →
    ∃ t, exec .dataArrive s = .next t ∧ t.mem = s.mem ∧ t.reqs.find id = none ∧ t.ins = s.ins.del r.ins
      ∧ (∀ c j, c ≠ n.core ∨ j ≠ n.slot → t.quire c j = s.quire c j)
      ∧ (t.quire n.core n.slot).sr = (s.quire n.core n.slot).sr
      ∧ (∀ c b, t.bank c b = s.bank c b)
      ∧ ∀ i, (t.quire n.core n.slot).th i
          = if i < 32 ∧ n.lanes.getLsbD i = true ∧ ((s.quire n.core n.slot).th i).awaits r.ins = true then
              ((s.quire n.core n.slot).th i).takeLoad (s.quire n.core n.slot).arriving
                { n with buf := n.buf.setMany (64 * r.lane + r.off) r.answer, left := 0 } r.ins i
            else (s.quire n.core n.slot).th i)
  ∧ (∀ s id n, s.here = { unit := id, sub := 1 } → s.ins.find id = some n → (∃ code vt, n.result = .load code vt) →
    (∀ e ∈ s.reqs, e.2.stage ≠ .hold) →
    ∃ t, exec .dataArrive s = .next t ∧ t.mem = s.mem ∧ t.ins = s.ins.del id
      ∧ (∀ c j, c ≠ n.core ∨ j ≠ n.slot → t.quire c j = s.quire c j) ∧ (∀ c b, t.bank c b = s.bank c b)
      ∧ ∀ i, (t.quire n.core n.slot).th i
          = if i < 32 ∧ n.lanes.getLsbD i = true ∧ ((s.quire n.core n.slot).th i).awaits id = true then
              ((s.quire n.core n.slot).th i).takeLoad (s.quire n.core n.slot).arriving n id i
            else (s.quire n.core n.slot).th i)
  ∧ ∀ s id r, s.here.unit = id → s.reqs.find id = some r → r.stage = .resp → r.srcDev = none →
    (∀ n, s.ins.find r.ins = some n → n.result = .discard ∧ n.bad = 0) → (∀ e ∈ s.reqs, e.2.stage ≠ .hold) →
    r.core < 640 → r.brings = false →
    ∃ t, exec .doneArrive s = .next t ∧ t.reqs.find id = none
      ∧ (t.die (dieOf r.core)).gwctMax = max (s.die (dieOf r.core)).gwctMax r.gwct
      ∧ SameRegs s t ∧ (∀ c b, t.bank c b = s.bank c b)
      ∧ t.still = { s.still with dies := t.dies, waits := t.waits, ins := t.ins, cores := t.cores })
  ∧ ((∀ s id r, s.here.unit = id → s.reqs.find id = some r → r.stage ∈ [Stage.snoop, .host, .held, .home, .resp] →
    r.lost = false → r.issued + 200000 ≤ s.now →
    (r.prefetch = false → r.srcDev = none →
      ∃ t f, exec .bridgeReqTimeout s = .next t
        ∧ t = { s with agenda := t.agenda, reqs := t.reqs, waits := t.waits, fatal := s.fatal ++ [(r.lk, f)] }
        ∧ t.isDue 0 { unit := r.lk } .lateFault ∧ (t.req id).lost = true ∧ f.cause = .link ∧ f.deliv = 3
        ∧ f.isFatal = true ∧ f.addr = r.va ∧ f.time = s.now ∧ f.detail = homeDie (s.homeOf r.pa))
    ∧ (r.prefetch = true → ∃ t, exec .bridgeReqTimeout s = .next t ∧ t.reqs.find id = none
        ∧ t = { s with agenda := t.agenda, reqs := t.reqs, waits := t.waits }))
  ∧ (∀ s id r, s.here.unit = id → s.reqs.find id = some r → r.stage = .remote → r.lost = false →
    r.issued + 1000000 ≤ s.now →
    ∃ t f, exec .remoteReqTimeout s = .next t
      ∧ t = { s with agenda := t.agenda, reqs := t.reqs, waits := t.waits, fatal := s.fatal ++ [(r.lk, f)] }
      ∧ t.isDue 0 { unit := r.lk } .lateFault ∧ (t.req id).lost = true ∧ f.cause = .link ∧ f.deliv = 3 ∧ f.addr = r.va
      ∧ f.detail = r.va / 2 ^ 53 * 2 ^ 16)
  ∧ ∀ s id st r, s.reqs.find id = some r → r.stage = .remote → r.lost = false →
    ∃ t f, exec (.errArrive id st) s = .next t
      ∧ t = { s with agenda := t.agenda, reqs := t.reqs, waits := t.waits, fatal := s.fatal ++ [(r.lk, f)] }
      ∧ t.isDue 0 { unit := r.lk } .lateFault ∧ (t.req id).lost = true
      ∧ f.cause = (if st = 1 then .perm else if st = 2 then .ecc else .link) ∧ f.deliv = 3 ∧ f.addr = r.va)
  ∧ (∀ s id w, id = s.here.unit → s.waits.find id = some w →
    (w.sends = [] → w.reqs = [] → w.need ≤ s.nowAt w.die →
      (∀ l, w.goal = .hostWrite l → exec .gwctReached s
          = .next { s with waits := s.waits.del id, outbox := s.outbox ++ [.completion l] })
      ∧ (∀ k, w.goal = .drain k → ∃ t, exec .gwctReached s = .next t
          ∧ t = { s with waits := s.waits.del id, agenda := t.agenda } ∧ t.isDue 0 { unit := k } .drainComplete)
      ∧ (∀ c j i n sc, w.goal = .fence c j i n false sc → i < 32 → (∀ e ∈ s.reqs, e.2.stage ≠ .hold) →
          (({ s with waits := s.waits.del id } : State).acquiring c j i n = false) →
          ∃ t, exec .gwctReached s = .next t ∧ t = { s with waits := s.waits.del id, cores := t.cores } ∧ SameRegs s t
            ∧ (t.quire c j).th i = { (s.quire c j).th i with
                outst := ((s.quire c j).th i).outst.filter (fun o => o.id != n) }))
    ∧ (w.sends = [] → w.reqs = [] → s.nowAt w.die < w.need → ∃ t, exec .gwctReached s = .next t
      ∧ t = { s with agenda := t.agenda } ∧ ∃ e ∈ t.agenda, e.here = { unit := id } ∧ e.what = .gwctReached))

/-- R89, R93, R95: what a write of the host to a launch page does. R89, R93, R98: a notify store takes effect at the
later of its arrival and HLX, and its record is read then; the value of HNOTIFY has one added to its target, or takes
its place there behind the requests that wait at the line (R185). That a notification takes effect 2 ticks after its
write, and its record is checked 28 ticks later, is the model's choice (notes/assumptions/3.md). -/
def Obligations.LaunchPageAndNotify : Prop :=
  ((∀ s ctx rp ap, ctx < 64 → (s.ctx ctx).waiting = [] → s.heldOfCtx ctx < 64 →
    ((s.ctx ctx).v = true → s.ready = true → s.bridgeDown = false →
      ∃ t lid, exec (.notifyStore ctx rp ap) s = .next t ∧ lid = (s.ctx ctx).nextLid
        ∧ t.launch (lkOf ctx lid)
            = { ctx := ctx, lid := lid, state := .queued, order := s.acceptCount, recPtr := rp, argPtr := ap }
        ∧ (t.ctx ctx).lid = BitVec.ofNat 32 lid ∧ (t.ctx ctx).nextLid = (if lid = 0xFFFFFFFF then 1 else lid + 1)
        ∧ t.acceptCount = s.acceptCount + 1 ∧ t.isDue 2 { unit := lkOf ctx lid } .notifyEffect
        ∧ t.still = { s.still with launches := t.launches, ctxs := t.ctxs, acceptCount := t.acceptCount })
    ∧ ((s.ctx ctx).v = false ∨ s.ready = false ∨ s.bridgeDown = true →
      exec (.notifyStore ctx rp ap) s = .next (s.setCtx ctx { s.ctx ctx with ndrop := true })))
  ∧ (∀ s ctx rp ap, ctx < 64 → 64 ≤ s.heldOfCtx ctx → exec (.notifyStore ctx rp ap) s = .next (s.setCtx ctx
      { s.ctx ctx with waiting := (s.ctx ctx).waiting ++ [{ recPtr := rp, argPtr := ap }] }))
  ∧ (∀ s n rest, (s.ctx s.here.unit).waiting = n :: rest → s.heldOfCtx s.here.unit < 64 →
    (s.ctx s.here.unit).v = true → s.ready = true → s.bridgeDown = false →
    ∃ t lid, exec .notifyWaitRelease s = .next t ∧ lid = (s.ctx s.here.unit).nextLid
      ∧ (t.ctx s.here.unit).waiting = rest ∧ t.acceptCount = s.acceptCount + 1 ∧ t.mem = s.mem
      ∧ t.launch (lkOf s.here.unit lid) = { ctx := s.here.unit, lid := lid, state := .queued, order := s.acceptCount,
                                            recPtr := n.recPtr, argPtr := n.argPtr })
  ∧ (∀ s ctx v, ctx < 64 → (s.ctx ctx).v = true → s.ready = true → s.bridgeDown = false → v ≠ 0 →
    ∃ t, exec (.hnotify ctx v) s = .next t ∧ (t.ctx ctx).hnotify = (s.ctx ctx).hnotify ++ [v]
      ∧ t.isDue 2 { unit := ctx } .hnotifyEffect ∧ t.still = { s.still with ctxs := t.ctxs })
  ∧ (∀ s ctx v, ctx < 64 → exec (.query ctx v) s
      = .next (s.setCtx ctx { s.ctx ctx with query := v.extractLsb' 0 32 })))
  ∧ ((∀ s l, s.launches.find s.here.unit = some l → l.state = .queued → l.ending = none →
    (s.here.sub ≠ 0 ∨ s.hlx ≤ s.now → ∃ t, exec .notifyEffect s = .next t ∧ t = { s with agenda := t.agenda }
      ∧ t.isDue 28 { unit := s.here.unit } .recordCheck)
    ∧ (s.here.sub = 0 → s.now < s.hlx → ∃ t, exec .notifyEffect s = .next t ∧ t = { s with agenda := t.agenda }
      ∧ t.isDue (s.hlx - s.now) { unit := s.here.unit, sub := 1 } .notifyEffect))
  ∧ ∀ s c v rest, c = s.here.unit → (s.ctx c).hnotify = v :: rest → s.here.sub ≠ 0 ∨ s.hlx ≤ s.now →
    let past : Prop := (∀ e ∈ s.reqs, e.2.agent ≠ .logic ∧ e.2.agent ≠ .host) ∧ (s.die 24).gwctMax ≤ s.nowAt 24
    (¬ past → ∃ t id w, exec .hnotifyEffect s = .next t ∧ t = { s with ctxs := t.ctxs, waits := t.waits, agenda := t.agenda, fresh := t.fresh }
      ∧ (t.ctx c).hnotify = rest ∧ t.waits.find id = some w ∧ w.goal = .hadd c v)
    ∧ (past → v.toNat % 8 ≠ 0 → ∃ t, exec .hnotifyEffect s = .next t ∧ (t.ctx c).ndrop = true ∧ (t.ctx c).hnotify = rest
      ∧ t = { s with ctxs := t.ctxs })
    ∧ ∀ u w pa m, past → u = s.setCtx c { s.ctx c with hnotify := rest } → v.toNat % 8 = 0 →
      u.logicPa c v.toNat .atomic = (.ok pa, w) → w.homeOf pa = .hbm m → w.Inv →
      w.unreachable 24 pa = false → w.poison.contains (pa / 128) = false →
      (w.lineFree pa = true →
        ∃ t, exec .hnotifyEffect s = .next t ∧ t.Wrote w pa (toLe 8 (w.num pa 8 + 1)))
      ∧ (w.lineFree pa = false → ∃ t id, exec .hnotifyEffect s = .next t ∧ t.mem = w.mem ∧ (t.req id).stage = .home
          ∧ (t.req id).kind = .red ∧ (t.req id).pa = pa ∧ (t.req id).data = toLe 8 1 ∧ t.isDue 0 { unit := id } .redHome))

/-- R97, R98, R110, R111: RECORD_CHECK ends a launch whose record pointer is bad, and else takes the record that meets
every check; the launch waits for its dependences, or leases at once. R102, R103, R107, R109, R116: a launch whose
ranges are resident and whose layouts are met becomes ready, its groups split over the dies; one with missing pages
asks the host for them, entry by entry. R104: a response that names no request of the context sets PDROP; a refusal
ends the launch with F_PAGEREQ; the grant of its last request lets it go on to the layout check. The 20 ticks to a
page request are those of the worked Table 4.15. That the residency check, the layout check and the look at
dependences take no time, and how the resident-range cache matches, is the model's choice (notes/assumptions/3 and
22.md). -/
def Obligations.RecordsLeasesPages : Prop :=
  (∀ s k l, k = s.here.unit → s.launches.find k = some l → l.state = .queued → l.ending = none →
    (l.recPtr.toNat % 256 ≠ 0 ∨ 2 ^ 52 ≤ l.recPtr.toNat →
      ∃ t, exec .recordCheck s = .next t ∧ t.launch k = { l with ending := some .fRecord }
        ∧ t.still = { s.still with launches := t.launches })
    ∧ (∀ bs u l' w, l.recPtr.toNat % 256 = 0 → l.recPtr.toNat < 2 ^ 52 →
      s.logicRead l.ctx l.recPtr.toNat 256 = (.ok bs, u) → (bs.getD 0x1F 0).toNat = 1 →
      u.checkRecord k bs = (.ok l', w) →
      ∃ t, exec .recordCheck s = .next t ∧ (t.launch k).rcd = l'.rcd ∧ (t.launch k).ranges = l'.ranges
        ∧ (t.launch k).layouts = l'.layouts ∧ (t.launch k).ending = l'.ending
        ∧ ((t.launch k).state = .waiting ∨ (t.launch k).state = .leasing)
        ∧ (l'.rcd.deps = [] → (t.launch k).state = .leasing ∧ t.isDue 0 { unit := k } .residencyCheck)))
  ∧ ((∀ s k l asks u, k = s.here.unit → s.launches.find k = some l → l.state = .leasing → l.ending = none →
    s.lookRanges l.ctx l.ranges = (.ok asks, u) →
    (asks = [] → ∃ t, exec .residencyCheck s = .next t ∧ (t.launch k).state = .checking
      ∧ t.isDue 0 { unit := k } .layoutCheck)
    ∧ (asks ≠ [] → l.arrival = none → u.prqOn = true → ∃ t, exec .residencyCheck s = .next t
      ∧ (t.launch k).asks = asks ∧ t.isDue 20 { unit := k } .pageRequestWrite)
    ∧ (asks ≠ [] → l.arrival.isSome = true ∨ u.prqOn = false → ∃ t, exec .residencyCheck s = .next t
      ∧ (t.launch k).ending = some .fPageReq))
  ∧ (∀ s k l e rest, k = s.here.unit → s.launches.find k = some l → l.state = .leasing → l.ending = none →
    l.asks = e :: rest → s.prqOn = true → s.prqFull = false → s.lineFree s.prqSlot = true → s.Inv →
    ∃ t rid, exec .pageRequestWrite s = .next t
      ∧ rid = (s.ctx l.ctx).seq % 2 ^ 18 + l.ctx * 2 ^ 18 + (s.ctx l.ctx).gen.toNat * 2 ^ 24
      ∧ t.Wrote s (2 ^ 47 + s.prqBase.toNat * 4096 + 32 * s.prqTail.toNat)
          (toLe 4 rid ++ toLe 4 e.2.1 ++ toLe 8 (65536 * e.1) ++ toLe 4 e.2.2 ++ toLe 4 l.lid ++ toLe 8 0)
      ∧ (t.launch k).asks = rest ∧ (t.launch k).requests = l.requests ++ [((s.ctx l.ctx).seq, e)]
      ∧ t.prqTail = BitVec.ofNat 16 ((s.prqTail.toNat + 1) % 2 ^ s.prqLog2.toNat)
      ∧ (s.prqTail = s.prqHead → t.outbox = s.outbox ++ s.signal 1)
      ∧ t.still = { s.still with mem := t.mem, pba := t.pba, launches := t.launches, ctxs := t.ctxs, prqTail := t.prqTail })
  ∧ (∀ s k l e rest, k = s.here.unit → s.launches.find k = some l → l.state = .leasing → l.ending = none →
    l.asks = e :: rest → s.prqOn = true → s.prqFull = false → s.lineFree s.prqSlot = false →
    ∃ t, exec .pageRequestWrite s = .next t ∧ t = { s with agenda := t.agenda } ∧ t.isDue 1 { unit := k } .pageRequestWrite)
  ∧ ∀ s k l u, k = s.here.unit → s.launches.find k = some l → l.state = .checking → l.ending = none →
    (s.layoutsMeet l l.layouts = (.ok (), u) → ∃ t, exec .layoutCheck s = .next t ∧ (t.launch k).state = .ready ∧ (t.launch k).readyAt = s.now
      ∧ (t.launch k).unplaced = splitGroups l.rcd.groups (s.boundDie l))
    ∧ (s.layoutsMeet l l.layouts = (.no, u) → ∃ t, exec .layoutCheck s = .next t ∧ (t.launch k).ending = some .fLayout))
  ∧ ((∀ s ctx v, ctx < 64 → (s.ctx ctx).v = false ∨ bitsOf v.toNat 18 6 ≠ ctx
      ∨ bitsOf v.toNat 24 8 ≠ (s.ctx ctx).gen.toNat ∨ (∀ e ∈ (s.ctx ctx).rids, e.1 ≠ bitsOf v.toNat 0 18) →
    exec (.presp ctx v) s = .next (s.setCtx ctx { s.ctx ctx with pdrop := true }))
  ∧ ∀ s ctx v k l q, ctx < 64 → (s.ctx ctx).v = true → bitsOf v.toNat 18 6 = ctx →
    bitsOf v.toNat 24 8 = (s.ctx ctx).gen.toNat → (∃ e ∈ (s.ctx ctx).rids, e.1 = bitsOf v.toNat 0 18) →
    s.launches.find? (fun e => e.2.ctx == ctx && e.2.state == .leasing && e.2.ending.isNone
      && e.2.requests.any (fun r => r.1 == bitsOf v.toNat 0 18)) = some (k, l) → s.launch k = l →
    l.requests = [(bitsOf v.toNat 0 18, q)] → l.asks = [] →
    (v.getLsbD 32 = true → ∃ t, exec (.presp ctx v) s = .next t ∧ (t.launch k).ending = some .fPageReq)
    ∧ (v.getLsbD 32 = false → (s.missing ctx q.2.2 ((List.range q.2.1).map (fun n => q.1 + n))).1 = .ok [] →
      ∃ t, exec (.presp ctx v) s = .next t ∧ (t.launch k).state = .checking ∧ (t.launch k).requests = []
        ∧ t.isDue 0 { unit := k } .layoutCheck))

/-- R118, R119, R167, R183: a dispatcher places the first group that fits: each of its quires takes a free slot, its
threads new ones at the entry, and no quire elsewhere changes. R120, R121: an idle dispatcher asks for half of the
groups that another die holds, and has those that are not placed 100 ticks later; one whose first group has waited
4,096 ticks reserves a core. When a dispatcher looks again, and for how many pre-emptions it asks at a time, is the
model's choice (notes/assumptions/3 and 25.md). -/
def Obligations.PlacementAndReservation : Prop :=
  (∀ s d c k g l, d = s.here.unit → (s.die d).failed = false → (s.die d).lastPlace = 0 ∨ (s.die d).lastPlace + 2 ≤ s.now →
    s.placement d = some (c, k, g) → l = s.launch k →
    ∃ t, exec .groupPlace s = .next t
      ∧ t.still = { s.still with cores := t.cores, dies := t.dies, launches := t.launches, ctxs := t.ctxs }
      ∧ (t.launch k).quires = l.quires + l.rcd.qpg
      ∧ (t.launch k).state = (if l.state = .ready then .running else l.state)
      ∧ (t.core c).freeBlocks = (s.core c).freeBlocks - l.rcd.qpg * l.rcd.blocks
      ∧ (t.die (dieOf c)).lastPlace = s.now
      ∧ (∀ n j, n ≠ c ∨ j ∉ (s.core c).freeSlots → t.quire n j = s.quire n j)
      ∧ ∀ n < l.rcd.qpg, ∃ j ∈ (s.core c).freeSlots, (t.quire c j).live = true ∧ (t.quire c j).lk = k
        ∧ (t.quire c j).qid = g * l.rcd.qpg + n ∧ (t.quire c j).gid = g ∧ (t.quire c j).blocks = l.rcd.blocks
        ∧ (t.quire c j).sr = [] ∧ ∀ i < 32, (t.quire c j).th i
            = { pc := l.rcd.code + BitVec.ofNat 64 l.rcd.entry, repc := l.rcd.code + BitVec.ofNat 64 l.rcd.entry,
                lfsr := lfsrSeed l.lid ((g * l.rcd.qpg + n) * 32 + i) })
  ∧ ((∀ s d w, d = s.here.unit → (s.die d).stealing = none → (s.die d).failed = false → s.firstWaiting d = none →
    s.loot d = some w → ∃ t, exec .dispatchSteal s = .next t ∧ t = { s with agenda := t.agenda, dies := t.dies }
      ∧ t.die d = { s.die d with stealing := some w } ∧ (∀ e ≠ d, t.die e = s.die e)
      ∧ t.isDue 100 { unit := d } .stealComplete)
  ∧ (∀ s d k v gs l, d = s.here.unit → (s.die d).stealing = some (k, v, gs) → s.launches.find k = some l → v ≠ d →
    ∃ t, exec .stealComplete s = .next t ∧ t.still = { s.still with launches := t.launches, dies := t.dies }
      ∧ (t.die d).stealing = none ∧ (t.launch k).groupsOf v = (l.groupsOf v).filter (fun g => !gs.contains g)
      ∧ (t.launch k).groupsOf d = sortNat (l.groupsOf d ++ (l.groupsOf v).filter (fun g => gs.contains g))
      ∧ (∀ e, e ≠ v → e ≠ d → (t.launch k).groupsOf e = l.groupsOf e))
  ∧ ∀ s d e c, d = s.here.unit → s.firstWaiting d = some e → (s.die d).resv = none → e.2.since d + 4096 ≤ s.now →
    s.roomiest ((s.coresFrom d e.1 0).filter (fun c => (s.core c).reserved.isNone)) = some c →
    ∃ t, exec .reservation s = .next t ∧ t.still = { s.still with cores := t.cores, dies := t.dies }
      ∧ t.core c = { s.core c with reserved := some e.1 } ∧ (∀ n ≠ c, t.core n = s.core n)
      ∧ (t.die d).resv = some (c, e.1, s.now) ∧ t.isDue 4096 { unit := d } (.preemptRequest (.dispatcher d)))

/-- R119, R177, R179: the banks of a share that has ended come back zero, released blocks come back to the pool, and
the claim at the head of the queue is granted when it fits. R113, R290: a queue whose watermark is met, and whose
consumer core has room, starts its arrival launch, unless a launch bound to it is stopping (R158). That the record of
an arrival launch is checked 30 ticks after its trigger, and when a trigger is disarmed, is the model's choice
(notes/assumptions/3 and 36.md). -/
def Obligations.ResourcesAndArrivals : Prop :=
  ((∀ s c n x, c = s.here.unit → n = s.here.sub → (s.core c).shares.find n = some x → x.clearing = true →
    (∀ b ∈ x.banks, (s.bank c b).busy = false ∧ (s.bank c b).queue = []) →
    ∃ t, exec .shareClearDone s = .next t ∧ t.still = { s.still with cores := t.cores }
      ∧ (t.core c).shares.find n = none ∧ (∀ b ∈ x.banks, t.bank c b = {})
      ∧ (∀ e ≠ c, t.core e = s.core e) ∧ ∀ j, t.quire c j = s.quire c j)
  ∧ (∀ s c e, c = s.here.unit →
    (s.core c).clearing.find? (fun e => e.2.all (fun id => (s.ins.find id).isNone)) = some e →
    ∃ t, exec .blockClearDone s = .next t ∧ t = { s with agenda := t.agenda, cores := t.cores }
      ∧ t.core c = { s.core c with clearing := (s.core c).clearing.erase e, freeBlocks := (s.core c).freeBlocks + e.1 }
      ∧ ∀ n ≠ c, t.core n = s.core n)
  ∧ ∀ s c j js q n, c = s.here.unit → (s.core c).claims = j :: js → j ∉ js → q = s.quire c j →
    q.waits.map QWait.kind = [.claim n] → (∀ i ∈ js, (s.quire c i).waits.any QWait.isReclaim = false) → n + s.restoreNeed c ≤ (s.core c).freeBlocks →
    ∃ t, exec .claimGrant s = .next t ∧ t = { s with agenda := t.agenda, cores := t.cores }
      ∧ (t.core c).freeBlocks ≤ (s.core c).freeBlocks - n ∧ j ∉ (t.core c).claims
      ∧ t.quire c j = { q with blocks := q.blocks + n, waits := [] } ∧ SameRegs s t ∧ ∀ e ≠ c, t.core e = s.core e)
  ∧ (∀ s q x lid, q = s.here.unit → x = s.queue q → x.triggers = true → (s.ctx x.ctx).v = true → s.ready = true →
    s.bridgeDown = false → s.arrivalRoom x = true → s.stoppingOn q = false → lid = (s.ctx x.ctx).nextLid →
    ∃ t, exec .arrivalTrigger s = .next t
      ∧ t.still = { s.still with launches := t.launches, ctxs := t.ctxs, queues := t.queues, acceptCount := s.acceptCount + 1 }
      ∧ t.launch (lkOf x.ctx lid)
          = { ctx := x.ctx, lid := lid, state := .queued, order := s.acceptCount, recPtr := x.alrec, arrival := some q }
      ∧ t.queue q = { x with alive := some (lkOf x.ctx lid) } ∧ t.isDue 30 { unit := lkOf x.ctx lid } .recordCheck)

/-- R127, R129, R131: a run boundary with nothing to bring in starts a run of the ready active quire that has waited
longest; its paths hold the eligible threads at the two addresses chosen. R152, R153: when a quire's timer expires,
PHASE waits at every thread that has not exited, every wait of the quire is withdrawn, and no register changes; where
no handler takes it, it ends the launch (R145), at once or at the end of an iteration that is under way. DETAIL is the
first count above the limit. An expiry finds its quire at a barrier first waits for the end of the tick (R153). The
mask of the record as the threads that have not exited, its place behind faults that wait already, and the tick that
stands for the cycle of the expiry are the model's choice (notes/assumptions/3, 29 and 60.md). R376: the sleepers of a
quire whose deadline has come are eligible, and nothing else of it changes. -/
def Obligations.RunsTimersSleepers : Prop :=
  ((∀ s c k j ls a b, c = s.here.unit → k = s.core c → k.boundary = true → Core.fillActive 8 k = k → k.swap? = none →
    k.served none = some j → s.pendGroup c (k.quire j) = none → ls = s.eligible c (k.quire j) →
    (k.quire j).paths ls (s.soloRun c (k.quire j)) = some (a, b) →
    ∃ t r, exec .runArbitration s = .next t ∧ t = { s with cores := t.cores } ∧ (t.core c).run = some r ∧ r.slot = j
      ∧ r.a.pc = a ∧ r.a.done = false ∧ (∀ i, r.a.lanes.getLsbD i = true ↔ i < 32 ∧ i ∈ ls ∧ ((k.quire j).th i).pc = a)
      ∧ (b = none → r.b.done = true)
      ∧ (∀ pc, b = some pc → r.b.pc = pc
          ∧ ∀ i, r.b.lanes.getLsbD i = true ↔ i < 32 ∧ i ∈ ls ∧ ((k.quire j).th i).pc = pc)
      ∧ SameRegs s t)
  ∧ ∀ s c k a b, c = s.here.unit → k = s.core c → k.promotes = true → k.oldestPending = some a →
    firstBy (fun j => (k.quire j).entered) k.actives = some b →
    ∃ t, exec .promotion s = .next t ∧ t = { s with cores := t.cores } ∧ (t.quire c a).active = true
      ∧ (t.quire c b).active = false ∧ (t.core c).promo = 0 ∧ SameRegs s t ∧ ∀ n ≠ c, t.core n = s.core n)
  ∧ (∀ s c j q, c = s.here.unit → j = s.here.sub → q = s.quire c j → q.live = true → q.timer.armed = true →
    (s.timerCount c q.timer ≤ q.timer.budget.toNat * q.timer.margin / 4 + 4096 →
      ∃ t, exec .phaseExpiry s = .next t ∧ t = { s with agenda := t.agenda })
    ∧ (q.timer.budget.toNat * q.timer.margin / 4 + 4096 < s.timerCount c q.timer → s.here.item = 0 →
      q.waits.any QWait.isBarrier = true → ∃ t, exec .phaseExpiry s = .next t ∧ t = { s with agenda := t.agenda }
        ∧ t.isDue 1 { s.here with item := 1 } .phaseExpiry)
    ∧ (q.timer.budget.toNat * q.timer.margin / 4 + 4096 < s.timerCount c q.timer →
      s.here.item ≠ 0 ∨ q.waits.any QWait.isBarrier = false →
      (s.launch q.lk).rcd.handler ≠ noHandler ∧ (∀ i < 32, (q.th i).exited = false → (q.th i).handler = false)
        ∨ s.inIteration c j (maskOf q.liveLanes) ≠ [] →
      ∃ t, exec .phaseExpiry s = .next t ∧ t.mem = s.mem ∧ SameRegs s t ∧ (t.quire c j).waits = []
        ∧ (t.quire c j).timer.armed = false
        ∧ ∀ i < 32, (q.th i).exited = false → ∃ p, ((t.quire c j).th i).pends = (q.th i).pends ++ [p] ∧ p.cause = .phase
          ∧ p.deliv = 0 ∧ p.detail = q.timer.budget.toNat * q.timer.margin / 4 + 4097 ∧ ∀ n < 32, p.mask.getLsbD n = !(q.th n).exited)
    ∧ (q.timer.budget.toNat * q.timer.margin / 4 + 4096 < s.timerCount c q.timer →
      s.here.item ≠ 0 ∨ q.waits.any QWait.isBarrier = false → s.inIteration c j (maskOf q.liveLanes) = [] →
      ((s.launch q.lk).rcd.handler = noHandler ∨ ∃ i < 32, (q.th i).exited = false ∧ (q.th i).handler = true) →
      ∃ t r, exec .phaseExpiry s = .next t ∧ t.mem = s.mem ∧ SameRegs s t ∧ t.fatal = s.fatal ++ [(q.lk, r)]
        ∧ r.cause = .phase ∧ r.isFatal = true ∧ r.detail = q.timer.budget.toNat * q.timer.margin / 4 + 4097))
  ∧ (∀ s c j q, c = s.here.unit → j = s.here.sub → q = s.quire c j → q.live = true →
    ∃ t, exec .sleepExpiry s = .next t ∧ t = { s with agenda := t.agenda, cores := t.cores }
      ∧ (∀ n m, n ≠ c ∨ m ≠ j → t.quire n m = s.quire n m)
      ∧ t.quire c j = { q with threads := (t.quire c j).threads }
      ∧ ∀ i < 32, (t.quire c j).th i = match (q.th i).wait with
          | some w => if w.reason = .sleep ∧ w.deadline ≤ s.nowAt (dieOf c) then { q.th i with wait := none } else q.th i
          | none => q.th i)

/-- R90, R91, R115: writes of CTL create a context, set its limits, and end it. R111, R84, R95: a launch with nothing
left to wait for retires: it makes its add, at once or behind the requests that wait at the line, its status is kept,
its vector fires, and nothing of it is left. That a launch which has ended is gone, its status kept in its context,
and what a kill drops are the model's choice (notes/assumptions/23 and 24.md). -/
def Obligations.ContextsAndRetirement : Prop :=
  ((∀ s n v, n < 64 → (s.ctx n).v = false → ∃ t, exec (.contextCreate n v) s = .next t
    ∧ t.still = { s.still with ctxs := t.ctxs } ∧ (t.ctx n).v = true ∧ (t.ctx n).gen = (s.ctx n).gen
    ∧ (t.ctx n).nextLid = 1 ∧ (t.ctx n).lid = 0 ∧ (t.ctx n).frLost = 0 ∧ (t.ctx n).kept = []
    ∧ (t.ctx n).pmax = v.extractLsb' 16 2 ∧ (t.ctx n).pvic = v.getLsbD 18
    ∧ (t.ctx n).root = (s.ctx n).root ∧ ∀ m ≠ n, t.ctx m = s.ctx m)
  ∧ (∀ s n v, n < 64 → ∃ t, exec (.contextConfig n v) s = .next t ∧ t.still = { s.still with ctxs := t.ctxs }
    ∧ t.ctx n = { s.ctx n with pmax := v.extractLsb' 16 2, pvic := v.getLsbD 18,
                               vec := if v.extractLsb' 24 6 = 1 ∨ v.extractLsb' 24 6 = 2 then 0 else v.extractLsb' 24 6 }
    ∧ ∀ m ≠ n, t.ctx m = s.ctx m)
  ∧ (∀ s n v, n < 64 → (s.ctx n).v = true → (∀ e ∈ s.launches, e.2.ctx ≠ n) →
    ∃ t, exec (.contextKill n v) s = .next t
      ∧ t.still = { s.still with ctxs := t.ctxs, dies := t.dies, records := t.records }
      ∧ (t.ctx n).v = false ∧ (t.ctx n).gen = (s.ctx n).gen + 1 ∧ (t.ctx n).rids = []
      ∧ (∀ d i, i < 8 → ((s.die d).wayres.get {} i).ctx = n → ((t.die d).wayres.get {} i).size = 0)
      ∧ ∀ m ≠ n, t.ctx m = s.ctx m)
  ∧ ∀ s n v k l, n < 64 → (s.ctx n).v = true → s.launches = [(k, l)] → l.ctx = n → s.cores = [] →
    (l.lid, l.state.code, 0) ∈ (s.ctx n).kept →
    ∃ t, exec (.contextKill n v) s = .next t ∧ t.launches = [] ∧ (l.lid, LState.fKilled.code, 0) ∈ (t.ctx n).kept
      ∧ (t.ctx n).v = false ∧ t.mem = s.mem)
  ∧ (∀ s k l u, k = s.here.unit → s.launches.find k = some l → s.mayRetire k l = true →
    u = s.setLaunch k { l with retiring := true, stopping := false } → u.waitOver (u.retireWait k) = true →
    (l.adds = false → ∃ t, exec .launchRetire s = .next t ∧ t.launches.find k = none ∧ t.mem = s.mem ∧ SameRegs s t
      ∧ (∀ e ∈ (s.ctx l.ctx).kept, e.1 = l.lid → (l.lid, (l.ending.getD .done).code,
          if l.ending = some .fFault then (l.cause.map Cause.code).getD 0 else 0) ∈ (t.ctx l.ctx).kept)
      ∧ (3 ≤ (s.ctx l.ctx).vec.toNat → t.outbox = s.outbox ++ s.signal (s.ctx l.ctx).vec.toNat))
    ∧ ∀ pa w, l.adds = true → u.logicPa l.ctx l.rcd.retPtr.toNat .atomic = (.ok pa, w) → isRegArea pa = false → w.Inv →
      w.unreachable 24 pa = false → w.poison.contains (pa / 128) = false →
      (w.lineFree pa = true → ∃ t, exec .launchRetire s = .next t ∧ t.launches.find k = none
        ∧ t.Wrote w pa (toLe 8 (w.num pa 8 + l.rcd.retAdd.toNat)))
      ∧ (w.lineFree pa = false → ∃ t id, exec .launchRetire s = .next t ∧ t.mem = w.mem
        ∧ (t.launches.find k).isSome = true ∧ (t.req id).kind = .red ∧ (t.req id).pa = pa
        ∧ (t.req id).data = toLe 8 l.rcd.retAdd.toNat ∧ t.isDue 0 { unit := id } .redHome))

/-- R147, R148: a fatal cause, late or not, writes its record, and the first of a launch ends it with that cause.
R385, R386: an arrival at a package barrier counts; one whose count does not fit the phase is turned away with status
2; the last of a phase releases every quire that arrived, with status 0. -/
def Obligations.FatalEndsAndPackageBarriers : Prop :=
  (∀ i s k e l, ((i = .lateFault ∧ s.here.sub ≠ 1) ∨ i = .launchFatal) → k = s.here.unit → s.fatal.find? (fun e => e.1 == k) = some e →
    s.launches.find k = some l →
    (l.ending.isSome = true → exec i s = .next (({ s with fatal := s.fatal.erase e } : State).writeRecord l.ctx e.2))
    ∧ (l.ending = none → ∃ t l', exec i s = .next t ∧ t.launches.find k = some l' ∧ l'.ending = some .fFault
        ∧ l'.cause = some e.2.cause ∧ l'.stopping = false
        ∧ t.mem = (({ s with fatal := s.fatal.erase e } : State).writeRecord l.ctx e.2).mem))
  ∧ (∀ s c j id q w b n, c = s.here.unit → j = s.here.sub → id = s.here.item → q = s.quire c j → q.waits = [w] →
    w.kind = .pbar id → w.counted = false → (∀ e ∈ s.waits, e.2.goal ≠ Goal.pbar c j id) →
    b = (s.launch q.lk).pbar id → n = b.n.getD w.count →
    (w.count = 0 ∨ 2 ^ 29 < w.count ∨ w.count ≠ n →
      exec .pbarArrival s = .next (s.setQuire c j (({ q with waits := [] } : Quire).mapLanes (lanesOf w.lanes) (fun _ t =>
        if t.exited then t else t.setReg w.vd 2))))
    ∧ (0 < w.count → w.count ≤ 2 ^ 29 → w.count = n → b.arrived + 1 ≠ n →
      ∃ t, exec .pbarArrival s = .next t ∧ t = { s with cores := t.cores, launches := t.launches }
        ∧ (t.launch q.lk).pbar id = { b with n := some n, arrived := b.arrived + 1, waiters := b.waiters ++ [(c, j)] }
        ∧ (t.quire c j).waits = [{ w with counted := true }] ∧ SameRegs s t)
    ∧ (0 < w.count → w.count ≤ 2 ^ 29 → w.count = n → b.arrived + 1 = n →
      ∃ t, exec .pbarArrival s = .next t ∧ t = { s with cores := t.cores, launches := t.launches }
        ∧ (t.launch q.lk).pbar id = { phase := b.phase + 1 }
        ∧ (∀ e ∈ b.waiters ++ [(c, j)], ∀ w ∈ (t.quire e.1 e.2).waits, w.kind ≠ .pbar id ∨ w.counted = false)
        ∧ (∀ e ∈ b.waiters, e ≠ (c, j) → ∀ v, (s.quire e.1 e.2).waits.filter (QWait.isPbar id true) = [v] →
            ∀ i < 32, v.lanes.getLsbD i = true → ((s.quire e.1 e.2).th i).exited = false →
              (t.quire e.1 e.2).th i = ((s.quire e.1 e.2).th i).setReg v.vd 0)
        ∧ ∀ i < 32, w.lanes.getLsbD i = true → (q.th i).exited = false → (t.quire c j).th i = (q.th i).setReg w.vd 0))

/-- R122, R158: a request, of the firmware or of a dispatcher whose reservation has waited 4,096 ticks, marks its
victim stopping; nothing of it changes yet; a launch of a context with PVIC = 0 is never pre-empted. R158, R159:
COLLECT reaches a die once; the die acknowledges when all its engines have stopped; the last acknowledgement with
nothing to drain lets the drain end, and the save takes 2,500 ticks. No register changes. The 2,500 ticks of a save,
the asking again after 4,096 ticks, and what a stop waits for at a bank are the model's choice (notes/assumptions/3,
25 and 26.md). -/
def Obligations.PreemptionAndDrain : Prop :=
  ((∀ s k l, s.launches.find k = some l → l.state = .running → l.stopping = false → l.ending = none → l.retiring = false →
    ((s.ctx l.ctx).pvic = true →
      ∃ t, exec (.preemptRequest (.firmware k)) s = .next t ∧ t.still = { s.still with launches := t.launches }
        ∧ t.launch k = { l with stopping := true, collecting := [], acked := [], drained := false }
        ∧ ∀ n ≠ k, t.launch n = s.launch n)
    ∧ ((s.ctx l.ctx).pvic = false → exec (.preemptRequest (.firmware k)) s = .next s))
  ∧ (∀ s d c k since v, (s.die d).resv = some (c, k, since) → since + 4096 ≤ s.now → s.askStands d = false → s.fits c k = false →
    s.victimOn c (s.launch k) = some v →
    ∃ t, exec (.preemptRequest (.dispatcher d)) s = .next t
      ∧ t.still = { s.still with launches := t.launches, dies := t.dies }
      ∧ (t.launch v).stopping = true ∧ (t.die d).preemptAsked = some v
      ∧ t.isDue 4096 { unit := d } (.preemptRequest (.dispatcher d)))
  ∧ ∀ (s : State) c (w : Launch) v, s.victimOn c w = some v → ∃ l, s.launches.find v = some l ∧ l.state = .running
      ∧ (s.ctx l.ctx).pvic = true ∧ s.priority l < s.priority w)
  ∧ ((∀ s d k l, d = s.here.unit → k = s.here.item → s.launches.find k = some l → l.stopping = true →
    l.collecting.contains d = false →
    ∃ t, exec .collect s = .next t ∧ t.launch k = { l with collecting := d :: l.collecting } ∧ SameRegs s t ∧ t.mem = s.mem
      ∧ ∃ e ∈ t.agenda, e.here = { unit := 40 * d } ∧ e.what = .engineStopAck)
  ∧ (∀ s d k l, d = dieOf s.here.unit →
    (s.launches.filter (fun e => e.2.stopping && e.2.collecting.contains d && !e.2.acked.contains d)).map Prod.fst = [k] →
    s.launch k = l → l.stopping = true → l.collecting.contains d = true → l.acked.contains d = false →
    (∀ n < 40, s.coreStopped (40 * d + n) k = true) →
    (∀ n < 40, ∀ j, ∀ i < 32, ((s.quire (40 * d + n) j).th i).pend = none) →
    ∃ t, exec .engineStopAck s = .next t ∧ (t.launch k).acked = d :: l.acked ∧ SameRegs s t ∧ t.mem = s.mem
      ∧ (15 ≤ l.acked.length → s.waitOver { s.retireWait k with goal := .drain k } = true →
          t.isDue 0 { unit := k } .drainComplete))
  ∧ ∀ s k l, k = s.here.unit → s.launches.find k = some l → l.stopping = true → 16 ≤ l.acked.length →
    ∃ t, exec .drainComplete s = .next t ∧ t = { s with agenda := t.agenda, launches := t.launches }
      ∧ t.launch k = { l with drained := true } ∧ t.isDue 2500 { unit := k } .saveComplete)

/-- R158, R161, R163: a save leaves the launch PREEMPTED with every share of it saved and its quires out of their
slots; a restore writes a share back where it was, every register as it was saved, and ends with the launch RUNNING.
The order in which launches are restored, and the slots and banks that a share comes back to, are the model's choice
(notes/assumptions/3 and 27.md). -/
def Obligations.SaveAndRestore : Prop :=
  (∀ s k l, k = s.here.unit → s.launches.find k = some l → l.stopping = true → l.drained = true →
    ∃ t, exec .saveComplete s = .next t ∧ (t.launch k).state = .preempted ∧ (t.launch k).stopping = false
      ∧ (t.launch k).saved = (s.sharesOf k).map (fun e => s.saveShare e.1 k e.2.1 e.2.2) ∧ t.mem = s.mem
      ∧ ∀ e ∈ s.sharesOf k, ∀ j ∈ (s.core e.1).slotsOf k, (t.quire e.1 j).live = false)
  ∧ (∀ s k l x, s.writtenBack = none → s.nextRestore = some k → s.launch k = l → s.here.sub = 0 → l.saved = [x] → (s.reserveFor k).shareFits k x = true → x.cmds = [] →
    (x.quires.map Prod.fst).Nodup → (∀ e ∈ x.quires, e.2.waits = []) →
    ∃ t, exec .restore s = .next t ∧ t.mem = s.mem ∧ t.restoring = some k
      ∧ ∀ e ∈ x.quires, (t.quire x.core e.1).restoring = true ∧ (t.quire x.core e.1).qid = e.2.qid
        ∧ (t.quire x.core e.1).sr = e.2.sr ∧ ∀ i, ((t.quire x.core e.1).th i).v = (e.2.th i).v
          ∧ ((t.quire x.core e.1).th i).p = (e.2.th i).p ∧ ((t.quire x.core e.1).th i).pc = (e.2.th i).pc
          ∧ ((t.quire x.core e.1).th i).fpsr = (e.2.th i).fpsr)
  ∧ ∀ s k l, s.restoring = some k → s.launch k = l → l.state = .preempted → l.ending = none → s.here.sub = 1 →
    s.here.item = k →
    ∃ t, exec .restore s = .next t ∧ (t.launch k).state = .running ∧ (t.launch k).saved = [] ∧ t.restoring = none
      ∧ t.mem = s.mem ∧ SameRegs s t ∧ ∀ c j, (t.quire c j).lk = k → (t.quire c j).restoring = false

/-- R65, R66: a walk that finds a leaf ends with the leaf in the die's TLB; the walk is over. R67, R68, R71: a sweep
halves the heat of every leaf of the live contexts, and no other byte; every TLB entry is aged; the next sweep follows
the period, which a write of SWEEP sets. R70, R102: an invalidation is pending from its write until it completes, 300
ticks later, when no TLB holds a translation that it names; a write while one is pending sets IGN. That a walk ends in
the tick in which it began, the 300 ticks of an invalidation, and that a sweep leaves poisoned leaves alone are the
model's choice (notes/assumptions/3, 14 and 15.md). -/
def Obligations.WalksSweepsInvalidation : Prop :=
  ((∀ s d x va e lg a u, s.here = { unit := d, sub := x, item := va } → (d, x, va / 65536) ∈ s.walks →
    s.walk d x va = (.leaf e lg a, u) →
    ∃ t, exec .walkComplete s = .next t ∧ t.walks = s.walks.erase (d, x, va / 65536)
      ∧ ∃ n ∈ (t.die d).tlb, n.ctx = x ∧ n.leaf = e ∧ n.lg = lg ∧ n.entryPa = a ∧ n.covers x va = true)
  ∧ ∀ s d x va u, s.here = { unit := d, sub := x, item := va } → (d, x, va / 65536) ∈ s.walks →
    s.walk d x va = (.perm, u) → s.joined d x (va / 65536) = [] →
    ∃ t, exec .walkComplete s = .next t ∧ t.still = { s.still with walks := s.walks.erase (d, x, va / 65536) })
  ∧ ((∀ s as, as = (s.roots.flatMap (s.leavesFrom 4)).eraseDups → s.Inv →
    ∃ t, exec .sweep s = .next t
      ∧ (∀ x, (∀ a ∈ as, x < a ∨ a + 8 ≤ x) → t.byte x = s.byte x)
      ∧ (∀ a ∈ as, s.poison.contains (a / 128) = false → t.num a 8 = (heatHalf (BitVec.ofNat 64 (s.num a 8))).toNat)
      ∧ (∀ d, ∀ e ∈ (t.die d).tlb, e.aged = true) ∧ (∀ c, ∀ e ∈ (t.core c).tlb, e.aged = true) ∧ SameRegs s t
      ∧ (s.sweepPeriod ≠ 0 → t.isDue (1000 * s.sweepPeriod.toNat) {} .sweep))
  ∧ ∀ s v, ∃ t, exec (.sweepWrite v) s = .next t ∧ t = { s with agenda := t.agenda, sweepPeriod := v.extractLsb' 0 32 }
      ∧ (v.extractLsb' 0 32 ≠ 0 → t.isDue (1000 * (v.extractLsb' 0 32).toNat) {} .sweep))
  ∧ ((∀ s i w p x b, (i = .tlbinvPage w p x ∧ p < 2 ^ 36 ∧ b = false) ∨ (i = .tlbinvAll w x ∧ p = 0 ∧ b = true) → x < 64 →
    ((s.tlbinv.get {} w).pend = false → ∃ t, exec i s = .next t ∧ t = { s with agenda := t.agenda, tlbinv := t.tlbinv }
      ∧ t.tlbinv.get {} w = { page := p, ctx := x, all := b, pend := true } ∧ t.isDue 300 { unit := w } .tlbinvComplete)
    ∧ ((s.tlbinv.get {} w).pend = true → ∃ t, exec i s = .next t ∧ t = { s with tlbinv := t.tlbinv }
      ∧ t.tlbinv.get {} w = { s.tlbinv.get {} w with ign := true }))
  ∧ ∀ s w v, w = s.here.unit → s.tlbinv.find w = some v → v.pend = true → s.moves.find (w - 2) = none →
    ∃ t, exec .tlbinvComplete s = .next t
      ∧ t = { s with cores := t.cores, dies := t.dies, ctxs := t.ctxs, tlbinv := t.tlbinv }
      ∧ t.tlbinv.get {} w = { v with pend := false } ∧ SameRegs s t
      ∧ (∀ d, ∀ e ∈ (t.die d).tlb, e ∈ (s.die d).tlb ∧ v.names e = false)
      ∧ ∀ c, ∀ e ∈ (t.core c).tlb, e ∈ (s.core c).tlb ∧ v.names e = false)

/-- R73, R74, R76, R77: a move sets MIG in the leaf; it copies every granule and switches the leaf, unless software
has changed it; a move that has not switched after 100,000 ticks is undone. R78, R79: an M-die goes out of service
once nothing of a live context lies on it, and comes back with the channels it keeps; what the host must move is asked
for first. That a move copies at the instant of its switch, what moves with the page, the 100,000 ticks between two
scans of a retirement, and the codes of what the host is told are the model's choice (notes/assumptions/3, 16, 17 and
44.md). -/
def Obligations.PageMovesAndRetirement : Prop :=
  ((∀ s g x va w e lg a, s.leafOf x va = some (e, lg, a) → g < 10 → s.moves.find g = none → e &&& migBit = 0 →
    s.holdsTables { ctx := x, va := va / 2 ^ lg * 2 ^ lg, lg := lg, entryPa := a, old := e ||| migBit,
                    new := placedAt e w, start := s.now } = false →
    mayMove g lg e (placedAt e w) = true → s.leafOk lg (placedAt e w) = true →
    s.framesFree s.used (placedAt e w) lg = true → s.Inv →
    ∃ t, exec (.migrationStart g x va w) s = .next t ∧ t.Wrote s a (toLe 8 (e ||| migBit).toNat)
      ∧ t.moves.find g = some { ctx := x, va := va / 2 ^ lg * 2 ^ lg, lg := lg, entryPa := a, old := e ||| migBit,
                                new := placedAt e w, start := s.now }
      ∧ t.isDue 100000 { unit := g } .migrationTimeout ∧ t.cores = s.cores)
  ∧ (∀ s g m e n, g = s.here.unit → s.moves.find g = some m → m.switched = false → e = BitVec.ofNat 64 (s.num m.entryPa 8) →
    (e ^^^ m.old) &&& ~~~heatBits = 0 → n = 2 ^ m.lg / 4096 → s.Inv → m.entryPa % 8 = 0 →
    (∀ k < n, physOf m.new m.lg (m.va + 4096 * k) % 4096 = 0
      ∧ physOf m.new m.lg (m.va + 4096 * k) / 4096 ≠ m.entryPa / 4096
      ∧ ∀ j < n, physOf m.old m.lg (m.va + 4096 * j) % 4096 = 0
        ∧ physOf m.new m.lg (m.va + 4096 * k) ≠ physOf m.old m.lg (m.va + 4096 * j)
        ∧ (j ≠ k → physOf m.new m.lg (m.va + 4096 * k) ≠ physOf m.new m.lg (m.va + 4096 * j))) →
    ∃ t, exec .migrationSwitch s = .next t
      ∧ (∀ k < n, ∀ i < 4096,
          t.byte (physOf m.new m.lg (m.va + 4096 * k) + i) = s.byte (physOf m.old m.lg (m.va + 4096 * k) + i))
      ∧ t.num m.entryPa 8 = ((m.new &&& ~~~(migBit ||| heatBits)) ||| (e &&& heatBits)).toNat
      ∧ t.moves.find g = some { m with switched := true } ∧ (t.tlbinv.get {} (2 + g)).pend = true)
  ∧ ∀ s g m e, g = s.here.unit → s.moves.find g = some m → m.switched = false → m.start + 100000 ≤ s.now →
    e = BitVec.ofNat 64 (s.num m.entryPa 8) → (e ^^^ m.old) &&& ~~~heatBits = 0 → s.Inv →
    ∃ t, exec .migrationTimeout s = .next t ∧ t.Wrote s m.entryPa (toLe 8 (e &&& ~~~migBit).toNat)
      ∧ t.moves.find g = none ∧ t.cores = s.cores)
  ∧ (∀ s m n, m < 8 → n ≤ 32 →
    (s.scan m = ([], []) → n = 0 → ∃ t, exec (.mdieRetire m n) s = .next t
      ∧ t = { s with geomMdie := s.geomMdie &&& ~~~(1#8 <<< m), geomGen := t.geomGen }
      ∧ (t.geomMdie ≠ s.geomMdie → t.geomGen = s.geomGen + 1))
    ∧ (s.scan m = ([], []) → n ≠ 0 → ∃ t, exec (.mdieRetire m n) s = .next t
      ∧ t = { s with geomMdie := s.geomMdie ||| (1#8 <<< m), channels := t.channels, geomGen := t.geomGen }
      ∧ t.channels.get 32 m = n)
    ∧ (∀ ws ps, s.scan m = (ws, ps) → ws ≠ [] ∨ ps ≠ [] → ∃ t, exec (.mdieRetire m n) s = .next t
      ∧ (ps = [] → t = { s with agenda := t.agenda, outbox := t.outbox, pba := t.pba }) ∧ t.isDue 100000 {} (.mdieRetire m n)
      ∧ t.outbox = s.outbox ++ ws.map (fun x => .relocate x.ctx x.va x.kind) ++ (if ws = [] then [] else s.signal 0)
      ∧ t.geomMdie = s.geomMdie ∧ t.channels = s.channels ∧ SameRegs s t))

/-- R187, R68, R70, R83, R90, R92, R93, R103, R152, R282: what the writes of device registers set. Every register that
is read-only, and every offset with no register, ignores its write. The offsets from 0x100000 on for BAR2, the effect
of a write of the MSI-X table, and that a nonzero reserved field of a descriptor is only noted, are the model's
choices (log entries 57 and 63). R86: a write of the host to the window, outside its register areas, stores its bytes
and no others; the host may cache their lines from then on. R72, R80, R256: the writes BINDCTL_WRITE, RACVA_WRITE and
WAYRES_WRITE. The sum of the ways of a die's ranges stays at most 15, and CTX is the writer's. -/
def Obligations.DeviceAndHostWrites : Prop :=
  ((∀ s v, ∃ t, exec (.leasecfgWrite v) s = .next t
    ∧ t.leaseCap = (if v.extractLsb' 0 2 = 3 then 2 else v.extractLsb' 0 2)
    ∧ (t.leaseCap < s.leaseCap → t.leaseOld = s.leaseCap ∧ t.leaseUntil = s.now + 4096)
    ∧ t = { s with leaseCap := t.leaseCap, leaseOld := t.leaseOld, leaseUntil := t.leaseUntil })
  ∧ ∀ s v, exec (.registerWrite 0x0028 v) s = .next { s with margin := v.extractLsb' 0 16 }
    ∧ exec (.registerWrite 0x0100 v) s = .next { s with prqBase := v.extractLsb' 12 35 }
    ∧ exec (.registerWrite 0x0020 v) s = exec (.leasecfgWrite v) s
    ∧ exec (.registerWrite 0x0008 v) s = exec (.sweepWrite v) s
    ∧ (∀ n < 64, exec (.registerWrite (0x10000 + 64 * n + 8) v) s = .next (if (s.ctx n).v then s
        else s.setCtx n { s.ctx n with root := v.extractLsb' 16 32 }))
    ∧ (∀ n < 128, (n % 2 = 0 ∨ s.pba.getLsbD (n / 2) = false ∨ v.getLsbD 32 = true →
          exec (.registerWrite (0x20000 + 8 * n) v) s = .next { s with msixTable := s.msixTable.set n v })
        ∧ (n % 2 = 1 → s.pba.getLsbD (n / 2) = true → v.getLsbD 32 = false →
          exec (.registerWrite (0x20000 + 8 * n) v) s = .next { s with
            msixTable := s.msixTable.set n v, pba := s.pba &&& ~~~(1#64 <<< (n / 2)), outbox := s.outbox ++ [.msix (n / 2)] }))
    ∧ (∃ t, exec (.registerWrite 0x0108 v) s = .next t ∧ t = { s with agenda := t.agenda, prqLog2 := v.extractLsb' 0 5 })
    ∧ (∃ t, exec (.registerWrite 0x0110 v) s = .next t ∧ t = { s with agenda := t.agenda, prqHead := v.extractLsb' 0 16 })
    ∧ ((s.tlbinv.get {} 0).pend = false → ∃ t, exec (.registerWrite 0x0010 v) s = .next t
      ∧ t = { s with agenda := t.agenda, tlbinv := t.tlbinv } ∧ t.tlbinv.get {} 0
        = { page := v.toNat / 2 ^ 16 % 2 ^ 36, ctx := v.toNat / 2 ^ 52 % 2 ^ 6, all := v.getLsbD 58, pend := true })
    ∧ ((s.tlbinv.get {} 0).pend = true → ∃ t, exec (.registerWrite 0x0010 v) s = .next t
      ∧ t = { s with tlbinv := t.tlbinv } ∧ t.tlbinv.get {} 0 = { s.tlbinv.get {} 0 with ign := true })
    ∧ (∀ n < 64, exec (.registerWrite (0x10000 + 64 * n) v) s
          = exec (if v.getLsbD 0 = true then .contextCreate n v else .contextKill n v) s
        ∧ exec (.registerWrite (0x10000 + 64 * n + 0x10) v) s = .next (if (s.ctx n).v then s
          else s.setCtx n { s.ctx n with frbase := v })
        ∧ exec (.registerWrite (0x10000 + 64 * n + 0x18) v) s = .next (if (s.ctx n).v then s
          else s.setCtx n { s.ctx n with frLog2 := v.extractLsb' 0 5 }))
    ∧ (∀ q < 4096, exec (.registerWrite (0x40000 + 64 * q) v) s
          = exec (if v.getLsbD 0 = true then .queueEnable q v else .queueDisable q v) s
        ∧ (∀ k ∈ [0x28, 0x30, 0x38], ∃ t, exec (.registerWrite (0x40000 + 64 * q + k) v) s = .next t
          ∧ t = { s with queues := t.queues } ∧ t.queue q = { s.queue q with resBad := (t.queue q).resBad }
          ∧ ∀ p ≠ q, t.queue p = s.queue p)
        ∧ (∀ k ∈ [0x08, 0x10, 0x18], (s.queue q).v = true → exec (.registerWrite (0x40000 + 64 * q + k) v) s = .next s)
        ∧ ((s.queue q).v = false → ∀ k ∈ [0x08, 0x10, 0x18], ∃ t, exec (.registerWrite (0x40000 + 64 * q + k) v) s = .next t
          ∧ t = { s with queues := t.queues } ∧ (∀ p ≠ q, t.queue p = s.queue p)
          ∧ t.queue q = { s.queue q with
              ring := if k = 0x08 then v else (s.queue q).ring, quota := if k = 0x10 then v.toNat % 2 ^ 16 else (s.queue q).quota,
              alrec := if k = 0x18 then v else (s.queue q).alrec, resBad := (t.queue q).resBad }))
    ∧ (∀ n o, n < 64 → o < 4096 → let x := s.ctx n
        ((o = 0x10 ∨ o = 0x20 ∨ (0x40 ≤ o)) → ∃ t, exec (.registerWrite (0x100000 + 4096 * n + o) v) s = .next t
          ∧ t = { s with ctxs := t.ctxs } ∧ ∀ m, t.ctx m = s.ctx m)
        ∧ (o < 0x10 → ∃ t, exec (.registerWrite (0x100000 + 4096 * n + o) v) s = .next t
          ∧ t = { s with ctxs := t.ctxs } ∧ t.ctx n = { x with ndrop := true } ∧ ∀ m ≠ n, t.ctx m = s.ctx m)
        ∧ (o = 0x18 → ∃ t, exec (.registerWrite (0x100000 + 4096 * n + o) v) s = .next t
          ∧ t = { s with ctxs := t.ctxs } ∧ t.ctx n = { x with query := v.extractLsb' 0 32 } ∧ ∀ m ≠ n, t.ctx m = s.ctx m)
        ∧ (o = 0x38 → ∃ t, exec (.registerWrite (0x100000 + 4096 * n + o) v) s = .next t
          ∧ t = { s with ctxs := t.ctxs } ∧ (∀ m ≠ n, t.ctx m = s.ctx m)
          ∧ t.ctx n = { x with ndrop := x.ndrop && !v.getLsbD 16, pdrop := x.pdrop && !v.getLsbD 17 }))
    ∧ ∀ off, (off < 0x10000 ∧ off ∉ [0x0008, 0x0010, 0x0020, 0x0028, 0x0100, 0x0108, 0x0110])
        ∨ (0x10000 ≤ off ∧ off < 0x11000 ∧ off % 64 ∉ [0x00, 0x08, 0x10, 0x18]) ∨ (0x11000 ≤ off ∧ off < 0x20000)
        ∨ (0x20400 ≤ off ∧ off < 0x40000) ∨ (0x20000 ≤ off ∧ off < 0x100000 ∧ off % 8 ≠ 0) ∨ (0x80000 ≤ off ∧ off < 0x100000)
        ∨ (0x100000 ≤ off ∧ off < 0x140000 ∧ 0x100 ≤ off % 4096) ∨ 0x140000 < off →
      exec (.registerWrite off v) s = .next s)
  ∧ (∀ s off bs, off + bs.length ≤ 262144 → (∀ k < bs.length, isRegArea (2 ^ 43 + off + k) = false) → s.Inv →
    (∀ k < bs.length, s.lineWaits 32 ((2 ^ 43 + off + k) / 128) = []) →
    ∃ t, exec (.hostWindowWrite off bs) s = .next t ∧ t.Wrote s (2 ^ 43 + off) bs
      ∧ (∀ k < bs.length, t.hostCached.contains ((2 ^ 43 + off + k) / 128) = true) ∧ t.cores = s.cores
      ∧ (∀ d ≠ 24, t.die d = s.die d) ∧ t.die 24 = { s.die 24 with gwctMax := (t.die 24).gwctMax })
  ∧ ((∀ s c v, c < 640 → ∃ t, exec (.bindctlWrite c v) s = .next t ∧ (t.core c).heatReg.toNat = v.toNat % 2 ^ 16
    ∧ (∀ d, d ≠ c → t.core d = s.core d) ∧ SameRegs s t ∧ t.mem = s.mem)
  ∧ (∀ s c v, c < 640 → ∃ t, exec (.racvaWrite c v) s = .next t ∧ (t.core c).racva.toNat = v.toNat % 2 ^ 52
    ∧ (t.core c) = { s.core c with racva := (t.core c).racva } ∧ (∀ d, d ≠ c → t.core d = s.core d) ∧ t = { s with cores := t.cores })
  ∧ ∀ s d n ctx v, d < 16 → n < 8 → ctx < 64 →
    let used : Nat := ((List.range 8).map (fun k =>
      let w : WayRes := (s.die d).wayres.get {} k
      if k = n ∨ w.size = 0 then 0 else w.ways)).sum
    ∃ t, exec (.wayresWrite d n ctx v) s = .next t ∧ t = { s with dies := t.dies }
      ∧ (∀ e, e ≠ d → t.die e = s.die e) ∧ t.die d = { s.die d with wayres := (t.die d).wayres, sets := (t.die d).sets }
      ∧ (∀ k, k ≠ n → (t.die d).wayres.get {} k = (s.die d).wayres.get {} k)
      ∧ let w : WayRes := (t.die d).wayres.get {} n
        w.base = v.toNat % 2 ^ 31 ∧ w.size = v.toNat / 2 ^ 31 % 2 ^ 16 ∧ w.k = min 16 (v.toNat / 2 ^ 51 % 2 ^ 5) ∧ w.ctx = ctx
        ∧ w.ways = if w.size = 0 then v.toNat / 2 ^ 47 % 2 ^ 4 else min (v.toNat / 2 ^ 47 % 2 ^ 4) (15 - used))

-- ## Device steps: links, package, banks, engines, Binder

/-- R35, R36, R41, R42, R48: what a sender places on its wire in its turn, with its CRC: LINK flits first, then flits
to send again, then a new one, numbered and held; on a bridge it arrives 15 ticks later, by a Hyley port it leaves the
device. Nothing but the link, and what is due, changes. R42, R45: a flit in its turn is taken; one that was taken
before is dropped; one that fails its check, or is out of turn, makes the receiver wait for the expected one. R41,
R42, R43, R49: what ACK, NAK and ALLOW do to a sender, what the ACK timer sends, and what a sender that hears nothing
for a microsecond sends again. The CRC-32C taken as the Castagnoli code, the capacity of a receiver, the start of a
slot with three flits of allowance, the flits of a Hyley port in a tick and one window for both counts of R45 are the
model's choice (notes/assumptions/3, 10, 20 and 53.md). -/
def Obligations.LinkFlits : Prop :=
  (∀ s n l, n = s.here.unit → l = s.link n → l.lanes ≠ 0 → l.training = false →
    l.burst.1 ≠ s.now ∨ l.burst.2 < (if n < 1024 ∧ l.lanes = 64 then 6 else 3) →
    let leaves (t : State) (f : Flit) : Prop :=
      if n < 1024 then (t.link n).wire = l.wire ++ [{ f with crc := crc32c f.image }] ∧ t.isDue 15 { unit := n } .flitReceive
      else t.outbox = s.outbox ++ [.flit ((n - 1024) / 2) (f.image ++ toLe 4 (crc32c f.image))]
    (∀ f fs, l.linkq = f :: fs → ∃ t, exec .flitSend s = .next t ∧ t.still = s.still ∧ (t.link n).linkq = fs
      ∧ leaves t f ∧ ∀ m ≠ n, t.link m = s.link m)
    ∧ (∀ f fs, l.linkq = [] → l.resend = f :: fs → ∃ t, exec .flitSend s = .next t ∧ t.still = s.still
      ∧ (t.link n).resend = fs ∧ leaves t f ∧ ∀ m ≠ n, t.link m = s.link m)
    ∧ (∀ k f, l.linkq = [] → l.resend = [] → l.retry.length < 512 → l.turn n = some (k, f) → f.up = none →
      ∃ t, exec .flitSend s = .next t ∧ t.still = s.still ∧ leaves t { f with seq := l.nextSeq }
        ∧ (t.link n).retry = l.retry ++ [{ f with seq := l.nextSeq }] ∧ (t.link n).nextSeq = (l.nextSeq + 1) % 4096
        ∧ (t.link n).txq = l.txq.erase f ∧ ∀ m ≠ n, t.link m = s.link m))
  ∧ (∀ s n l f fs, n = s.here.unit → l = s.link n → l.lanes ≠ 0 → l.training = false → l.wire = f :: fs →
    (f.crcBad = false → f.cls ≠ 0 → f.seq = l.expected → f.last = false → f.malformed (decide (1024 ≤ n)) = false →
      l.drop.contains (f.cls, f.msg) = false →
      ∃ t, exec .flitReceive s = .next t ∧ t.still = s.still ∧ (t.link n).wire = fs
        ∧ (t.link n).expected = (l.expected + 1) % 4096 ∧ (t.link n).recovering = false ∧ (t.link n).rx = l.rx ++ [f])
    ∧ (f.crcBad = false → f.cls ≠ 0 → f.seq ≠ l.expected → (l.expected + 4096 - f.seq) % 4096 ≤ 512 →
      exec .flitReceive s = .next (s.setLink n { l with wire := fs }))
    ∧ (f.crcBad = true ∨ (f.cls ≠ 0 ∧ f.seq ≠ l.expected ∧ 512 < (l.expected + 4096 - f.seq) % 4096) →
      ∃ t, exec .flitReceive s = .next t ∧ t.still = s.still ∧ (t.link n).recovering = true
        ∧ (t.link n).expected = l.expected ∧ (t.link n).rx = l.rx))
  ∧ ((∀ s n e, ∃ t, exec (.ack n e) s = .next t ∧ t.still = s.still
    ∧ (t.link n).retry = (s.link n).retry.filter (fun f => !covered e f)
    ∧ (t.link n).resend = (s.link n).resend.filter (fun f => !covered e f) ∧ ∀ m ≠ n, t.link m = s.link m)
  ∧ (∀ s n e, ∃ t, exec (.nak n e) s = .next t ∧ t.still = s.still
    ∧ (t.link n).retry = (s.link n).retry.filter (fun f => !covered e f)
    ∧ (t.link n).resend = (t.link n).retry ∧ ∀ m ≠ n, t.link m = s.link m)
  ∧ (∀ s n i k a u, (s.link n).allow.find i = some (a, u) → ∃ t, exec (.allow n i k) s = .next t ∧ t.still = s.still
    ∧ t.link n = { s.link n with allow := (t.link n).allow } ∧ (t.link n).allow.find i = some (a, u - k)
    ∧ ∀ m ≠ n, t.link m = s.link m)
  ∧ (∀ s n, n = s.here.unit → (s.link n).unacked ≠ 0 → (s.link n).lastAck + 32 ≤ s.now → backLink n ≠ n →
    ∃ t, exec .ackTimer s = .next t ∧ t.still = s.still ∧ (t.link n).unacked = 0
      ∧ (t.link (backLink n)).linkq
          = (s.link (backLink n)).linkq ++ [{ seq := (s.link n).expected, cls := 0, typ := 1, dst := 0 }])
  ∧ ∀ s n, n = s.here.unit → (s.link n).retry ≠ [] → (s.link n).lanes ≠ 0 → (s.link n).training = false →
    (s.link n).lastHeard + 1000 ≤ s.now →
    ∃ t, exec .replayTimeout s = .next t ∧ t.still = s.still ∧ (t.link n).resend = (s.link n).retry
      ∧ (t.link n).retry = (s.link n).retry ∧ (t.link n).lastHeard = s.now)

/-- R45, R46, R47, R52: training stops both directions of a link for 4 microseconds and loses what is on its wires;
after it the held flits are sent again; a bridge keeps one good half, and one with none ends every launch; a Hyley
port with a bad half leaves the ports that serve. R52, R54, R55, R208: a request of another device is translated in
the context it names and goes on to its home. One that the context does not let through, whose walk meets a poisoned
entry or a failed die, or whose atomic is wider than the granule of its home is not performed: an ERR response with
its status goes out of a port that serves the requester's device, or nowhere where none does. That an atomic of the
wrong size is answered with PERM, the halves that work after training, and the way of a response to its port are the
model's choice (notes/assumptions/3, 8, 10, 20, 42 and 52.md). -/
def Obligations.TrainingAndRemoteRequests : Prop :=
  ((∀ s n, n = s.here.unit → (s.link n).lanes ≠ 0 → (s.link n).training = false →
    ∃ t a b, exec .retraining s = .next t ∧ t.still = { s.still with undefs := s.undefs + 2 }
      ∧ (t.link n).training = true ∧ (t.link n).wire = [] ∧ (t.link (backLink n)).training = true
      ∧ (t.link (backLink n)).wire = [] ∧ t.isDue 4000 {} (.retrainComplete n a b))
  ∧ ∀ s n lo hi, (s.link n).training = true → (s.link n).lanes ≠ 0 →
    (lo = true → hi = true → ∃ t, exec (.retrainComplete n lo hi) s = .next t ∧ t.still = s.still
      ∧ (t.link n).training = false ∧ (t.link n).lanes = (s.link n).lanes ∧ (t.link n).resend = (t.link n).retry)
    ∧ (n < 1024 → lo ≠ hi → ∃ t, exec (.retrainComplete n lo hi) s = .next t ∧ t.still = { s.still with pba := t.pba }
      ∧ (t.link n).training = false ∧ (t.link n).lanes = min (s.link n).lanes 32)
    ∧ (n < 1024 → lo = false → hi = false → ∃ t, exec (.retrainComplete n lo hi) s = .next t
      ∧ t.bridgeDown = true ∧ (t.link n).lanes = 0 ∧ t.mem = s.mem
      ∧ ∀ e ∈ s.launches, e.2.state.final = false → ∃ f ∈ t.fatal, f.1 = e.1 ∧ f.2.cause = .link)
    ∧ (1024 ≤ n → lo = false ∨ hi = false → ∃ t, exec (.retrainComplete n lo hi) s = .next t
      ∧ t.domUp = s.domUp - 1 ∧ (∀ d, (n - 1024) / 2 ∉ t.ports.get [] d)
      ∧ t.still = { s.still with domUp := t.domUp, ports := t.ports, pba := t.pba }))
  ∧ ((∀ s r e lg a u k w, (s.ctx r.ctx).v = true →
    u = ({ s with fresh := s.fresh + 1 } : State).setReq s.fresh
      { kind := r.kind, die := 24 + r.xdie % 2, ctx := r.ctx, space := 2, va := r.va, size := r.size, data := r.data,
        mask := r.mask, aop := r.aop, srcDev := some r.srcDev, tag := r.tag, farDie := r.srcDie, issued := s.now } →
    u.walk (24 + r.xdie % 2) r.ctx r.va = (.leaf e lg a, w) →
    k = (match r.kind with | .read => AccessKind.load | .write | .wmask => .store | _ => .atomic) →
    s.bridgeDown = false → leafPermits e k = true → s.homeOf (physOf e lg r.va) ≠ .hole →
    (k = .atomic → r.size ≤ 2 ^ (s.homeOf (physOf e lg r.va)).granule) →
    ∃ t, exec (.remoteRequest r) s = .next t ∧ (t.req s.fresh).stage = .home ∧ (t.req s.fresh).kind = r.kind
      ∧ (t.req s.fresh).pa = physOf e lg r.va ∧ (t.req s.fresh).data = r.data ∧ (t.req s.fresh).srcDev = some r.srcDev
      ∧ t.cores = s.cores)
  ∧ ∀ s r u k die c, die = 24 + r.xdie % 2 →
    u = ({ s with fresh := s.fresh + 1 } : State).setReq s.fresh
      { kind := r.kind, die := die, ctx := r.ctx, space := 2, va := r.va, size := r.size, data := r.data,
        mask := r.mask, aop := r.aop, srcDev := some r.srcDev, tag := r.tag, farDie := r.srcDie, issued := s.now } →
    k = (match r.kind with | .read => AccessKind.load | .write | .wmask => .store | _ => .atomic) →
    ((s.ctx r.ctx).v = false ∧ c = 1 ∨ (s.ctx r.ctx).v = true ∧ ∃ x w, u.walk die r.ctx r.va = (x, w)
      ∧ ((∃ e lg a, x = .leaf e lg a ∧ c = 1 ∧ (leafPermits e k = false ∨ s.homeOf (physOf e lg r.va) = .hole
            ∨ k = .atomic ∧ 2 ^ (s.homeOf (physOf e lg r.va)).granule < r.size))
        ∨ x = .perm ∧ c = 1 ∨ x = .ecc ∧ c = 2 ∨ (∃ n, x = .link n) ∧ c = 3)) →
    ∃ t, exec (.remoteRequest r) s = .next t ∧ t.cores = s.cores ∧ t.launches = s.launches ∧ t.waits = s.waits
      ∧ t.reqs.find s.fresh = none ∧ ((s.ctx r.ctx).v = false → t.still = s.still)
      ∧ (r.srcDev ≠ s.domDev.toNat → s.ports.get [] r.srcDev = [] → ∀ m, (t.link m).txq = (s.link m).txq)
      ∧ ∀ ps p m f, r.srcDev ≠ s.domDev.toNat → ps = s.ports.get [] r.srcDev → ps ≠ [] →
          p = ps.getD (Config.portHash (hashedPart r.va) % ps.length) 0 → firstLink die (32 + p) = some m →
          f = flitsOf 2 2 s.fresh (32 + p) (flitPrefix 0 r.srcDie s.domDev.toNat r.tag c r.size.log2 0 r.ctx)
            (toLe 8 (s.domDev.toNat * 2 ^ 53 + r.va) ++ toLe 8 r.srcDev) →
          (t.link m).txq = (s.link m).txq ++ (if m < 1024 then f else hyleyForm f) ∧ ∀ n ≠ m, t.link n = s.link n)

/-- R28, R33, R82, R22: what the resets and the thermal trip leave: fuses and flash always, memory outside the package
always, and over a reset of the host port everything but the contexts, their launches and what goes with these: every
context ends, with F_KILLED as the status of its launches. R27, R28, R29, R30: the image that boot waits for runs once
it is verified, and is measured; another is ignored. That memory within the package reads 0 after a reset, and that a
reset of the host port drops the accesses which the quires have not sent, is the model's choice (notes/assumptions/4
and 23.md). -/
def Obligations.ResetsAndRecovery : Prop :=
  ((∀ s, s.Inv → ∃ t, exec .packageReset s = .next t ∧ t.power = true ∧ t.now = 0 ∧ t.cores = [] ∧ t.dies = []
    ∧ t.launches = [] ∧ t.ctxs = [] ∧ t.reqs = [] ∧ t.queues = [] ∧ (∀ n, t.link n = { lanes := (t.link n).lanes }) ∧ t.poison = []
    ∧ (∀ a, t.byte a = if (2 ^ 42 ≤ a ∧ a < 2 ^ 43) ∨ 2 ^ 47 ≤ a then s.byte a else 0)
    ∧ t.trust.fuseTrusted = s.trust.fuseTrusted ∧ t.trust.fuseService = s.trust.fuseService
    ∧ t.trust.flashTrusted = s.trust.flashTrusted ∧ t.trust.flashService = s.trust.flashService
    ∧ t.trust.cycles = s.trust.cycles + 1)
  ∧ (∀ s, s.Inv → ∃ t, exec .thermalTrip s = .next t ∧ t.power = false ∧ t.hostLinkDown = true ∧ t.cores = []
    ∧ (∀ a, t.byte a = if (2 ^ 42 ≤ a ∧ a < 2 ^ 43) ∨ 2 ^ 47 ≤ a then s.byte a else 0)
    ∧ t.trust.fuseTrusted = s.trust.fuseTrusted ∧ t.trust.fuseService = s.trust.fuseService
    ∧ t.trust.flashTrusted = s.trust.flashTrusted ∧ t.trust.flashService = s.trust.flashService)
  ∧ (∀ s, s.power = false → step s = .fault .powerOff)
  ∧ ∀ i s, (i = .hotReset ∨ i = .functionLevelReset) → ∃ t, exec i s = .next t ∧ (∀ n, (t.ctx n).v = false)
      ∧ (∀ k l, s.launches.find k = some l → (s.ctx l.ctx).v = true → t.launches.find k = none
        ∧ ∀ e ∈ (t.ctx l.ctx).kept, e.1 = l.lid → e.2.1 = LState.fKilled.code)
      ∧ t = { s with agenda := t.agenda, cores := t.cores, dies := t.dies, launches := t.launches, ctxs := t.ctxs,
                     reqs := t.reqs, ins := t.ins, waits := t.waits, queues := t.queues, hostCached := [],
                     restoring := t.restoring, fatal := t.fatal, records := t.records })
  ∧ (∀ s b g, (s.trust.awaiting ≠ some b.toNat ∨ s.trust.accepts b g = false → exec (.recoveryImage b g) s = .next s)
    ∧ (s.trust.awaiting = some b.toNat → Config.ecdsaOk (Config.sha384 g.content) g.ecdsa = true →
      Config.lmsOk g.content g.lms = true → s.trust.fuse b ≤ g.svn →
      ∃ t, exec (.recoveryImage b g) s = .next t ∧ t.mem = s.mem ∧ t.cores = s.cores
        ∧ (b = true → t.ready = true ∧ t.trust.meas.get 0 3 = Config.sha384 g.content)
        ∧ (b = false → t.trust.booted = true ∧ t.trust.meas.get 0 2 = Config.sha384 g.content)))

/-- R29, R32: an alarm erases the keys, or under the Record policy extends measurement 4; a service image that does
not verify raises one; a signed command blows one fuse bit of a class, 64 at most. R31, R32: the trusted firmware
answers each request on the DOE mailbox; before it runs nothing is answered, and after an erase every request is
answered with an error. Nothing else changes. The signatures, the SPDM codes and bodies, the code of an alarm in an
extension, that of its RAS report, and what the verification of a running image repeats are the model's choice
(notes/assumptions/9, 44, 55 and 61.md). -/
def Obligations.AlarmsAndAttestation : Prop :=
  ((∀ s k, ∃ t, exec (.trustAlarm k) s = .next t ∧ t = { s with trust := t.trust, outbox := t.outbox, pba := t.pba }
    ∧ t.outbox = s.outbox ++ [.ras 32 (alarmCode k)] ++ (if s.masked 0 then [] else [.msix 0])
    ∧ t.pba = (if s.masked 0 then s.pba ||| 1 else s.pba)
    ∧ (s.trust.record = false → t.trust = { s.trust with keys := false, erased := true })
    ∧ (s.trust.record = true → t.trust = { s.trust with meas := t.trust.meas }
      ∧ t.trust.meas.get 0 4
        = Config.sha384 (digestBytes (s.trust.meas.get 0 4) ++ [BitVec.ofNat 8 (alarmCode k)])))
  ∧ (∀ s g i, s.trust.service = some i →
    (s.trust.accepts true g = true → ∃ t, exec (.serviceReverify g) s = .next t ∧ t = { s with agenda := t.agenda }
      ∧ ∃ e ∈ t.agenda, e.here = {} ∧ e.what = .serviceReverify i)
    ∧ (s.trust.accepts true g = false → ∃ t u, exec (.serviceReverify g) s = .next t ∧ exec (.trustAlarm .reverify) s = .next u
      ∧ t = { u with agenda := t.agenda } ∧ ∃ e ∈ t.agenda, e.here = {} ∧ e.what = .serviceReverify i))
  ∧ ∀ s b sig, s.trust.booted = true → s.trust.fuse b < 64 →
    Config.ecdsaOk (Config.sha384 [BitVec.ofNat 8 b.toNat, BitVec.ofNat 8 (s.trust.fuse b)]) sig = true →
    ∃ t, exec (.versionAdvance b sig) s = .next t ∧ t = { s with trust := t.trust }
      ∧ t.trust.fuse b = s.trust.fuse b + 1 ∧ t.trust.fuse (!b) = s.trust.fuse (!b))
  ∧ (∀ s i c body, (i, c, body) ∈ [
      (Instr.getVersion, 0x04, [0x00, 0x01, 0x00, 0x13]), (.getCapabilities, 0x61, Config.spdmBody 0xE1),
      (.negotiateAlgorithms, 0x63, algorithmsBody),
      (.getDigests, 0x01, toLe 48 (Config.sha384 Config.certificate).toNat)]
      ∨ (∃ a n, i = .getCertificate a n ∧ c = 0x02 ∧ body = (Config.certificate.drop a).take n)
      ∨ (∃ n, i = .challenge n ∧ c = 0x03 ∧ body = Config.sign (n ++ s.trust.measBytes 255))
      ∨ (∃ k, i = .getMeasurements k ∧ c = 0x60
          ∧ body = s.trust.measBytes k ++ Config.sign (s.trust.measBytes k))
      ∨ (∃ k, i = .spdmUnsupported k ∧ c = 0x7F ∧ body = [0x07, BitVec.ofNat 8 k]) →
    (s.trust.booted = true → s.trust.erased = false →
      exec i s = .next { s with outbox := s.outbox ++ [.doe c body] })
    ∧ (s.trust.booted = true → s.trust.erased = true → exec i s = .next { s with outbox := s.outbox ++ [.doe 0x7F [0x05]] })
    ∧ (s.trust.booted = false → exec i s = .next s))

/-- R16, R17, R22: a compute island takes a new frequency, as far as the power limit lets it, in a pause of the island
in which no register changes; a throttled die has each island that is faster lowered. R19, R20: each comparison of a
die's NOW with that of X-die 0 sets what the die slews to, within 2 ticks of X-die 0 and of every other die in
service, or fails the die with every launch that has quires there: with LINK, or with BARBROKEN where a package
barrier loses a participant (R157). R24, R25, R58, R79: what each bit error leaves, what the patrol scrubber corrects,
and the end of an annex port. The length of a pause and the order of the comparisons (notes/assumptions/3 and 40.md),
the deviation that one finds (8.md), the frequency that a power limit asks for (10.md), when a corrected error is
counted and how a flit's error is found (41.md), the codes of RAS reports (44.md) and a change ordered in a pause
(56.md) are the model's choice. -/
def Obligations.IslandsTimeErrors : Prop :=
  ((∀ s i m f, i < 32 → 800 ≤ m → m ≤ 4000 → m % 100 = 0 → f = s.limited i m →
    f ≤ m ∧ (2800 ≤ s.powerLimit → f = m) ∧ (s.islandMhz i = f → exec (.islandFreqChange i m) s = .next s)
    ∧ (s.islandMhz i ≠ f → s.paused.contains i = false →
      ∃ t, exec (.islandFreqChange i m) s = .next t ∧ t.islandMhz i = f ∧ t.paused = i :: s.paused
        ∧ (∀ j ≠ i, t.islandMhz j = s.islandMhz j) ∧ SameRegs s t ∧ t.mem = s.mem
        ∧ t.isDue 1000 { unit := i } .islandPauseEnd)
    ∧ (s.islandMhz i ≠ f → s.paused.contains i = true →
      ∃ t, exec (.islandFreqChange i m) s = .next t ∧ t = { s with agenda := t.agenda }))
  ∧ (∀ s d m, (∀ i ∈ islandsOf d, s.islandMhz i ≤ m) → exec (.thermalThrottle d m) s = .next s)
  ∧ (∀ s d m, 16 ≤ d → d < 26 → 800 ≤ m → m % 100 = 0 → s.paused.contains (d + 16) = false → m < s.islandMhz (d + 16) →
    m ≤ 4000 → ∃ t, exec (.thermalThrottle d m) s = .next t ∧ t.islandMhz (d + 16) = m
      ∧ (∀ j ≠ d + 16, t.islandMhz j = s.islandMhz j) ∧ SameRegs s t ∧ t.mem = s.mem)
  ∧ (∀ s d m, d < 16 → 800 ≤ m → m % 100 = 0 → s.paused = [] → m < s.islandMhz (2 * d) → m < s.islandMhz (2 * d + 1) →
    m ≤ 4000 →
    ∃ t, exec (.thermalThrottle d m) s = .next t ∧ t.islandMhz (2 * d) = m ∧ t.islandMhz (2 * d + 1) = m
      ∧ SameRegs s t ∧ t.mem = s.mem)
  ∧ ∀ s i, i = s.here.unit → s.paused.contains i = true → ∃ t, exec .islandPauseEnd s = .next t
      ∧ t.paused = s.paused.filter (· != i) ∧ t.mhz = s.mhz ∧ SameRegs s t ∧ t.mem = s.mem)
  ∧ (∀ s d x, d = s.here.unit → x = Config.deviation s.undefs → (s.die d).failed = false →
    (-2 ≤ x → x ≤ 2 → ∃ t, exec .timeCompare s = .next t
      ∧ t = { s with agenda := t.agenda, dies := t.dies, undefs := s.undefs + 1 } ∧ (t.die d).failed = false
      ∧ (t.die d).devAt = s.now ∧ (t.die d).devFrom = (s.die d).devNow s.now ∧ (∀ e ≠ d, t.die e = s.die e)
      ∧ ((∀ e ∈ s.dies, e.2.failed = false → -2 ≤ e.2.dev ∧ e.2.dev ≤ 2 ∧ -2 ≤ e.2.devFrom ∧ e.2.devFrom ≤ 2) →
        -2 ≤ (t.die d).dev ∧ (t.die d).dev ≤ 2 ∧ ∀ e ∈ s.dies, e.1 ≠ d → e.2.failed = false →
          (t.die d).dev ≤ e.2.dev + 2 ∧ e.2.dev ≤ (t.die d).dev + 2)
      ∧ t.isDue 40 { unit := nextCompared d } .timeCompare)
    ∧ (x < -2 ∨ 2 < x → ∃ t, exec .timeCompare s = .next t ∧ (t.die d).failed = true
      ∧ t.outbox = s.outbox ++ [.ras 20 d] ++ s.signal 0 ∧ t.mem = s.mem
      ∧ (∀ k ∈ s.launchesOn d, ∃ f ∈ t.fatal, f.1 = k
        ∧ f.2.cause = if (s.launch k).pbars.any (fun e => !e.2.waiters.isEmpty) then .barbroken else .link)
      ∧ t.isDue 40 { unit := nextCompared d } .timeCompare))
  ∧ ((∀ s pa, ∃ t, exec (.softError (.line pa) false) s = .next t ∧ t = { s with poison := t.poison }
    ∧ ∀ l, t.poison.contains l = (s.poison.contains l || l == pa / 128))
  ∧ (∀ s c b r w k, k = s.bank c b →
    (k.mode = .storage ∨ k.mode = .toComp → ∃ t, exec (.softError (.bankWord c b r w) false) s = .next t
      ∧ t.bank c b = { k with badW := (16 * r + w) :: k.badW } ∧ t = { s with cores := t.cores })
    ∧ (k.mode = .compute ∨ k.mode = .toStor → exec (.softError (.bankWord c b r w) false) s = .next s
      ∧ ∃ t, exec (.softError (.rowGroup c b r w) false) s = .next t
        ∧ t.bank c b = { k with badG := (8 * r + w) :: k.badG } ∧ t = { s with cores := t.cores })
    ∧ (k.mode = .storage ∨ k.mode = .toComp → exec (.softError (.rowGroup c b r w) false) s = .next s))
  ∧ (∀ s c j i k q, q = s.quire c j →
    (q.live = true → i < 32 → k < 4 * q.blocks → ∃ t, exec (.softError (.regWord c j i k) false) s = .next t
      ∧ t = { s with cores := t.cores } ∧ SameRegs s t ∧ ((t.quire c j).th i).badV = k :: (q.th i).badV)
    ∧ (q.live = false ∨ 32 ≤ i ∨ 4 * q.blocks ≤ k → exec (.softError (.regWord c j i k) false) s = .next s))
  ∧ (∀ s c l w x, w < 16 →
    ((s.core c).l1.find l = some x → ∃ t, exec (.softError (.l1Copy c l w) false) s = .next t
      ∧ t = { s with cores := t.cores } ∧ ∃ y, (t.core c).l1.find l = some y ∧ y = { x with bad := y.bad } ∧ w ∈ y.bad)
    ∧ ((s.core c).icache.find l = some x → ∃ t, exec (.softError (.codeCopy c l w) false) s = .next t
      ∧ t = { s with cores := t.cores } ∧ ∃ y, (t.core c).icache.find l = some y ∧ y = { x with bad := y.bad } ∧ w ∈ y.bad)
    ∧ ((s.die c).cache.find l = some x → ∃ t, exec (.softError (.dieCopy c l w) false) s = .next t
      ∧ t = { s with dies := t.dies } ∧ ∃ y, (t.die c).cache.find l = some y ∧ y = { x with bad := y.bad } ∧ w ∈ y.bad))
  ∧ (∀ s c l w, ∃ t u v, exec (.softError (.l1Copy c l w) false) s = .next t ∧ t = { s with cores := t.cores }
    ∧ exec (.softError (.codeCopy c l w) false) s = .next u ∧ u = { s with cores := u.cores }
    ∧ exec (.softError (.dieCopy c l w) false) s = .next v ∧ v = { s with dies := v.dies }
    ∧ ((s.core c).l1.find l = none → t.core c = s.core c) ∧ ((s.core c).icache.find l = none → u.core c = s.core c)
    ∧ ((s.die c).cache.find l = none → v.die c = s.die c))
  ∧ (∀ s q n, ∃ t, exec (.softError (.queueSlot q n) false) s = .next t ∧ t = { s with queues := t.queues }
    ∧ t.queue q = { s.queue q with sram := (t.queue q).sram } ∧ (t.queue q).sram.length = (s.queue q).sram.length
    ∧ ∀ k e, (s.queue q).sram[k]? = some e → (t.queue q).sram[k]? = some (if k = n then (e.1, true) else e))
  ∧ (∀ s n b l, l = s.link n → (l.wire = [] → exec (.softError (.flit n) b) s = .next s)
    ∧ ∀ f fs, l.wire = f :: fs → ∃ t g, exec (.softError (.flit n) b) s = .next t
      ∧ t = s.setLink n { l with wire := g :: fs } ∧ g = { f with crc := g.crc } ∧ g.crcBad = true)
  ∧ (∀ s l, patrolled l = true → exec (.softError l true) s = .next { s with latent := s.latent ++ [l] })
  ∧ (∀ s l, patrolled l = false → (∀ n, l ≠ .flit n) → ∃ t, exec (.softError l true) s = .next t
    ∧ t = { s with trust := t.trust } ∧ t.trust.telemetry = s.trust.telemetry + 1)
  ∧ (∀ s, ∃ t, exec .patrolScrub s = .next t ∧ t = { s with agenda := t.agenda, latent := [], trust := t.trust }
    ∧ t.trust.telemetry = s.trust.telemetry + s.latent.length ∧ t.isDue 100000000 {} .patrolScrub)
  ∧ (∀ s p, 8 ≤ p ∨ s.geomAnnex.getLsbD p = false → exec (.expanderFailure p) s = .next s)
  ∧ ∀ s p, p < 8 → s.geomAnnex.getLsbD p = true → ∃ t, exec (.expanderFailure p) s = .next t
      ∧ t = { s with geomAnnex := s.geomAnnex &&& ~~~(1#8 <<< p), geomGen := s.geomGen + 1, outbox := t.outbox, pba := t.pba }
      ∧ t.outbox = s.outbox ++ [.ras 58 p] ++ s.signal 0)

/-- R214, R216, R218: a conversion at the head of its bank's order begins when no earlier lane access is still to
come, and ends with the bank in its new mode, every cell, tag, accumulator and scale as it was. R230, R214, R219,
R228: an item at the head of its bank's order is performed when nothing of the bank is under way: a clear, a key, a
scale, a lane store; a pass begins to count, and at its end has changed accumulators alone, unless a row group fails
its check: then it has zeroed those that do and nothing else. The one list in which a bank's work waits, the step in
which an item is performed, and what begins in an island pause are the model's choice (notes/assumptions/3, 37 and
40.md). -/
def Obligations.BankConversionsAndItems : Prop :=
  (∀ s c b k it rest d, c = s.here.unit → b = s.here.sub → k = s.bank c b → k.queue = it :: rest → it.work = .conv d →
    (k.busy = false → s.paused.contains (islandOf c) = false → s.accessBefore c b it.ins = false →
      ∃ t, exec .bankConversionStart s = .next t ∧ t = { s with agenda := t.agenda, cores := t.cores }
        ∧ t.bank c b = { k with busy := true, freeAt := (t.bank c b).freeAt } ∧ SameRegs s t
        ∧ ∃ e ∈ t.agenda, e.here = { unit := c, sub := b } ∧ e.what = .bankConversionComplete)
    ∧ (k.busy = true → ∃ t, exec .bankConversionComplete s = .next t ∧ (t.bank c b).queue = rest
      ∧ (t.bank c b).mode = (if d then .compute else .storage) ∧ (t.bank c b).cells = k.cells
      ∧ (t.bank c b).tags = k.tags ∧ (t.bank c b).acc = k.acc ∧ (t.bank c b).scale = k.scale
      ∧ (t.bank c b).kscale = k.kscale ∧ t.mem = s.mem))
  ∧ ((∀ s c b k it rest, c = s.here.unit → b = s.here.sub → k = s.bank c b → k.queue = it :: rest → k.busy = false →
    s.paused.contains (islandOf c) = false →
    let becomes (x : Bank) : Prop := ∃ t, exec .bankItemBegin s = .next t ∧ t.mem = s.mem
      ∧ t.bank c b = { x with queue := rest, busy := false, freeAt := (t.bank c b).freeAt, lastPass := false }
    (∀ what, it.work = .bclr what → becomes { k with
        acc := if what.getLsbD 0 then [] else k.acc, tags := if what.getLsbD 1 then [] else k.tags,
        kscale := if what.getLsbD 2 then [] else k.kscale, scale := if what.getLsbD 3 then [] else k.scale })
    ∧ (∀ fs v n es, it.work = .bkey fs v n es → becomes (k.putKey fs v n (keyRounds fs es) (es.map Prod.fst)))
    ∧ (∀ v es, it.work = .bkscale v es → becomes (k.putScales v es))
    ∧ (∀ w cp, it.work = .micro w cp none → becomes (microOp k (singleMicro w cp) w).1)
    ∧ (∀ id r, it.work = .access [id] → s.reqs.find id = some r → r.kind = .write →
      it.ins = r.ins → (∀ n, s.ins.find r.ins = some n → n.bad = 0) → (∀ e ∈ s.reqs, e.2.stage ≠ .hold) →
      (∀ e ∈ s.reqs, e.2.ins = r.ins → e.2.kind = .write) →
      ∃ t, exec .bankItemBegin s = .next t ∧ t.mem = s.mem
        ∧ (t.bank c b).cells = k.cells.setMany (r.va % 2 ^ 17) (r.data.take r.size))
    ∧ (∀ fs v g0 ng b0 nb, it.work = .bmvm fs v g0 ng b0 nb → ∃ t, exec .bankItemBegin s = .next t
      ∧ t = { s with agenda := t.agenda, cores := t.cores }
      ∧ t.bank c b = { k with busy := true, freeAt := (t.bank c b).freeAt } ∧ SameRegs s t
      ∧ ∃ e ∈ t.agenda, e.here = { unit := c, sub := b } ∧ e.what = .passEnd))
  ∧ ∀ s c b k it rest fs v g0 ng b0 nb, c = s.here.unit → b = s.here.sub → k = s.bank c b → k.queue = it :: rest →
    k.busy = true → it.work = .bmvm fs v g0 ng b0 nb →
    (k.failing b0 nb = [] → ∃ t, exec .passEnd s = .next t ∧ t.mem = s.mem ∧ (t.bank c b).cells = k.cells
      ∧ (t.bank c b).tags = k.tags ∧ (t.bank c b).kscale = k.kscale ∧ (t.bank c b).scale = k.scale
      ∧ (t.bank c b).acc = (k.pass fs v g0 ng b0 nb).1.acc ∧ (t.bank c b).queue = rest ∧ t.ins = s.ins.del it.ins)
    ∧ (k.failing b0 nb ≠ [] → ∃ t, exec .passEnd s = .next t ∧ (t.bank c b).acc = k.acc
      ∧ (t.bank c b).cells = ((k.failing b0 nb).foldl Bank.zeroGroup k).cells ∧ (t.bank c b).queue = rest))

/-- R242, R243, R244, R248: a microprogram starts on the current copy of its slot, which is the new one in the cycle
of its completion, or faults on a malformed one; it runs to END or to the cap of 65,536 micro-operations, and leaves
its results, with bit 31 set at the cap, on their way to its lanes; R252: it stops at a checkpoint for a pre-emption.
R248, R249, R421: the Codex store accepts the words that were read, which is the instruction's fault point; when the
last is written the spare copy becomes the current one, and the instruction is over. That a microprogram goes on where
work stands behind it at its bank, and the step in which a leg of it is performed, is the model's choice
(notes/assumptions/3, 26 and 37.md). -/
def Obligations.MicroprogramsAndCodex : Prop :=
  ((∀ s c b k it rest cx cp l0 l1 lt vd, c = s.here.unit → b = s.here.sub → k = s.bank c b → k.queue = it :: rest →
    it.work = .bexec cx cp l0 l1 lt vd → k.busy = false → s.paused.contains (islandOf c) = false →
    let u : State := match s.completing c cx with | some id => s.finishCodex c cx id | none => s
    (((u.core c).slotWords cx).2 = false → ∃ t m, exec .bexecStart s = .next t
      ∧ t = { s with agenda := t.agenda, cores := t.cores }
      ∧ t.bank c b = { k with busy := true, micro := some m, freeAt := (t.bank c b).freeAt }
      ∧ m.words = ((u.core c).slotWords cx).1 ∧ m.cp = cp
      ∧ m.bp = cp ∧ m.lc = [l0, l1] ∧ m.lr = [l0, l1] ∧ m.lt = lt ∧ m.xc = 0 ∧ m.ix = 0 ∧ SameRegs s t
      ∧ ∃ e ∈ t.agenda, e.here = { unit := c, sub := b } ∧ e.what = .mpEnd)
    ∧ (((u.core c).slotWords cx).2 = true → ∃ t, exec .bexecStart s = .next t ∧ t.mem = s.mem
      ∧ (t.bank c b).queue = rest ∧ (t.bank c b).busy = false ∧ t.ins.find it.ins = none))
  ∧ ∀ i s c b k it rest cx cp l0 l1 lt vd m, (i = .mpEnd ∨ i = .mpCap) → c = s.here.unit → b = s.here.sub →
    k = s.bank c b → k.queue = it :: rest → it.work = .bexec cx cp l0 l1 lt vd → k.micro = some m →
    s.paused.contains (islandOf c) = false → s.dead it.lk = false → (m.cx < 32 → (builtinWords m.cx).isSome = true) →
    (∀ cap n, m.ending = some cap → s.ins.find it.ins = some n →
      ∃ t n', exec i s = .next t ∧ t.mem = s.mem ∧ (t.bank c b).micro = none ∧ (t.bank c b).queue = rest
        ∧ (t.bank c b).cells = k.cells ∧ t.ins.find it.ins = some n' ∧ n'.result = .load 2 vd
        ∧ ∀ j < 32, n.lanes.getLsbD j = true → leNat (n'.buf.getMany 0 (64 * j) 4)
            = m.rv.getD (j % 4) 0 % 2 ^ 31 + (if cap then 2 ^ 31 else 0))
    ∧ (m.ending = none → s.stopsAt m it.lk rest = true → ∃ t, exec i s = .next t ∧ t = { s with agenda := t.agenda })
    ∧ ∀ k' m' ended, m.ending = none → s.stopsAt m it.lk rest = false → microRun (64 - m.xc % 64) k m = (k', m', ended) →
      ∃ t, exec i s = .next t ∧ t = { s with agenda := t.agenda, cores := t.cores } ∧ SameRegs s t
        ∧ t.bank c b = { k' with
            micro := some (if ended = true ∨ 65536 ≤ m'.xc then { m' with ending := some (decide (65536 ≤ m'.xc)) } else m')
            freeAt := (t.bank c b).freeAt }
        ∧ ∃ e ∈ t.agenda, e.here = { unit := c, sub := b } ∧ e.what = if 65536 ≤ m'.xc then .mpCap else .mpEnd)
  ∧ (∀ s c n x ws id, c = s.here.unit → n = s.here.sub → id = s.here.item → x = (s.core c).codex.get {} n →
    x.writing = some (ws, id) →
    (∃ t, exec .bcodexAccept s = .next t ∧ t = { s with agenda := t.agenda, cores := t.cores } ∧ SameRegs s t
      ∧ (∀ j i, i < 32 → ∀ o ∈ ((t.quire c j).th i).outst, o.id = id → o.fpDone = true ∧ o.past = true)
      ∧ (t.core c).codex = (s.core c).codex ∧ t.isDue (s.ticksOf c ws.length) s.here .codexWriteComplete)
    ∧ ∃ t, exec .codexWriteComplete s = .next t ∧ t = { s with agenda := t.agenda, cores := t.cores } ∧ SameRegs s t
      ∧ (∀ j i, i < 32 → ∀ o ∈ ((t.quire c j).th i).outst, o.id ≠ id)
      ∧ (let y : CxSlot := (t.core c).codex.get {} n
         y.owner = x.owner ∧ y.writing = none ∧ y.cur2 = !x.cur2
         ∧ (if y.cur2 then y.second else y.first) = { words := ws, bad := badCopy ws }
         ∧ (if y.cur2 then y.first else y.second) = (if x.cur2 then x.second else x.first)))

/-- R282, R283: a descriptor whose fields meet every rule becomes valid with a stream slot on each link of its route;
one that does not keeps V clear and shows ERR. A queue that no launch binds is emptied by a write that clears V; one
that is bound shows ERR. R287, R291: a slot at the consumer end goes to queue SRAM, or when that cannot take it to the
tail of the spill ring; a refill brings the head of the ring back. The order in which slots arrive, the tick in which
a ring is read or written, that each spill and refill walks afresh, and that a reserved field is noted until V is
written are the model's choice (notes/assumptions/3, 35, 58 and 63.md). -/
def Obligations.QueueDescriptorsAndSlots : Prop :=
  (∀ s q v x w, q < 4096 → x = s.queue q → w = (v ||| 1#64).toNat →
    (∀ y, x.v = false → y = Queue.take0 (if w / 2 % 2 = 1 then { x with err := false } else x) w →
      (reserved0 w = false → y.resBad = [] → y.fieldsOk = true → (∀ e ∈ s.queues, e.1 ≠ q → y.overlaps e.2 = false) →
        (∀ n ∈ y.route, (s.link n).freeStream.isSome = true) →
        ∃ t, exec (.queueEnable q v) s = .next t ∧ t.still = { s.still with queues := t.queues }
          ∧ t.queue q = { y with v := true, streams := (t.queue q).streams }
          ∧ (t.queue q).streams.map Prod.fst = y.route ∧ ∀ p ≠ q, t.queue p = s.queue p)
      ∧ (reserved0 w = true ∨ y.resBad ≠ [] ∨ y.fieldsOk = false ∨ (∃ e ∈ s.queues, e.1 ≠ q ∧ y.overlaps e.2 = true)
          ∨ (∃ n ∈ y.route, (s.link n).freeStream = none) →
        exec (.queueEnable q v) s = .next (s.setQueue q { y with err := true })))
    ∧ (x.v = true → x.binds = 0 → ∃ t, exec (.queueDisable q v) s = .next t
      ∧ t.still = { s.still with queues := t.queues } ∧ (t.queue q).v = false ∧ (t.queue q).sram = []
      ∧ (t.queue q).flying = [] ∧ (t.queue q).spilled = 0 ∧ (t.queue q).pushed = [] ∧ (t.queue q).streams = []
      ∧ (t.queue q).refilling = false ∧ ∀ p ≠ q, t.queue p = s.queue p)
    ∧ (x.v = true → x.binds ≠ 0 → ∃ t, exec (.queueDisable q v) s = .next t ∧ t = { s with queues := t.queues }
      ∧ t.queue q = { x with err := true }))
  ∧ ((∀ s q x f rest, q = s.here.unit → x = s.queue q → x.flying = f :: rest → f.stage = 2 →
    (x.frozen = false → x.sram.length < x.nslot → x.spilled = 0 → ∃ t, exec .queueSlotArrive s = .next t
      ∧ t.still = { s.still with queues := t.queues }
      ∧ t.queue q = { x with flying := rest, sram := x.sram ++ [(f.bytes, false)] })
    ∧ (∀ pa w, x.frozen = true ∨ x.nslot ≤ x.sram.length ∨ x.spilled ≠ 0 → x.spilled < x.quota →
      s.ringPa q (x.ringHead + x.spilled) false = (.ok pa, w) → w.Inv →
      (w.lineFree pa = true → ∃ t, exec .queueSlotArrive s = .next t ∧ t.Wrote w pa f.bytes
        ∧ t.queue q = { x with flying := rest, spilled := x.spilled + 1, pushed := x.pushed ++ [{ f with bytes := [] }] }
        ∧ t.cores = w.cores)
      ∧ (w.lineFree pa = false → ∃ t, exec .queueSlotArrive s = .next t ∧ t = { w with agenda := t.agenda }
        ∧ ∃ d ∈ t.agenda, d.here = { unit := q } ∧ d.what = .queueSlotArrive)))
  ∧ ∀ s q x pa w, q = s.here.unit → x = s.queue q → x.refilling = true → x.frozen = false → x.spilled ≠ 0 →
    x.sram.length < x.nslot → s.ringPa q x.ringHead true = (.ok pa, w) → w.lineWaits 32 (pa / 128) = [] →
    w.moving pa true = false →
    ∃ t, exec .queueRefillComplete s = .next t ∧ t.mem = w.mem
      ∧ (t.queue q).sram = x.sram ++ [(w.bytes pa 128, w.poison.contains (pa / 128))]
      ∧ (t.queue q).spilled = x.spilled - 1 ∧ (t.queue q).ringHead = (x.ringHead + 1) % max 1 x.quota
      ∧ (t.queue q).flying = x.flying ∧ t.cores = w.cores)

/-- R272, R276: an engine with fewer than four chunks in flight starts its next chunk; an idle engine takes half of
the unstarted chunks of the fullest command of its die. No register and no byte changes. R273, R275: a chunk of a copy
or of a fill in memory stores its bytes at its destination; a chunk of a bank copy becomes one item of the bank's
order. R146, R204, R277, R278: a command whose chunks have all ended, and whose writes have completed as its release
asks, writes its status word to its scalar register, which is no longer pending, and is gone; R148: so does one that
failed in a launch that ends. When a chunk is performed, which engine is idle, how it ranks the others, and the 120
ticks beside the cycles of a chunk are the model's choice (notes/assumptions/3, 33 and 34.md). -/
def Obligations.EngineChunksAndCommands : Prop :=
  ((∀ s c o x k, c = s.here.unit → s.paused.contains (islandOf c) = false → s.inFlight c < 4 →
    s.nextChunk c = some (o, x, k) →
    ∃ t, exec .chunkStart s = .next t ∧ t = { s with agenda := t.agenda, cores := t.cores } ∧ SameRegs s t
      ∧ (∃ y ∈ (t.core o).cmds, y.id = x.id ∧ y.flying = x.flying ++ [(c, k)] ∧ k ∉ y.stolen.map Prod.snd
          ∧ (o = c → k ∉ y.todo))
      ∧ t.isDue ((x.chunkBytes k + 63) / 64 * 1000 / max 1 (s.islandMhz (islandOf c)) + 120)
          { unit := o, sub := x.id, item := k } .chunkComplete)
  ∧ ∀ s c o x, c = s.here.unit → s.engineIdle c = true →
    ((List.range 40).flatMap (fun i => if 40 * dieOf c + i = c then [] else
      ((s.core (40 * dieOf c + i)).cmds.filter (fun y => y.ready && decide (2 ≤ y.todo.length)
        && !(s.launch y.lk).halted)).map (fun y => (40 * dieOf c + i, y)))).foldl richer none = some (o, x) →
    ∃ t, exec .engineSteal s = .next t ∧ t = { s with agenda := t.agenda, cores := t.cores } ∧ SameRegs s t
      ∧ ∃ y ∈ (t.core o).cmds, y.id = x.id ∧ y.todo = x.todo.take (x.todo.length - x.todo.length / 2)
        ∧ y.stolen = x.stolen ++ (x.todo.drop (x.todo.length - x.todo.length / 2)).map (fun n => (c, n)))
  ∧ (∀ s o k x c f, o = s.here.unit → k = s.here.item → (s.core o).cmd? s.here.sub = some x →
    x.flying.find? (fun f => f.2 == k) = some (c, f) → s.chunkGate c x k = .go → k ≠ shapeChunk → k ≠ layoutChunk →
    let y : Cmd := { x with walkBad := x.walkBad.filter (fun b => b.1 == k) }
    (∀ a d n pa u, x.kind = .cpfill → x.db = false → x.segs k = [(a, d, n)] →
      s.enginePa c y d n true = (.ok pa, u) → isRegArea pa = false → u.Inv →
      ∃ t, exec .chunkComplete s = .next t ∧ t.Wrote u pa (x.pattern (x.chunkSpan k).1 n) ∧ SameRegs s t)
    ∧ (∀ a d n bs pa u w, x.kind = .cp → x.db = false → x.segs k = [(a, d, n)] →
      s.engineSpan c y a n = (.ok bs, u) → u.enginePa c y d bs.length true = (.ok pa, w) → isRegArea pa = false →
      w.Inv → ∃ t, exec .chunkComplete s = .next t ∧ t.Wrote w pa bs ∧ SameRegs s t)
    ∧ (∀ b, x.kind = .cpbank → x.got.find k = none → s.cmdBank o x x.sa.toNat = some b → ∃ t, exec .chunkComplete s = .next t
      ∧ t = { s with agenda := t.agenda, cores := t.cores } ∧ SameRegs s t
      ∧ ∃ it ∈ (t.bank o b).queue, it.work = .chunkR o x.id k ∧ it.since = s.cycle)
    ∧ (∀ b bs u, x.kind = .cp → x.db = true → s.gather c y k = (.ok bs, u) → u.cmdBank o x x.sd.toNat = some b →
      ∃ t, exec .chunkComplete s = .next t ∧ SameRegs s t
        ∧ ∃ it ∈ (t.bank o b).queue, it.work = .chunkW o x.id k bs []))
  ∧ (∀ s c x e, c = s.here.unit → (s.core c).cmd? s.here.sub = some x → x.flying = [] →
    (s.launch x.lk).ending.isSome = true → x.failed = some e →
    ∃ t, exec .commandComplete s = .next t ∧ (t.core c).cmd? x.id = none
      ∧ (s.cmdQuire c x = true → x.vs ≠ 0 → (t.quire c x.slot).s x.vs = BitVec.ofNat 64 x.status))
  ∧ (∀ s c x, c = s.here.unit → (s.core c).cmd? s.here.sub = some x → x.flying = [] → (s.launch x.lk).ending = none → x.got = [] →
    x.releasing = false → x.todo = [] → x.stolen = [] → x.ready = true → x.kind ≠ .cpretile →
    x.rel = false ∨ x.scope < 3 ∨ x.gwct ≤ s.nowAt (dieOf c) → x.failed = none →
    ∃ t, exec .commandComplete s = .next t ∧ t = { s with agenda := t.agenda, cores := t.cores }
      ∧ (t.core c).cmd? x.id = none
      ∧ (∀ n j, n ≠ c ∨ j ≠ x.slot → t.quire n j = s.quire n j)
      ∧ (t.quire c x.slot).threads = (s.quire c x.slot).threads
      ∧ (s.cmdQuire c x = true → x.vs ≠ 0 → x.vs ∉ (t.quire c x.slot).pend ∧ ∀ r, (t.quire c x.slot).s r
          = if r = x.vs then BitVec.ofNat 64 (x.units + 2 ^ 31) else (s.quire c x.slot).s r)
      ∧ (s.cmdQuire c x = false → t.quire c x.slot = s.quire c x.slot))

/-- R254, R255, R258 to R263: an entry that qualifies is built for 1,024 cycles, and longer while a word of it is on
its way; the build leaves an armed folio of the body that was read, or an unbindable entry with the lowest reason that
applies. No register changes. R264, R265, R267: an armed folio with a thread at its header becomes resident; its
threads take iterations in turn; after 4,096 cycles it drains. R267, R268, R269: a thread whose iteration faulted
leaves the folio as its last retired iteration left it; one that is past the loop leaves as it stands. The cycles of a
build, the II and D of a body, one iteration of a thread at a time, and the moments of starts, exits and slices are
the model's choice (notes/assumptions/3, 12 and 28.md). -/
def Obligations.Folios : Prop :=
  ((∀ s c n, c = s.here.unit → s.buildable c = some n → ∃ t, exec .buildStart s = .next t
    ∧ t = { s with agenda := t.agenda, cores := t.cores } ∧ (t.core c).building = some n
    ∧ (t.core c).heatAt n = { (s.core c).heatAt n with state := .building, badPages := [] } ∧ SameRegs s t
    ∧ t.isDue (s.cyclesOf c 1024) { unit := c } .buildComplete)
  ∧ ∀ s c n, c = s.here.unit → (s.core c).building = some n →
    (∀ f u, s.tryBody c n ((s.core c).heatAt n) = (.ok f, u) → ∃ t p, exec .buildComplete s = .next t
      ∧ (t.core c).building = none ∧ ((t.core c).heatAt n).state = .bound ∧ ((t.core c).heatAt n).folio = p
      ∧ ((t.core c).folios.get {} p) = f ∧ ((t.core c).heatAt n).ii = f.ii ∧ SameRegs s t)
    ∧ (∀ u, s.tryBody c n ((s.core c).heatAt n) = (.error none, u) → ∃ t, exec .buildComplete s = .next t
      ∧ t = { u with agenda := t.agenda } ∧ ∃ e ∈ t.agenda, e.here = { unit := c } ∧ e.what = .buildComplete)
    ∧ (∀ r u, s.tryBody c n ((s.core c).heatAt n) = (.error (some r), u) → ∃ t, exec .buildComplete s = .next t
      ∧ (t.core c).building = none ∧ ((t.core c).heatAt n).state = .unbindable ∧ ((t.core c).heatAt n).reason = r
      ∧ SameRegs s t))
  ∧ ((∀ s c n ts, c = s.here.unit → s.nextFolio c = some (n, ts) → ∃ t, exec .folioResidency s = .next t
    ∧ t = { s with agenda := t.agenda, cores := t.cores }
    ∧ (t.core c).resident = some { folio := n, threads := ts, asOf := s.now } ∧ SameRegs s t
    ∧ (∀ e ∈ ts, ((t.quire c e.1).th e.2).repc = ((s.core c).folios.get {} n : Folio).header)
    ∧ t.isDue (s.cyclesOf c 4096) { unit := c } .sliceEnd)
  ∧ (∀ s c r, c = s.here.unit → (s.core c).resident = some r → s.paused.contains (islandOf c) = false →
    (4096 ≤ s.sliceCycles c r → ∃ t, exec .sliceEnd s = .next t ∧ t = { s with cores := t.cores }
      ∧ (t.core c).resident = some { r with draining := true, yields := true } ∧ SameRegs s t)
    ∧ (s.sliceCycles c r < 4096 → ∃ t, exec .sliceEnd s = .next t ∧ t = { s with agenda := t.agenda }))
  ∧ (∀ s c r f j i, c = s.here.unit → (s.core c).resident = some r → f = (s.core c).folios.get {} r.folio →
    (s.core c).runGoes r = false → r.draining = false → (∀ e ∈ r.iters, ((s.quire c e.1).th e.2.1).faulted = false) →
    s.nextStarter c r = some (j, i) →
    ∃ t, exec .folioIterationStart s = .next t
      ∧ t = { s with cores := t.cores, agenda := t.agenda, now := t.now, frac := t.frac } ∧ t.cycle = s.after c 1
      ∧ (t.core c).resident = some { r with cur := some (j, i, (s.quire c j).th i), last := 32 * j + i
                                            flight := ((s.core c).park.resident.map Resident.flight).getD []
                                            starts := r.starts.set (32 * j + i) (s.after c f.ii, s.after c f.depth) }
      ∧ (t.core c).run = some (laneRun j i (s.quire c j)) ∧ SameRegs s t)
  ∧ ∀ s c r e, c = s.here.unit → (s.core c).resident = some r →
    ((s.core c).offRun r).find? (fun e => s.endOf (s.core c) r e == .step .folioIterationRetire) = some e →
    ∃ t, exec .folioIterationRetire s = .next t ∧ t = { s with cores := t.cores }
      ∧ t.core c = { s.core c with resident := some (r.drop e.1 e.2.1) })
  ∧ ((∀ s c r j i snap u, c = s.here.unit → (s.core c).resident = some r →
    r.iters.find? (fun e => ((s.quire c e.1).th e.2.1).faulted) = some (j, i, snap) → u = (s.quire c j).th i →
    ∃ t, exec .folioExit s = .next t ∧ t = { s with cores := t.cores }
      ∧ ((t.quire c j).th i).v = snap.v ∧ ((t.quire c j).th i).p = snap.p ∧ ((t.quire c j).th i).pc = snap.pc
      ∧ ((t.quire c j).th i).repc = snap.repc ∧ ((t.quire c j).th i).fpsr = snap.fpsr ∧ ((t.quire c j).th i).pends = u.pends
      ∧ (∀ n ≠ i, (t.quire c j).th n = (s.quire c j).th n)
      ∧ ∀ x, (t.core c).resident = some x → (j, i) ∉ x.threads ∧ x.iterates (j, i) = false)
  ∧ (∀ s c r e, c = s.here.unit → (s.core c).resident = some r →
    r.iters.find? (fun e => ((s.quire c e.1).th e.2.1).faulted) = none →
    ((s.core c).offRun r).find? (fun e => s.endOf (s.core c) r e == .step .folioExit) = some e →
    ∃ t, exec .folioExit s = .next t ∧ t = { s with cores := t.cores } ∧ SameRegs s t
      ∧ ∀ x, (t.core c).resident = some x → (e.1, e.2.1) ∉ x.threads ∧ x.iterates (e.1, e.2.1) = false)
  ∧ ∀ s c r e, c = s.here.unit → (s.core c).resident = some r →
    r.iters.find? (fun e => ((s.quire c e.1).th e.2.1).faulted) = none →
    ((s.core c).offRun r).find? (fun e => s.endOf (s.core c) r e == .step .folioExit) = none →
    r.threads.find? (fun t => !r.iterates t && s.mustLeave c r t) = some e →
    ∃ t, exec .folioExit s = .next t ∧ t = { s with cores := t.cores } ∧ SameRegs s t
      ∧ ∀ x, (t.core c).resident = some x → e ∉ x.threads)
end

