-- ==== Sys2Proof/Laws/Memory.lean ====
section
/-! SUPPORT. Memory: a read after a write, a write elsewhere, and the canonical form, which every write keeps. -/

namespace Sys2Proof.Machine

/-- Every entry of a list lies above an address and is not zero, and addresses rise. -/
def memFrom (a : Nat) : List Host.Cell → Prop
  | [] => True
  | (k, v) :: t => a ≤ k ∧ v ≠ 0 ∧ memFrom (k + 1) t

theorem memFrom_mono {a b : Nat} (h : b ≤ a) {m : List Host.Cell} (hm : memFrom a m) : memFrom b m := by
  cases m with
  | nil => trivial
  | cons e t => exact ⟨Nat.le_trans h hm.1, hm.2⟩

theorem wf_iff_memFrom (m : List Host.Cell) : Memory.wf m = true ↔ memFrom 0 m := by
  suffices h : ∀ a, (Memory.wf m = true ∧ (∀ e ∈ m.head?, a ≤ e.1)) ↔ memFrom a m by
    simpa using h 0
  induction m with
  | nil => intro a; simp [Memory.wf, memFrom]
  | cons e t ih =>
    intro a
    obtain ⟨k, v⟩ := e
    cases t with
    | nil => simp [Memory.wf, memFrom, and_comm]
    | cons e' t' =>
      obtain ⟨k', v'⟩ := e'
      have := ih (k + 1)
      simp only [memFrom, Memory.wf, Bool.and_eq_true, bne_iff_ne, decide_eq_true_eq, List.head?_cons,
        Option.mem_def, Option.some.injEq, forall_eq'] at this ⊢
      constructor
      · rintro ⟨⟨⟨hv, hk⟩, hw⟩, ha⟩
        exact ⟨ha, hv, this.mp ⟨hw, hk⟩⟩
      · rintro ⟨ha, hv, hr⟩
        obtain ⟨hw, hk⟩ := this.mpr hr
        exact ⟨⟨⟨hv, hk⟩, hw⟩, ha⟩

theorem memGet_below {a b : Nat} {m : List Host.Cell} (hm : memFrom a m) (h : b < a) : memGet m b = 0 := by
  cases m with
  | nil => rfl
  | cons e t =>
    have h1 := hm.1
    have h2 : ¬ b = e.1 := by omega
    have h3 : b < e.1 := by omega
    simp [memGet, h2, h3]

theorem memAbove_id {a : Nat} {m : List Host.Cell} (hm : memFrom (a + 1) m) : memAbove a m = m := by
  cases m with
  | nil => rfl
  | cons e t =>
    have h1 := hm.1
    have : ¬ e.1 ≤ a := by omega
    simp [memAbove, this]

theorem memPut_from {lo a : Nat} {m : List Host.Cell} (b : Byte) (hm : memFrom lo m) (hl : lo ≤ a) :
    memFrom lo (memPut m a b) := by
  induction m generalizing lo with
  | nil =>
    unfold memPut
    split
    · trivial
    · rename_i hb; exact ⟨hl, hb, trivial⟩
  | cons e t ih =>
    obtain ⟨k, v⟩ := e
    obtain ⟨h1, h2, h3⟩ := hm
    unfold memPut
    split
    · split
      · exact ⟨h1, h2, h3⟩
      · rename_i hb; exact ⟨hl, hb, by omega, h2, h3⟩
    · split
      · rename_i h4
        subst h4
        split
        · rw [memAbove_id h3]; exact memFrom_mono (by omega) h3
        · rename_i hb; exact ⟨h1, hb, h3⟩
      · exact ⟨h1, h2, ih h3 (by omega)⟩

/-- A byte write keeps the canonical form. -/
theorem memPut_wf {m : List Host.Cell} (a : Nat) (b : Byte) (hm : Memory.wf m = true) : Memory.wf (memPut m a b) = true :=
  (wf_iff_memFrom _).mpr (memPut_from b ((wf_iff_memFrom _).mp hm) (Nat.zero_le a))

/-- A write of any number of bytes keeps the canonical form. -/
theorem memPuts_wf {m : List Host.Cell} (a : Nat) (bs : List Byte) (hm : Memory.wf m = true) :
    Memory.wf (memPuts m a bs) = true := by
  induction bs generalizing m a with
  | nil => exact hm
  | cons b t ih => exact ih (a + 1) (memPut_wf a b hm)

/-- Cells left out of a canonical memory leave a canonical memory. -/
theorem filter_wf {m : List Host.Cell} (f : Host.Cell → Bool) (hm : Memory.wf m = true) : Memory.wf (m.filter f) = true := by
  rw [wf_iff_memFrom] at *
  generalize 0 = a at *
  induction m generalizing a with
  | nil => trivial
  | cons e t ih =>
    obtain ⟨h1, h2, h3⟩ := hm
    simp only [List.filter_cons]
    split
    · exact ⟨h1, h2, ih _ h3⟩
    · exact ih a (memFrom_mono (by omega) h3)

theorem memGet_memPut_from {lo : Nat} {m : List Host.Cell} (a x : Nat) (b : Byte) (hm : memFrom lo m) :
    memGet (memPut m a b) x = if x = a then b else memGet m x := by
  induction m generalizing lo with
  | nil =>
    unfold memPut
    split
    · rename_i hb; simp [memGet, hb]
    · simp [memGet]
  | cons e t ih =>
    obtain ⟨k, v⟩ := e
    obtain ⟨h1, h2, h3⟩ := hm
    unfold memPut
    split
    · rename_i h4
      by_cases hx : x = a
      · subst hx
        have h5 : ¬ x = k := by omega
        split
        · rename_i hb; simp [memGet, h5, h4, hb]
        · simp [memGet]
      · rw [if_neg hx]
        split
        · rfl
        · simp only [memGet, hx, if_false]
          split
          · have h5 : ¬ x = k := by omega
            have h6 : x < k := by omega
            simp [h5, h6]
          · rfl
    · split
      · rename_i h4
        subst h4
        by_cases hx : x = a
        · subst hx
          split
          · rename_i hb
            rw [memAbove_id h3, memGet_below h3 (by omega)]; simp [hb]
          · simp [memGet]
        · split
          · rw [memAbove_id h3]
            simp only [memGet, hx, if_false]
            split
            · exact memGet_below h3 (by omega)
            · rfl
          · simp [memGet, hx]
      · rename_i h4 h5
        simp only [memGet, ih h3]
        by_cases hx : x = a
        · subst hx; simp [h5, h4]
        · simp [hx]

/-- A byte that was written reads as written, and every other byte as before. -/
theorem memGet_memPut {m : List Host.Cell} (a x : Nat) (b : Byte) (hm : Memory.wf m = true) :
    memGet (memPut m a b) x = if x = a then b else memGet m x :=
  memGet_memPut_from a x b ((wf_iff_memFrom _).mp hm)

/-- Bytes that were written read as written, and every other byte as before. -/
theorem memGet_memPuts {m : List Host.Cell} (a x : Nat) (bs : List Byte) (hm : Memory.wf m = true) :
    memGet (memPuts m a bs) x = if a ≤ x ∧ x < a + bs.length then bs.getD (x - a) 0 else memGet m x := by
  induction bs generalizing m a with
  | nil =>
    have : ¬ (a ≤ x ∧ x < a + ([] : List Byte).length) := by simp
    rw [memPuts, if_neg this]
  | cons b t ih =>
    rw [memPuts, ih (a + 1) (memPut_wf a b hm), memGet_memPut a x b hm]
    simp only [List.length_cons]
    by_cases hx : x = a
    · subst hx
      have h1 : ¬ (x + 1 ≤ x ∧ x < x + 1 + t.length) := by omega
      have h2 : x ≤ x ∧ x < x + (t.length + 1) := by omega
      simp [h1]
    · by_cases hc : a + 1 ≤ x ∧ x < a + 1 + t.length
      · have h2 : a ≤ x ∧ x < a + (t.length + 1) := by omega
        have h3 : x - a = (x - (a + 1)) + 1 := by omega
        rw [if_pos hc, if_pos h2, h3, List.getD_cons_succ]
      · have h2 : ¬ (a ≤ x ∧ x < a + (t.length + 1)) := by omega
        rw [if_neg hc, if_neg h2, if_neg hx]

/-- Stores keep the invariant. -/
theorem State.setBytes_inv {s : State} (a : Nat) (bs : List Byte) (h : s.Inv) : (s.setBytes a bs).Inv :=
  memPuts_wf a bs h

/-- A stored byte reads as stored, every other as before. -/
theorem State.byte_setBytes {s : State} (a x : Nat) (bs : List Byte) (h : s.Inv) :
    (s.setBytes a bs).byte x = if a ≤ x ∧ x < a + bs.length then bs.getD (x - a) 0 else s.byte x :=
  memGet_memPuts a x bs h

end Sys2Proof.Machine
end

