-- ==== Sys2Proof/Laws/Tab.lean ====
section
/-! SUPPORT. Tables: a read after a write, and a write elsewhere. -/

namespace Sys2Proof.Machine

variable {α : Type}

theorem Tab.get_set_same (d : α) (m : Tab α) (j : Nat) (x : α) : (m.set j x).get d j = x := by
  induction m with
  | nil => simp [Tab.set, Tab.get]
  | cons e t ih =>
    obtain ⟨k, v⟩ := e
    unfold Tab.set
    split
    · simp [Tab.get]
    · split
      · simp [Tab.get]
      · rename_i h1 h2
        simp [Tab.get, h1, h2, ih]

theorem Tab.get_set_ne (d : α) (m : Tab α) {i j : Nat} (x : α) (h : i ≠ j) :
    (m.set j x).get d i = m.get d i := by
  induction m with
  | nil => simp [Tab.set, Tab.get, h]
  | cons e t ih =>
    obtain ⟨k, v⟩ := e
    unfold Tab.set
    split
    · rename_i hk; subst hk; simp [Tab.get, h]
    · split
      · simp only [Tab.get, h, if_false]
        split
        · have : ¬ i = k := by omega
          have : i < k := by omega
          simp [*]
        · rfl
      · simp only [Tab.get, ih]

theorem Tab.get_set (d : α) (m : Tab α) (i j : Nat) (x : α) :
    (m.set j x).get d i = if i = j then x else m.get d i := by
  split
  · rename_i h; subst h; exact get_set_same d m i x
  · rename_i h; exact get_set_ne d m x h

theorem Tab.find_set_same (m : Tab α) (j : Nat) (x : α) : (m.set j x).find j = some x := by
  induction m with
  | nil => simp [Tab.set, Tab.find]
  | cons e t ih =>
    obtain ⟨k, v⟩ := e
    unfold Tab.set
    split
    · simp [Tab.find]
    · split
      · simp [Tab.find]
      · rename_i h1 h2
        simp [Tab.find, h1, h2, ih]

theorem Tab.find_set_ne (m : Tab α) {i j : Nat} (x : α) (h : i ≠ j) : (m.set j x).find i = m.find i := by
  induction m with
  | nil => simp [Tab.set, Tab.find, h]
  | cons e t ih =>
    obtain ⟨k, v⟩ := e
    unfold Tab.set
    split
    · rename_i hk; subst hk; simp [Tab.find, h]
    · split
      · simp only [Tab.find, h, if_false]
        split
        · have : ¬ i = k := by omega
          have : i < k := by omega
          simp [*]
        · rfl
      · simp only [Tab.find, ih]

end Sys2Proof.Machine
end

