-- ==== Sys2Proof/Laws/State.lean ====
section
/-! SUPPORT. What each update of the state, of a core, of a quire and of a thread leaves in each field: one lemma per
field per update, and one per accessor. -/

namespace Sys2Proof.Machine


-- ## setCore

section
variable (s : State) (c : Nat) (k : Core)

@[simp] theorem State.power_setCore : (s.setCore c k).power = s.power := rfl
@[simp] theorem State.now_setCore : (s.setCore c k).now = s.now := rfl
@[simp] theorem State.frac_setCore : (s.setCore c k).frac = s.frac := rfl
@[simp] theorem State.agenda_setCore : (s.setCore c k).agenda = s.agenda := rfl
@[simp] theorem State.here_setCore : (s.setCore c k).here = s.here := rfl
@[simp] theorem State.focus_setCore : (s.setCore c k).focus = s.focus := rfl
@[simp] theorem State.events_setCore : (s.setCore c k).events = s.events := rfl
@[simp] theorem State.fresh_setCore : (s.setCore c k).fresh = s.fresh := rfl
@[simp] theorem State.undefs_setCore : (s.setCore c k).undefs = s.undefs := rfl
@[simp] theorem State.mem_setCore : (s.setCore c k).mem = s.mem := rfl
@[simp] theorem State.poison_setCore : (s.setCore c k).poison = s.poison := rfl
@[simp] theorem State.latent_setCore : (s.setCore c k).latent = s.latent := rfl
@[simp] theorem State.cores_setCore : (s.setCore c k).cores = s.cores.set c k := rfl
@[simp] theorem State.dies_setCore : (s.setCore c k).dies = s.dies := rfl
@[simp] theorem State.launches_setCore : (s.setCore c k).launches = s.launches := rfl
@[simp] theorem State.ctxs_setCore : (s.setCore c k).ctxs = s.ctxs := rfl
@[simp] theorem State.reqs_setCore : (s.setCore c k).reqs = s.reqs := rfl
@[simp] theorem State.ins_setCore : (s.setCore c k).ins = s.ins := rfl
@[simp] theorem State.waits_setCore : (s.setCore c k).waits = s.waits := rfl
@[simp] theorem State.lease_setCore : (s.setCore c k).lease = s.lease := rfl
@[simp] theorem State.slices_setCore : (s.setCore c k).slices = s.slices := rfl
@[simp] theorem State.marks_setCore : (s.setCore c k).marks = s.marks := rfl
@[simp] theorem State.hlx_setCore : (s.setCore c k).hlx = s.hlx := rfl
@[simp] theorem State.hostCached_setCore : (s.setCore c k).hostCached = s.hostCached := rfl
@[simp] theorem State.queues_setCore : (s.setCore c k).queues = s.queues := rfl
@[simp] theorem State.links_setCore : (s.setCore c k).links = s.links := rfl
@[simp] theorem State.rac_setCore : (s.setCore c k).rac = s.rac := rfl
@[simp] theorem State.moves_setCore : (s.setCore c k).moves = s.moves := rfl
@[simp] theorem State.tlbinv_setCore : (s.setCore c k).tlbinv = s.tlbinv := rfl
@[simp] theorem State.walks_setCore : (s.setCore c k).walks = s.walks := rfl
@[simp] theorem State.trust_setCore : (s.setCore c k).trust = s.trust := rfl
@[simp] theorem State.ready_setCore : (s.setCore c k).ready = s.ready := rfl
@[simp] theorem State.bridgeDown_setCore : (s.setCore c k).bridgeDown = s.bridgeDown := rfl
@[simp] theorem State.hostLinkDown_setCore : (s.setCore c k).hostLinkDown = s.hostLinkDown := rfl
@[simp] theorem State.outbox_setCore : (s.setCore c k).outbox = s.outbox := rfl
@[simp] theorem State.mhz_setCore : (s.setCore c k).mhz = s.mhz := rfl
@[simp] theorem State.paused_setCore : (s.setCore c k).paused = s.paused := rfl
@[simp] theorem State.powerLimit_setCore : (s.setCore c k).powerLimit = s.powerLimit := rfl
@[simp] theorem State.sweepPeriod_setCore : (s.setCore c k).sweepPeriod = s.sweepPeriod := rfl
@[simp] theorem State.msixTable_setCore : (s.setCore c k).msixTable = s.msixTable := rfl
@[simp] theorem State.pba_setCore : (s.setCore c k).pba = s.pba := rfl
@[simp] theorem State.geomMdie_setCore : (s.setCore c k).geomMdie = s.geomMdie := rfl
@[simp] theorem State.geomAnnex_setCore : (s.setCore c k).geomAnnex = s.geomAnnex := rfl
@[simp] theorem State.geomGen_setCore : (s.setCore c k).geomGen = s.geomGen := rfl
@[simp] theorem State.channels_setCore : (s.setCore c k).channels = s.channels := rfl
@[simp] theorem State.domDev_setCore : (s.setCore c k).domDev = s.domDev := rfl
@[simp] theorem State.domValid_setCore : (s.setCore c k).domValid = s.domValid := rfl
@[simp] theorem State.domUp_setCore : (s.setCore c k).domUp = s.domUp := rfl
@[simp] theorem State.ports_setCore : (s.setCore c k).ports = s.ports := rfl
@[simp] theorem State.leaseCap_setCore : (s.setCore c k).leaseCap = s.leaseCap := rfl
@[simp] theorem State.leaseOld_setCore : (s.setCore c k).leaseOld = s.leaseOld := rfl
@[simp] theorem State.leaseUntil_setCore : (s.setCore c k).leaseUntil = s.leaseUntil := rfl
@[simp] theorem State.margin_setCore : (s.setCore c k).margin = s.margin := rfl
@[simp] theorem State.prqBase_setCore : (s.setCore c k).prqBase = s.prqBase := rfl
@[simp] theorem State.prqLog2_setCore : (s.setCore c k).prqLog2 = s.prqLog2 := rfl
@[simp] theorem State.prqHead_setCore : (s.setCore c k).prqHead = s.prqHead := rfl
@[simp] theorem State.prqTail_setCore : (s.setCore c k).prqTail = s.prqTail := rfl
@[simp] theorem State.acceptCount_setCore : (s.setCore c k).acceptCount = s.acceptCount := rfl
@[simp] theorem State.restoring_setCore : (s.setCore c k).restoring = s.restoring := rfl
@[simp] theorem State.fatal_setCore : (s.setCore c k).fatal = s.fatal := rfl
@[simp] theorem State.records_setCore : (s.setCore c k).records = s.records := rfl
@[simp] theorem State.die_setCore (u : Nat) : (s.setCore c k).die u = s.die u := rfl
@[simp] theorem State.launch_setCore (u : Nat) : (s.setCore c k).launch u = s.launch u := rfl
@[simp] theorem State.ctx_setCore (u : Nat) : (s.setCore c k).ctx u = s.ctx u := rfl
@[simp] theorem State.queue_setCore (u : Nat) : (s.setCore c k).queue u = s.queue u := rfl
@[simp] theorem State.link_setCore (u : Nat) : (s.setCore c k).link u = s.link u := rfl
@[simp] theorem State.req_setCore (u : Nat) : (s.setCore c k).req u = s.req u := rfl
@[simp] theorem State.byte_setCore (u : Nat) : (s.setCore c k).byte u = s.byte u := rfl

end

-- ## setDie

section
variable (s : State) (d : Nat) (k : Die)

@[simp] theorem State.power_setDie : (s.setDie d k).power = s.power := rfl
@[simp] theorem State.now_setDie : (s.setDie d k).now = s.now := rfl
@[simp] theorem State.frac_setDie : (s.setDie d k).frac = s.frac := rfl
@[simp] theorem State.agenda_setDie : (s.setDie d k).agenda = s.agenda := rfl
@[simp] theorem State.here_setDie : (s.setDie d k).here = s.here := rfl
@[simp] theorem State.focus_setDie : (s.setDie d k).focus = s.focus := rfl
@[simp] theorem State.events_setDie : (s.setDie d k).events = s.events := rfl
@[simp] theorem State.fresh_setDie : (s.setDie d k).fresh = s.fresh := rfl
@[simp] theorem State.undefs_setDie : (s.setDie d k).undefs = s.undefs := rfl
@[simp] theorem State.mem_setDie : (s.setDie d k).mem = s.mem := rfl
@[simp] theorem State.poison_setDie : (s.setDie d k).poison = s.poison := rfl
@[simp] theorem State.latent_setDie : (s.setDie d k).latent = s.latent := rfl
@[simp] theorem State.cores_setDie : (s.setDie d k).cores = s.cores := rfl
@[simp] theorem State.dies_setDie : (s.setDie d k).dies = s.dies.set d k := rfl
@[simp] theorem State.launches_setDie : (s.setDie d k).launches = s.launches := rfl
@[simp] theorem State.ctxs_setDie : (s.setDie d k).ctxs = s.ctxs := rfl
@[simp] theorem State.reqs_setDie : (s.setDie d k).reqs = s.reqs := rfl
@[simp] theorem State.ins_setDie : (s.setDie d k).ins = s.ins := rfl
@[simp] theorem State.waits_setDie : (s.setDie d k).waits = s.waits := rfl
@[simp] theorem State.lease_setDie : (s.setDie d k).lease = s.lease := rfl
@[simp] theorem State.slices_setDie : (s.setDie d k).slices = s.slices := rfl
@[simp] theorem State.marks_setDie : (s.setDie d k).marks = s.marks := rfl
@[simp] theorem State.hlx_setDie : (s.setDie d k).hlx = s.hlx := rfl
@[simp] theorem State.hostCached_setDie : (s.setDie d k).hostCached = s.hostCached := rfl
@[simp] theorem State.queues_setDie : (s.setDie d k).queues = s.queues := rfl
@[simp] theorem State.links_setDie : (s.setDie d k).links = s.links := rfl
@[simp] theorem State.rac_setDie : (s.setDie d k).rac = s.rac := rfl
@[simp] theorem State.moves_setDie : (s.setDie d k).moves = s.moves := rfl
@[simp] theorem State.tlbinv_setDie : (s.setDie d k).tlbinv = s.tlbinv := rfl
@[simp] theorem State.walks_setDie : (s.setDie d k).walks = s.walks := rfl
@[simp] theorem State.trust_setDie : (s.setDie d k).trust = s.trust := rfl
@[simp] theorem State.ready_setDie : (s.setDie d k).ready = s.ready := rfl
@[simp] theorem State.bridgeDown_setDie : (s.setDie d k).bridgeDown = s.bridgeDown := rfl
@[simp] theorem State.hostLinkDown_setDie : (s.setDie d k).hostLinkDown = s.hostLinkDown := rfl
@[simp] theorem State.outbox_setDie : (s.setDie d k).outbox = s.outbox := rfl
@[simp] theorem State.mhz_setDie : (s.setDie d k).mhz = s.mhz := rfl
@[simp] theorem State.paused_setDie : (s.setDie d k).paused = s.paused := rfl
@[simp] theorem State.powerLimit_setDie : (s.setDie d k).powerLimit = s.powerLimit := rfl
@[simp] theorem State.sweepPeriod_setDie : (s.setDie d k).sweepPeriod = s.sweepPeriod := rfl
@[simp] theorem State.msixTable_setDie : (s.setDie d k).msixTable = s.msixTable := rfl
@[simp] theorem State.pba_setDie : (s.setDie d k).pba = s.pba := rfl
@[simp] theorem State.geomMdie_setDie : (s.setDie d k).geomMdie = s.geomMdie := rfl
@[simp] theorem State.geomAnnex_setDie : (s.setDie d k).geomAnnex = s.geomAnnex := rfl
@[simp] theorem State.geomGen_setDie : (s.setDie d k).geomGen = s.geomGen := rfl
@[simp] theorem State.channels_setDie : (s.setDie d k).channels = s.channels := rfl
@[simp] theorem State.domDev_setDie : (s.setDie d k).domDev = s.domDev := rfl
@[simp] theorem State.domValid_setDie : (s.setDie d k).domValid = s.domValid := rfl
@[simp] theorem State.domUp_setDie : (s.setDie d k).domUp = s.domUp := rfl
@[simp] theorem State.ports_setDie : (s.setDie d k).ports = s.ports := rfl
@[simp] theorem State.leaseCap_setDie : (s.setDie d k).leaseCap = s.leaseCap := rfl
@[simp] theorem State.leaseOld_setDie : (s.setDie d k).leaseOld = s.leaseOld := rfl
@[simp] theorem State.leaseUntil_setDie : (s.setDie d k).leaseUntil = s.leaseUntil := rfl
@[simp] theorem State.margin_setDie : (s.setDie d k).margin = s.margin := rfl
@[simp] theorem State.prqBase_setDie : (s.setDie d k).prqBase = s.prqBase := rfl
@[simp] theorem State.prqLog2_setDie : (s.setDie d k).prqLog2 = s.prqLog2 := rfl
@[simp] theorem State.prqHead_setDie : (s.setDie d k).prqHead = s.prqHead := rfl
@[simp] theorem State.prqTail_setDie : (s.setDie d k).prqTail = s.prqTail := rfl
@[simp] theorem State.acceptCount_setDie : (s.setDie d k).acceptCount = s.acceptCount := rfl
@[simp] theorem State.restoring_setDie : (s.setDie d k).restoring = s.restoring := rfl
@[simp] theorem State.fatal_setDie : (s.setDie d k).fatal = s.fatal := rfl
@[simp] theorem State.records_setDie : (s.setDie d k).records = s.records := rfl
@[simp] theorem State.core_setDie (u : Nat) : (s.setDie d k).core u = s.core u := rfl
@[simp] theorem State.launch_setDie (u : Nat) : (s.setDie d k).launch u = s.launch u := rfl
@[simp] theorem State.ctx_setDie (u : Nat) : (s.setDie d k).ctx u = s.ctx u := rfl
@[simp] theorem State.queue_setDie (u : Nat) : (s.setDie d k).queue u = s.queue u := rfl
@[simp] theorem State.link_setDie (u : Nat) : (s.setDie d k).link u = s.link u := rfl
@[simp] theorem State.req_setDie (u : Nat) : (s.setDie d k).req u = s.req u := rfl
@[simp] theorem State.byte_setDie (u : Nat) : (s.setDie d k).byte u = s.byte u := rfl
@[simp] theorem State.quire_setDie (u v : Nat) : (s.setDie d k).quire u v = s.quire u v := rfl
@[simp] theorem State.bank_setDie (u v : Nat) : (s.setDie d k).bank u v = s.bank u v := rfl

end

-- ## setLaunch

section
variable (s : State) (lk : Nat) (l : Launch)

@[simp] theorem State.power_setLaunch : (s.setLaunch lk l).power = s.power := rfl
@[simp] theorem State.now_setLaunch : (s.setLaunch lk l).now = s.now := rfl
@[simp] theorem State.frac_setLaunch : (s.setLaunch lk l).frac = s.frac := rfl
@[simp] theorem State.agenda_setLaunch : (s.setLaunch lk l).agenda = s.agenda := rfl
@[simp] theorem State.here_setLaunch : (s.setLaunch lk l).here = s.here := rfl
@[simp] theorem State.focus_setLaunch : (s.setLaunch lk l).focus = s.focus := rfl
@[simp] theorem State.events_setLaunch : (s.setLaunch lk l).events = s.events := rfl
@[simp] theorem State.fresh_setLaunch : (s.setLaunch lk l).fresh = s.fresh := rfl
@[simp] theorem State.undefs_setLaunch : (s.setLaunch lk l).undefs = s.undefs := rfl
@[simp] theorem State.mem_setLaunch : (s.setLaunch lk l).mem = s.mem := rfl
@[simp] theorem State.poison_setLaunch : (s.setLaunch lk l).poison = s.poison := rfl
@[simp] theorem State.latent_setLaunch : (s.setLaunch lk l).latent = s.latent := rfl
@[simp] theorem State.cores_setLaunch : (s.setLaunch lk l).cores = s.cores := rfl
@[simp] theorem State.dies_setLaunch : (s.setLaunch lk l).dies = s.dies := rfl
@[simp] theorem State.launches_setLaunch : (s.setLaunch lk l).launches = s.launches.set lk l := rfl
@[simp] theorem State.ctxs_setLaunch : (s.setLaunch lk l).ctxs = s.ctxs := rfl
@[simp] theorem State.reqs_setLaunch : (s.setLaunch lk l).reqs = s.reqs := rfl
@[simp] theorem State.ins_setLaunch : (s.setLaunch lk l).ins = s.ins := rfl
@[simp] theorem State.waits_setLaunch : (s.setLaunch lk l).waits = s.waits := rfl
@[simp] theorem State.lease_setLaunch : (s.setLaunch lk l).lease = s.lease := rfl
@[simp] theorem State.slices_setLaunch : (s.setLaunch lk l).slices = s.slices := rfl
@[simp] theorem State.marks_setLaunch : (s.setLaunch lk l).marks = s.marks := rfl
@[simp] theorem State.hlx_setLaunch : (s.setLaunch lk l).hlx = s.hlx := rfl
@[simp] theorem State.hostCached_setLaunch : (s.setLaunch lk l).hostCached = s.hostCached := rfl
@[simp] theorem State.queues_setLaunch : (s.setLaunch lk l).queues = s.queues := rfl
@[simp] theorem State.links_setLaunch : (s.setLaunch lk l).links = s.links := rfl
@[simp] theorem State.rac_setLaunch : (s.setLaunch lk l).rac = s.rac := rfl
@[simp] theorem State.moves_setLaunch : (s.setLaunch lk l).moves = s.moves := rfl
@[simp] theorem State.tlbinv_setLaunch : (s.setLaunch lk l).tlbinv = s.tlbinv := rfl
@[simp] theorem State.walks_setLaunch : (s.setLaunch lk l).walks = s.walks := rfl
@[simp] theorem State.trust_setLaunch : (s.setLaunch lk l).trust = s.trust := rfl
@[simp] theorem State.ready_setLaunch : (s.setLaunch lk l).ready = s.ready := rfl
@[simp] theorem State.bridgeDown_setLaunch : (s.setLaunch lk l).bridgeDown = s.bridgeDown := rfl
@[simp] theorem State.hostLinkDown_setLaunch : (s.setLaunch lk l).hostLinkDown = s.hostLinkDown := rfl
@[simp] theorem State.outbox_setLaunch : (s.setLaunch lk l).outbox = s.outbox := rfl
@[simp] theorem State.mhz_setLaunch : (s.setLaunch lk l).mhz = s.mhz := rfl
@[simp] theorem State.paused_setLaunch : (s.setLaunch lk l).paused = s.paused := rfl
@[simp] theorem State.powerLimit_setLaunch : (s.setLaunch lk l).powerLimit = s.powerLimit := rfl
@[simp] theorem State.sweepPeriod_setLaunch : (s.setLaunch lk l).sweepPeriod = s.sweepPeriod := rfl
@[simp] theorem State.msixTable_setLaunch : (s.setLaunch lk l).msixTable = s.msixTable := rfl
@[simp] theorem State.pba_setLaunch : (s.setLaunch lk l).pba = s.pba := rfl
@[simp] theorem State.geomMdie_setLaunch : (s.setLaunch lk l).geomMdie = s.geomMdie := rfl
@[simp] theorem State.geomAnnex_setLaunch : (s.setLaunch lk l).geomAnnex = s.geomAnnex := rfl
@[simp] theorem State.geomGen_setLaunch : (s.setLaunch lk l).geomGen = s.geomGen := rfl
@[simp] theorem State.channels_setLaunch : (s.setLaunch lk l).channels = s.channels := rfl
@[simp] theorem State.domDev_setLaunch : (s.setLaunch lk l).domDev = s.domDev := rfl
@[simp] theorem State.domValid_setLaunch : (s.setLaunch lk l).domValid = s.domValid := rfl
@[simp] theorem State.domUp_setLaunch : (s.setLaunch lk l).domUp = s.domUp := rfl
@[simp] theorem State.ports_setLaunch : (s.setLaunch lk l).ports = s.ports := rfl
@[simp] theorem State.leaseCap_setLaunch : (s.setLaunch lk l).leaseCap = s.leaseCap := rfl
@[simp] theorem State.leaseOld_setLaunch : (s.setLaunch lk l).leaseOld = s.leaseOld := rfl
@[simp] theorem State.leaseUntil_setLaunch : (s.setLaunch lk l).leaseUntil = s.leaseUntil := rfl
@[simp] theorem State.margin_setLaunch : (s.setLaunch lk l).margin = s.margin := rfl
@[simp] theorem State.prqBase_setLaunch : (s.setLaunch lk l).prqBase = s.prqBase := rfl
@[simp] theorem State.prqLog2_setLaunch : (s.setLaunch lk l).prqLog2 = s.prqLog2 := rfl
@[simp] theorem State.prqHead_setLaunch : (s.setLaunch lk l).prqHead = s.prqHead := rfl
@[simp] theorem State.prqTail_setLaunch : (s.setLaunch lk l).prqTail = s.prqTail := rfl
@[simp] theorem State.acceptCount_setLaunch : (s.setLaunch lk l).acceptCount = s.acceptCount := rfl
@[simp] theorem State.restoring_setLaunch : (s.setLaunch lk l).restoring = s.restoring := rfl
@[simp] theorem State.fatal_setLaunch : (s.setLaunch lk l).fatal = s.fatal := rfl
@[simp] theorem State.records_setLaunch : (s.setLaunch lk l).records = s.records := rfl
@[simp] theorem State.core_setLaunch (u : Nat) : (s.setLaunch lk l).core u = s.core u := rfl
@[simp] theorem State.die_setLaunch (u : Nat) : (s.setLaunch lk l).die u = s.die u := rfl
@[simp] theorem State.ctx_setLaunch (u : Nat) : (s.setLaunch lk l).ctx u = s.ctx u := rfl
@[simp] theorem State.queue_setLaunch (u : Nat) : (s.setLaunch lk l).queue u = s.queue u := rfl
@[simp] theorem State.link_setLaunch (u : Nat) : (s.setLaunch lk l).link u = s.link u := rfl
@[simp] theorem State.req_setLaunch (u : Nat) : (s.setLaunch lk l).req u = s.req u := rfl
@[simp] theorem State.byte_setLaunch (u : Nat) : (s.setLaunch lk l).byte u = s.byte u := rfl
@[simp] theorem State.quire_setLaunch (u v : Nat) : (s.setLaunch lk l).quire u v = s.quire u v := rfl
@[simp] theorem State.bank_setLaunch (u v : Nat) : (s.setLaunch lk l).bank u v = s.bank u v := rfl

end

-- ## setCtx

section
variable (s : State) (n : Nat) (x : Ctx)

@[simp] theorem State.power_setCtx : (s.setCtx n x).power = s.power := rfl
@[simp] theorem State.now_setCtx : (s.setCtx n x).now = s.now := rfl
@[simp] theorem State.frac_setCtx : (s.setCtx n x).frac = s.frac := rfl
@[simp] theorem State.agenda_setCtx : (s.setCtx n x).agenda = s.agenda := rfl
@[simp] theorem State.here_setCtx : (s.setCtx n x).here = s.here := rfl
@[simp] theorem State.focus_setCtx : (s.setCtx n x).focus = s.focus := rfl
@[simp] theorem State.events_setCtx : (s.setCtx n x).events = s.events := rfl
@[simp] theorem State.fresh_setCtx : (s.setCtx n x).fresh = s.fresh := rfl
@[simp] theorem State.undefs_setCtx : (s.setCtx n x).undefs = s.undefs := rfl
@[simp] theorem State.mem_setCtx : (s.setCtx n x).mem = s.mem := rfl
@[simp] theorem State.poison_setCtx : (s.setCtx n x).poison = s.poison := rfl
@[simp] theorem State.latent_setCtx : (s.setCtx n x).latent = s.latent := rfl
@[simp] theorem State.cores_setCtx : (s.setCtx n x).cores = s.cores := rfl
@[simp] theorem State.dies_setCtx : (s.setCtx n x).dies = s.dies := rfl
@[simp] theorem State.launches_setCtx : (s.setCtx n x).launches = s.launches := rfl
@[simp] theorem State.ctxs_setCtx : (s.setCtx n x).ctxs = s.ctxs.set n x := rfl
@[simp] theorem State.reqs_setCtx : (s.setCtx n x).reqs = s.reqs := rfl
@[simp] theorem State.ins_setCtx : (s.setCtx n x).ins = s.ins := rfl
@[simp] theorem State.waits_setCtx : (s.setCtx n x).waits = s.waits := rfl
@[simp] theorem State.lease_setCtx : (s.setCtx n x).lease = s.lease := rfl
@[simp] theorem State.slices_setCtx : (s.setCtx n x).slices = s.slices := rfl
@[simp] theorem State.marks_setCtx : (s.setCtx n x).marks = s.marks := rfl
@[simp] theorem State.hlx_setCtx : (s.setCtx n x).hlx = s.hlx := rfl
@[simp] theorem State.hostCached_setCtx : (s.setCtx n x).hostCached = s.hostCached := rfl
@[simp] theorem State.queues_setCtx : (s.setCtx n x).queues = s.queues := rfl
@[simp] theorem State.links_setCtx : (s.setCtx n x).links = s.links := rfl
@[simp] theorem State.rac_setCtx : (s.setCtx n x).rac = s.rac := rfl
@[simp] theorem State.moves_setCtx : (s.setCtx n x).moves = s.moves := rfl
@[simp] theorem State.tlbinv_setCtx : (s.setCtx n x).tlbinv = s.tlbinv := rfl
@[simp] theorem State.walks_setCtx : (s.setCtx n x).walks = s.walks := rfl
@[simp] theorem State.trust_setCtx : (s.setCtx n x).trust = s.trust := rfl
@[simp] theorem State.ready_setCtx : (s.setCtx n x).ready = s.ready := rfl
@[simp] theorem State.bridgeDown_setCtx : (s.setCtx n x).bridgeDown = s.bridgeDown := rfl
@[simp] theorem State.hostLinkDown_setCtx : (s.setCtx n x).hostLinkDown = s.hostLinkDown := rfl
@[simp] theorem State.outbox_setCtx : (s.setCtx n x).outbox = s.outbox := rfl
@[simp] theorem State.mhz_setCtx : (s.setCtx n x).mhz = s.mhz := rfl
@[simp] theorem State.paused_setCtx : (s.setCtx n x).paused = s.paused := rfl
@[simp] theorem State.powerLimit_setCtx : (s.setCtx n x).powerLimit = s.powerLimit := rfl
@[simp] theorem State.sweepPeriod_setCtx : (s.setCtx n x).sweepPeriod = s.sweepPeriod := rfl
@[simp] theorem State.msixTable_setCtx : (s.setCtx n x).msixTable = s.msixTable := rfl
@[simp] theorem State.pba_setCtx : (s.setCtx n x).pba = s.pba := rfl
@[simp] theorem State.geomMdie_setCtx : (s.setCtx n x).geomMdie = s.geomMdie := rfl
@[simp] theorem State.geomAnnex_setCtx : (s.setCtx n x).geomAnnex = s.geomAnnex := rfl
@[simp] theorem State.geomGen_setCtx : (s.setCtx n x).geomGen = s.geomGen := rfl
@[simp] theorem State.channels_setCtx : (s.setCtx n x).channels = s.channels := rfl
@[simp] theorem State.domDev_setCtx : (s.setCtx n x).domDev = s.domDev := rfl
@[simp] theorem State.domValid_setCtx : (s.setCtx n x).domValid = s.domValid := rfl
@[simp] theorem State.domUp_setCtx : (s.setCtx n x).domUp = s.domUp := rfl
@[simp] theorem State.ports_setCtx : (s.setCtx n x).ports = s.ports := rfl
@[simp] theorem State.leaseCap_setCtx : (s.setCtx n x).leaseCap = s.leaseCap := rfl
@[simp] theorem State.leaseOld_setCtx : (s.setCtx n x).leaseOld = s.leaseOld := rfl
@[simp] theorem State.leaseUntil_setCtx : (s.setCtx n x).leaseUntil = s.leaseUntil := rfl
@[simp] theorem State.margin_setCtx : (s.setCtx n x).margin = s.margin := rfl
@[simp] theorem State.prqBase_setCtx : (s.setCtx n x).prqBase = s.prqBase := rfl
@[simp] theorem State.prqLog2_setCtx : (s.setCtx n x).prqLog2 = s.prqLog2 := rfl
@[simp] theorem State.prqHead_setCtx : (s.setCtx n x).prqHead = s.prqHead := rfl
@[simp] theorem State.prqTail_setCtx : (s.setCtx n x).prqTail = s.prqTail := rfl
@[simp] theorem State.acceptCount_setCtx : (s.setCtx n x).acceptCount = s.acceptCount := rfl
@[simp] theorem State.restoring_setCtx : (s.setCtx n x).restoring = s.restoring := rfl
@[simp] theorem State.fatal_setCtx : (s.setCtx n x).fatal = s.fatal := rfl
@[simp] theorem State.records_setCtx : (s.setCtx n x).records = s.records := rfl
@[simp] theorem State.core_setCtx (u : Nat) : (s.setCtx n x).core u = s.core u := rfl
@[simp] theorem State.die_setCtx (u : Nat) : (s.setCtx n x).die u = s.die u := rfl
@[simp] theorem State.launch_setCtx (u : Nat) : (s.setCtx n x).launch u = s.launch u := rfl
@[simp] theorem State.queue_setCtx (u : Nat) : (s.setCtx n x).queue u = s.queue u := rfl
@[simp] theorem State.link_setCtx (u : Nat) : (s.setCtx n x).link u = s.link u := rfl
@[simp] theorem State.req_setCtx (u : Nat) : (s.setCtx n x).req u = s.req u := rfl
@[simp] theorem State.byte_setCtx (u : Nat) : (s.setCtx n x).byte u = s.byte u := rfl
@[simp] theorem State.quire_setCtx (u v : Nat) : (s.setCtx n x).quire u v = s.quire u v := rfl
@[simp] theorem State.bank_setCtx (u v : Nat) : (s.setCtx n x).bank u v = s.bank u v := rfl

end

-- ## setQueue

section
variable (s : State) (n : Nat) (x : Queue)

@[simp] theorem State.power_setQueue : (s.setQueue n x).power = s.power := rfl
@[simp] theorem State.now_setQueue : (s.setQueue n x).now = s.now := rfl
@[simp] theorem State.frac_setQueue : (s.setQueue n x).frac = s.frac := rfl
@[simp] theorem State.agenda_setQueue : (s.setQueue n x).agenda = s.agenda := rfl
@[simp] theorem State.here_setQueue : (s.setQueue n x).here = s.here := rfl
@[simp] theorem State.focus_setQueue : (s.setQueue n x).focus = s.focus := rfl
@[simp] theorem State.events_setQueue : (s.setQueue n x).events = s.events := rfl
@[simp] theorem State.fresh_setQueue : (s.setQueue n x).fresh = s.fresh := rfl
@[simp] theorem State.undefs_setQueue : (s.setQueue n x).undefs = s.undefs := rfl
@[simp] theorem State.mem_setQueue : (s.setQueue n x).mem = s.mem := rfl
@[simp] theorem State.poison_setQueue : (s.setQueue n x).poison = s.poison := rfl
@[simp] theorem State.latent_setQueue : (s.setQueue n x).latent = s.latent := rfl
@[simp] theorem State.cores_setQueue : (s.setQueue n x).cores = s.cores := rfl
@[simp] theorem State.dies_setQueue : (s.setQueue n x).dies = s.dies := rfl
@[simp] theorem State.launches_setQueue : (s.setQueue n x).launches = s.launches := rfl
@[simp] theorem State.ctxs_setQueue : (s.setQueue n x).ctxs = s.ctxs := rfl
@[simp] theorem State.reqs_setQueue : (s.setQueue n x).reqs = s.reqs := rfl
@[simp] theorem State.ins_setQueue : (s.setQueue n x).ins = s.ins := rfl
@[simp] theorem State.waits_setQueue : (s.setQueue n x).waits = s.waits := rfl
@[simp] theorem State.lease_setQueue : (s.setQueue n x).lease = s.lease := rfl
@[simp] theorem State.slices_setQueue : (s.setQueue n x).slices = s.slices := rfl
@[simp] theorem State.marks_setQueue : (s.setQueue n x).marks = s.marks := rfl
@[simp] theorem State.hlx_setQueue : (s.setQueue n x).hlx = s.hlx := rfl
@[simp] theorem State.hostCached_setQueue : (s.setQueue n x).hostCached = s.hostCached := rfl
@[simp] theorem State.queues_setQueue : (s.setQueue n x).queues = s.queues.set n x := rfl
@[simp] theorem State.links_setQueue : (s.setQueue n x).links = s.links := rfl
@[simp] theorem State.rac_setQueue : (s.setQueue n x).rac = s.rac := rfl
@[simp] theorem State.moves_setQueue : (s.setQueue n x).moves = s.moves := rfl
@[simp] theorem State.tlbinv_setQueue : (s.setQueue n x).tlbinv = s.tlbinv := rfl
@[simp] theorem State.walks_setQueue : (s.setQueue n x).walks = s.walks := rfl
@[simp] theorem State.trust_setQueue : (s.setQueue n x).trust = s.trust := rfl
@[simp] theorem State.ready_setQueue : (s.setQueue n x).ready = s.ready := rfl
@[simp] theorem State.bridgeDown_setQueue : (s.setQueue n x).bridgeDown = s.bridgeDown := rfl
@[simp] theorem State.hostLinkDown_setQueue : (s.setQueue n x).hostLinkDown = s.hostLinkDown := rfl
@[simp] theorem State.outbox_setQueue : (s.setQueue n x).outbox = s.outbox := rfl
@[simp] theorem State.mhz_setQueue : (s.setQueue n x).mhz = s.mhz := rfl
@[simp] theorem State.paused_setQueue : (s.setQueue n x).paused = s.paused := rfl
@[simp] theorem State.powerLimit_setQueue : (s.setQueue n x).powerLimit = s.powerLimit := rfl
@[simp] theorem State.sweepPeriod_setQueue : (s.setQueue n x).sweepPeriod = s.sweepPeriod := rfl
@[simp] theorem State.msixTable_setQueue : (s.setQueue n x).msixTable = s.msixTable := rfl
@[simp] theorem State.pba_setQueue : (s.setQueue n x).pba = s.pba := rfl
@[simp] theorem State.geomMdie_setQueue : (s.setQueue n x).geomMdie = s.geomMdie := rfl
@[simp] theorem State.geomAnnex_setQueue : (s.setQueue n x).geomAnnex = s.geomAnnex := rfl
@[simp] theorem State.geomGen_setQueue : (s.setQueue n x).geomGen = s.geomGen := rfl
@[simp] theorem State.channels_setQueue : (s.setQueue n x).channels = s.channels := rfl
@[simp] theorem State.domDev_setQueue : (s.setQueue n x).domDev = s.domDev := rfl
@[simp] theorem State.domValid_setQueue : (s.setQueue n x).domValid = s.domValid := rfl
@[simp] theorem State.domUp_setQueue : (s.setQueue n x).domUp = s.domUp := rfl
@[simp] theorem State.ports_setQueue : (s.setQueue n x).ports = s.ports := rfl
@[simp] theorem State.leaseCap_setQueue : (s.setQueue n x).leaseCap = s.leaseCap := rfl
@[simp] theorem State.leaseOld_setQueue : (s.setQueue n x).leaseOld = s.leaseOld := rfl
@[simp] theorem State.leaseUntil_setQueue : (s.setQueue n x).leaseUntil = s.leaseUntil := rfl
@[simp] theorem State.margin_setQueue : (s.setQueue n x).margin = s.margin := rfl
@[simp] theorem State.prqBase_setQueue : (s.setQueue n x).prqBase = s.prqBase := rfl
@[simp] theorem State.prqLog2_setQueue : (s.setQueue n x).prqLog2 = s.prqLog2 := rfl
@[simp] theorem State.prqHead_setQueue : (s.setQueue n x).prqHead = s.prqHead := rfl
@[simp] theorem State.prqTail_setQueue : (s.setQueue n x).prqTail = s.prqTail := rfl
@[simp] theorem State.acceptCount_setQueue : (s.setQueue n x).acceptCount = s.acceptCount := rfl
@[simp] theorem State.restoring_setQueue : (s.setQueue n x).restoring = s.restoring := rfl
@[simp] theorem State.fatal_setQueue : (s.setQueue n x).fatal = s.fatal := rfl
@[simp] theorem State.records_setQueue : (s.setQueue n x).records = s.records := rfl
@[simp] theorem State.core_setQueue (u : Nat) : (s.setQueue n x).core u = s.core u := rfl
@[simp] theorem State.die_setQueue (u : Nat) : (s.setQueue n x).die u = s.die u := rfl
@[simp] theorem State.launch_setQueue (u : Nat) : (s.setQueue n x).launch u = s.launch u := rfl
@[simp] theorem State.ctx_setQueue (u : Nat) : (s.setQueue n x).ctx u = s.ctx u := rfl
@[simp] theorem State.link_setQueue (u : Nat) : (s.setQueue n x).link u = s.link u := rfl
@[simp] theorem State.req_setQueue (u : Nat) : (s.setQueue n x).req u = s.req u := rfl
@[simp] theorem State.byte_setQueue (u : Nat) : (s.setQueue n x).byte u = s.byte u := rfl
@[simp] theorem State.quire_setQueue (u v : Nat) : (s.setQueue n x).quire u v = s.quire u v := rfl
@[simp] theorem State.bank_setQueue (u v : Nat) : (s.setQueue n x).bank u v = s.bank u v := rfl

end

-- ## setLink

section
variable (s : State) (n : Nat) (x : Link)

@[simp] theorem State.power_setLink : (s.setLink n x).power = s.power := rfl
@[simp] theorem State.now_setLink : (s.setLink n x).now = s.now := rfl
@[simp] theorem State.frac_setLink : (s.setLink n x).frac = s.frac := rfl
@[simp] theorem State.agenda_setLink : (s.setLink n x).agenda = s.agenda := rfl
@[simp] theorem State.here_setLink : (s.setLink n x).here = s.here := rfl
@[simp] theorem State.focus_setLink : (s.setLink n x).focus = s.focus := rfl
@[simp] theorem State.events_setLink : (s.setLink n x).events = s.events := rfl
@[simp] theorem State.fresh_setLink : (s.setLink n x).fresh = s.fresh := rfl
@[simp] theorem State.undefs_setLink : (s.setLink n x).undefs = s.undefs := rfl
@[simp] theorem State.mem_setLink : (s.setLink n x).mem = s.mem := rfl
@[simp] theorem State.poison_setLink : (s.setLink n x).poison = s.poison := rfl
@[simp] theorem State.latent_setLink : (s.setLink n x).latent = s.latent := rfl
@[simp] theorem State.cores_setLink : (s.setLink n x).cores = s.cores := rfl
@[simp] theorem State.dies_setLink : (s.setLink n x).dies = s.dies := rfl
@[simp] theorem State.launches_setLink : (s.setLink n x).launches = s.launches := rfl
@[simp] theorem State.ctxs_setLink : (s.setLink n x).ctxs = s.ctxs := rfl
@[simp] theorem State.reqs_setLink : (s.setLink n x).reqs = s.reqs := rfl
@[simp] theorem State.ins_setLink : (s.setLink n x).ins = s.ins := rfl
@[simp] theorem State.waits_setLink : (s.setLink n x).waits = s.waits := rfl
@[simp] theorem State.lease_setLink : (s.setLink n x).lease = s.lease := rfl
@[simp] theorem State.slices_setLink : (s.setLink n x).slices = s.slices := rfl
@[simp] theorem State.marks_setLink : (s.setLink n x).marks = s.marks := rfl
@[simp] theorem State.hlx_setLink : (s.setLink n x).hlx = s.hlx := rfl
@[simp] theorem State.hostCached_setLink : (s.setLink n x).hostCached = s.hostCached := rfl
@[simp] theorem State.queues_setLink : (s.setLink n x).queues = s.queues := rfl
@[simp] theorem State.links_setLink : (s.setLink n x).links = s.links.set n x := rfl
@[simp] theorem State.rac_setLink : (s.setLink n x).rac = s.rac := rfl
@[simp] theorem State.moves_setLink : (s.setLink n x).moves = s.moves := rfl
@[simp] theorem State.tlbinv_setLink : (s.setLink n x).tlbinv = s.tlbinv := rfl
@[simp] theorem State.walks_setLink : (s.setLink n x).walks = s.walks := rfl
@[simp] theorem State.trust_setLink : (s.setLink n x).trust = s.trust := rfl
@[simp] theorem State.ready_setLink : (s.setLink n x).ready = s.ready := rfl
@[simp] theorem State.bridgeDown_setLink : (s.setLink n x).bridgeDown = s.bridgeDown := rfl
@[simp] theorem State.hostLinkDown_setLink : (s.setLink n x).hostLinkDown = s.hostLinkDown := rfl
@[simp] theorem State.outbox_setLink : (s.setLink n x).outbox = s.outbox := rfl
@[simp] theorem State.mhz_setLink : (s.setLink n x).mhz = s.mhz := rfl
@[simp] theorem State.paused_setLink : (s.setLink n x).paused = s.paused := rfl
@[simp] theorem State.powerLimit_setLink : (s.setLink n x).powerLimit = s.powerLimit := rfl
@[simp] theorem State.sweepPeriod_setLink : (s.setLink n x).sweepPeriod = s.sweepPeriod := rfl
@[simp] theorem State.msixTable_setLink : (s.setLink n x).msixTable = s.msixTable := rfl
@[simp] theorem State.pba_setLink : (s.setLink n x).pba = s.pba := rfl
@[simp] theorem State.geomMdie_setLink : (s.setLink n x).geomMdie = s.geomMdie := rfl
@[simp] theorem State.geomAnnex_setLink : (s.setLink n x).geomAnnex = s.geomAnnex := rfl
@[simp] theorem State.geomGen_setLink : (s.setLink n x).geomGen = s.geomGen := rfl
@[simp] theorem State.channels_setLink : (s.setLink n x).channels = s.channels := rfl
@[simp] theorem State.domDev_setLink : (s.setLink n x).domDev = s.domDev := rfl
@[simp] theorem State.domValid_setLink : (s.setLink n x).domValid = s.domValid := rfl
@[simp] theorem State.domUp_setLink : (s.setLink n x).domUp = s.domUp := rfl
@[simp] theorem State.ports_setLink : (s.setLink n x).ports = s.ports := rfl
@[simp] theorem State.leaseCap_setLink : (s.setLink n x).leaseCap = s.leaseCap := rfl
@[simp] theorem State.leaseOld_setLink : (s.setLink n x).leaseOld = s.leaseOld := rfl
@[simp] theorem State.leaseUntil_setLink : (s.setLink n x).leaseUntil = s.leaseUntil := rfl
@[simp] theorem State.margin_setLink : (s.setLink n x).margin = s.margin := rfl
@[simp] theorem State.prqBase_setLink : (s.setLink n x).prqBase = s.prqBase := rfl
@[simp] theorem State.prqLog2_setLink : (s.setLink n x).prqLog2 = s.prqLog2 := rfl
@[simp] theorem State.prqHead_setLink : (s.setLink n x).prqHead = s.prqHead := rfl
@[simp] theorem State.prqTail_setLink : (s.setLink n x).prqTail = s.prqTail := rfl
@[simp] theorem State.acceptCount_setLink : (s.setLink n x).acceptCount = s.acceptCount := rfl
@[simp] theorem State.restoring_setLink : (s.setLink n x).restoring = s.restoring := rfl
@[simp] theorem State.fatal_setLink : (s.setLink n x).fatal = s.fatal := rfl
@[simp] theorem State.records_setLink : (s.setLink n x).records = s.records := rfl
@[simp] theorem State.core_setLink (u : Nat) : (s.setLink n x).core u = s.core u := rfl
@[simp] theorem State.die_setLink (u : Nat) : (s.setLink n x).die u = s.die u := rfl
@[simp] theorem State.launch_setLink (u : Nat) : (s.setLink n x).launch u = s.launch u := rfl
@[simp] theorem State.ctx_setLink (u : Nat) : (s.setLink n x).ctx u = s.ctx u := rfl
@[simp] theorem State.queue_setLink (u : Nat) : (s.setLink n x).queue u = s.queue u := rfl
@[simp] theorem State.req_setLink (u : Nat) : (s.setLink n x).req u = s.req u := rfl
@[simp] theorem State.byte_setLink (u : Nat) : (s.setLink n x).byte u = s.byte u := rfl
@[simp] theorem State.quire_setLink (u v : Nat) : (s.setLink n x).quire u v = s.quire u v := rfl
@[simp] theorem State.bank_setLink (u v : Nat) : (s.setLink n x).bank u v = s.bank u v := rfl

end

-- ## setReq

section
variable (s : State) (n : Nat) (r : Req)

@[simp] theorem State.power_setReq : (s.setReq n r).power = s.power := rfl
@[simp] theorem State.now_setReq : (s.setReq n r).now = s.now := rfl
@[simp] theorem State.frac_setReq : (s.setReq n r).frac = s.frac := rfl
@[simp] theorem State.agenda_setReq : (s.setReq n r).agenda = s.agenda := rfl
@[simp] theorem State.here_setReq : (s.setReq n r).here = s.here := rfl
@[simp] theorem State.focus_setReq : (s.setReq n r).focus = s.focus := rfl
@[simp] theorem State.events_setReq : (s.setReq n r).events = s.events := rfl
@[simp] theorem State.fresh_setReq : (s.setReq n r).fresh = s.fresh := rfl
@[simp] theorem State.undefs_setReq : (s.setReq n r).undefs = s.undefs := rfl
@[simp] theorem State.mem_setReq : (s.setReq n r).mem = s.mem := rfl
@[simp] theorem State.poison_setReq : (s.setReq n r).poison = s.poison := rfl
@[simp] theorem State.latent_setReq : (s.setReq n r).latent = s.latent := rfl
@[simp] theorem State.cores_setReq : (s.setReq n r).cores = s.cores := rfl
@[simp] theorem State.dies_setReq : (s.setReq n r).dies = s.dies := rfl
@[simp] theorem State.launches_setReq : (s.setReq n r).launches = s.launches := rfl
@[simp] theorem State.ctxs_setReq : (s.setReq n r).ctxs = s.ctxs := rfl
@[simp] theorem State.reqs_setReq : (s.setReq n r).reqs = s.reqs.set n r := rfl
@[simp] theorem State.ins_setReq : (s.setReq n r).ins = s.ins := rfl
@[simp] theorem State.waits_setReq : (s.setReq n r).waits = s.waits := rfl
@[simp] theorem State.lease_setReq : (s.setReq n r).lease = s.lease := rfl
@[simp] theorem State.slices_setReq : (s.setReq n r).slices = s.slices := rfl
@[simp] theorem State.marks_setReq : (s.setReq n r).marks = s.marks := rfl
@[simp] theorem State.hlx_setReq : (s.setReq n r).hlx = s.hlx := rfl
@[simp] theorem State.hostCached_setReq : (s.setReq n r).hostCached = s.hostCached := rfl
@[simp] theorem State.queues_setReq : (s.setReq n r).queues = s.queues := rfl
@[simp] theorem State.links_setReq : (s.setReq n r).links = s.links := rfl
@[simp] theorem State.rac_setReq : (s.setReq n r).rac = s.rac := rfl
@[simp] theorem State.moves_setReq : (s.setReq n r).moves = s.moves := rfl
@[simp] theorem State.tlbinv_setReq : (s.setReq n r).tlbinv = s.tlbinv := rfl
@[simp] theorem State.walks_setReq : (s.setReq n r).walks = s.walks := rfl
@[simp] theorem State.trust_setReq : (s.setReq n r).trust = s.trust := rfl
@[simp] theorem State.ready_setReq : (s.setReq n r).ready = s.ready := rfl
@[simp] theorem State.bridgeDown_setReq : (s.setReq n r).bridgeDown = s.bridgeDown := rfl
@[simp] theorem State.hostLinkDown_setReq : (s.setReq n r).hostLinkDown = s.hostLinkDown := rfl
@[simp] theorem State.outbox_setReq : (s.setReq n r).outbox = s.outbox := rfl
@[simp] theorem State.mhz_setReq : (s.setReq n r).mhz = s.mhz := rfl
@[simp] theorem State.paused_setReq : (s.setReq n r).paused = s.paused := rfl
@[simp] theorem State.powerLimit_setReq : (s.setReq n r).powerLimit = s.powerLimit := rfl
@[simp] theorem State.sweepPeriod_setReq : (s.setReq n r).sweepPeriod = s.sweepPeriod := rfl
@[simp] theorem State.msixTable_setReq : (s.setReq n r).msixTable = s.msixTable := rfl
@[simp] theorem State.pba_setReq : (s.setReq n r).pba = s.pba := rfl
@[simp] theorem State.geomMdie_setReq : (s.setReq n r).geomMdie = s.geomMdie := rfl
@[simp] theorem State.geomAnnex_setReq : (s.setReq n r).geomAnnex = s.geomAnnex := rfl
@[simp] theorem State.geomGen_setReq : (s.setReq n r).geomGen = s.geomGen := rfl
@[simp] theorem State.channels_setReq : (s.setReq n r).channels = s.channels := rfl
@[simp] theorem State.domDev_setReq : (s.setReq n r).domDev = s.domDev := rfl
@[simp] theorem State.domValid_setReq : (s.setReq n r).domValid = s.domValid := rfl
@[simp] theorem State.domUp_setReq : (s.setReq n r).domUp = s.domUp := rfl
@[simp] theorem State.ports_setReq : (s.setReq n r).ports = s.ports := rfl
@[simp] theorem State.leaseCap_setReq : (s.setReq n r).leaseCap = s.leaseCap := rfl
@[simp] theorem State.leaseOld_setReq : (s.setReq n r).leaseOld = s.leaseOld := rfl
@[simp] theorem State.leaseUntil_setReq : (s.setReq n r).leaseUntil = s.leaseUntil := rfl
@[simp] theorem State.margin_setReq : (s.setReq n r).margin = s.margin := rfl
@[simp] theorem State.prqBase_setReq : (s.setReq n r).prqBase = s.prqBase := rfl
@[simp] theorem State.prqLog2_setReq : (s.setReq n r).prqLog2 = s.prqLog2 := rfl
@[simp] theorem State.prqHead_setReq : (s.setReq n r).prqHead = s.prqHead := rfl
@[simp] theorem State.prqTail_setReq : (s.setReq n r).prqTail = s.prqTail := rfl
@[simp] theorem State.acceptCount_setReq : (s.setReq n r).acceptCount = s.acceptCount := rfl
@[simp] theorem State.restoring_setReq : (s.setReq n r).restoring = s.restoring := rfl
@[simp] theorem State.fatal_setReq : (s.setReq n r).fatal = s.fatal := rfl
@[simp] theorem State.records_setReq : (s.setReq n r).records = s.records := rfl
@[simp] theorem State.core_setReq (u : Nat) : (s.setReq n r).core u = s.core u := rfl
@[simp] theorem State.die_setReq (u : Nat) : (s.setReq n r).die u = s.die u := rfl
@[simp] theorem State.launch_setReq (u : Nat) : (s.setReq n r).launch u = s.launch u := rfl
@[simp] theorem State.ctx_setReq (u : Nat) : (s.setReq n r).ctx u = s.ctx u := rfl
@[simp] theorem State.queue_setReq (u : Nat) : (s.setReq n r).queue u = s.queue u := rfl
@[simp] theorem State.link_setReq (u : Nat) : (s.setReq n r).link u = s.link u := rfl
@[simp] theorem State.byte_setReq (u : Nat) : (s.setReq n r).byte u = s.byte u := rfl
@[simp] theorem State.quire_setReq (u v : Nat) : (s.setReq n r).quire u v = s.quire u v := rfl
@[simp] theorem State.bank_setReq (u v : Nat) : (s.setReq n r).bank u v = s.bank u v := rfl

end

-- ## dropReq

section
variable (s : State) (n : Nat)

@[simp] theorem State.power_dropReq : (s.dropReq n).power = s.power := rfl
@[simp] theorem State.now_dropReq : (s.dropReq n).now = s.now := rfl
@[simp] theorem State.frac_dropReq : (s.dropReq n).frac = s.frac := rfl
@[simp] theorem State.agenda_dropReq : (s.dropReq n).agenda = s.agenda := rfl
@[simp] theorem State.here_dropReq : (s.dropReq n).here = s.here := rfl
@[simp] theorem State.focus_dropReq : (s.dropReq n).focus = s.focus := rfl
@[simp] theorem State.events_dropReq : (s.dropReq n).events = s.events := rfl
@[simp] theorem State.fresh_dropReq : (s.dropReq n).fresh = s.fresh := rfl
@[simp] theorem State.undefs_dropReq : (s.dropReq n).undefs = s.undefs := rfl
@[simp] theorem State.mem_dropReq : (s.dropReq n).mem = s.mem := rfl
@[simp] theorem State.poison_dropReq : (s.dropReq n).poison = s.poison := rfl
@[simp] theorem State.latent_dropReq : (s.dropReq n).latent = s.latent := rfl
@[simp] theorem State.cores_dropReq : (s.dropReq n).cores = s.cores := rfl
@[simp] theorem State.dies_dropReq : (s.dropReq n).dies = s.dies := rfl
@[simp] theorem State.launches_dropReq : (s.dropReq n).launches = s.launches := rfl
@[simp] theorem State.ctxs_dropReq : (s.dropReq n).ctxs = s.ctxs := rfl
@[simp] theorem State.reqs_dropReq : (s.dropReq n).reqs = s.reqs.del n := rfl
@[simp] theorem State.ins_dropReq : (s.dropReq n).ins = s.ins := rfl
@[simp] theorem State.waits_dropReq : (s.dropReq n).waits = s.waits := rfl
@[simp] theorem State.lease_dropReq : (s.dropReq n).lease = s.lease := rfl
@[simp] theorem State.slices_dropReq : (s.dropReq n).slices = s.slices := rfl
@[simp] theorem State.marks_dropReq : (s.dropReq n).marks = s.marks := rfl
@[simp] theorem State.hlx_dropReq : (s.dropReq n).hlx = s.hlx := rfl
@[simp] theorem State.hostCached_dropReq : (s.dropReq n).hostCached = s.hostCached := rfl
@[simp] theorem State.queues_dropReq : (s.dropReq n).queues = s.queues := rfl
@[simp] theorem State.links_dropReq : (s.dropReq n).links = s.links := rfl
@[simp] theorem State.rac_dropReq : (s.dropReq n).rac = s.rac := rfl
@[simp] theorem State.moves_dropReq : (s.dropReq n).moves = s.moves := rfl
@[simp] theorem State.tlbinv_dropReq : (s.dropReq n).tlbinv = s.tlbinv := rfl
@[simp] theorem State.walks_dropReq : (s.dropReq n).walks = s.walks := rfl
@[simp] theorem State.trust_dropReq : (s.dropReq n).trust = s.trust := rfl
@[simp] theorem State.ready_dropReq : (s.dropReq n).ready = s.ready := rfl
@[simp] theorem State.bridgeDown_dropReq : (s.dropReq n).bridgeDown = s.bridgeDown := rfl
@[simp] theorem State.hostLinkDown_dropReq : (s.dropReq n).hostLinkDown = s.hostLinkDown := rfl
@[simp] theorem State.outbox_dropReq : (s.dropReq n).outbox = s.outbox := rfl
@[simp] theorem State.mhz_dropReq : (s.dropReq n).mhz = s.mhz := rfl
@[simp] theorem State.paused_dropReq : (s.dropReq n).paused = s.paused := rfl
@[simp] theorem State.powerLimit_dropReq : (s.dropReq n).powerLimit = s.powerLimit := rfl
@[simp] theorem State.sweepPeriod_dropReq : (s.dropReq n).sweepPeriod = s.sweepPeriod := rfl
@[simp] theorem State.msixTable_dropReq : (s.dropReq n).msixTable = s.msixTable := rfl
@[simp] theorem State.pba_dropReq : (s.dropReq n).pba = s.pba := rfl
@[simp] theorem State.geomMdie_dropReq : (s.dropReq n).geomMdie = s.geomMdie := rfl
@[simp] theorem State.geomAnnex_dropReq : (s.dropReq n).geomAnnex = s.geomAnnex := rfl
@[simp] theorem State.geomGen_dropReq : (s.dropReq n).geomGen = s.geomGen := rfl
@[simp] theorem State.channels_dropReq : (s.dropReq n).channels = s.channels := rfl
@[simp] theorem State.domDev_dropReq : (s.dropReq n).domDev = s.domDev := rfl
@[simp] theorem State.domValid_dropReq : (s.dropReq n).domValid = s.domValid := rfl
@[simp] theorem State.domUp_dropReq : (s.dropReq n).domUp = s.domUp := rfl
@[simp] theorem State.ports_dropReq : (s.dropReq n).ports = s.ports := rfl
@[simp] theorem State.leaseCap_dropReq : (s.dropReq n).leaseCap = s.leaseCap := rfl
@[simp] theorem State.leaseOld_dropReq : (s.dropReq n).leaseOld = s.leaseOld := rfl
@[simp] theorem State.leaseUntil_dropReq : (s.dropReq n).leaseUntil = s.leaseUntil := rfl
@[simp] theorem State.margin_dropReq : (s.dropReq n).margin = s.margin := rfl
@[simp] theorem State.prqBase_dropReq : (s.dropReq n).prqBase = s.prqBase := rfl
@[simp] theorem State.prqLog2_dropReq : (s.dropReq n).prqLog2 = s.prqLog2 := rfl
@[simp] theorem State.prqHead_dropReq : (s.dropReq n).prqHead = s.prqHead := rfl
@[simp] theorem State.prqTail_dropReq : (s.dropReq n).prqTail = s.prqTail := rfl
@[simp] theorem State.acceptCount_dropReq : (s.dropReq n).acceptCount = s.acceptCount := rfl
@[simp] theorem State.restoring_dropReq : (s.dropReq n).restoring = s.restoring := rfl
@[simp] theorem State.fatal_dropReq : (s.dropReq n).fatal = s.fatal := rfl
@[simp] theorem State.records_dropReq : (s.dropReq n).records = s.records := rfl
@[simp] theorem State.core_dropReq (u : Nat) : (s.dropReq n).core u = s.core u := rfl
@[simp] theorem State.die_dropReq (u : Nat) : (s.dropReq n).die u = s.die u := rfl
@[simp] theorem State.launch_dropReq (u : Nat) : (s.dropReq n).launch u = s.launch u := rfl
@[simp] theorem State.ctx_dropReq (u : Nat) : (s.dropReq n).ctx u = s.ctx u := rfl
@[simp] theorem State.queue_dropReq (u : Nat) : (s.dropReq n).queue u = s.queue u := rfl
@[simp] theorem State.link_dropReq (u : Nat) : (s.dropReq n).link u = s.link u := rfl
@[simp] theorem State.byte_dropReq (u : Nat) : (s.dropReq n).byte u = s.byte u := rfl
@[simp] theorem State.quire_dropReq (u v : Nat) : (s.dropReq n).quire u v = s.quire u v := rfl
@[simp] theorem State.bank_dropReq (u v : Nat) : (s.dropReq n).bank u v = s.bank u v := rfl

end

-- ## setQuire

section
variable (s : State) (c j : Nat) (q : Quire)

@[simp] theorem State.power_setQuire : (s.setQuire c j q).power = s.power := rfl
@[simp] theorem State.now_setQuire : (s.setQuire c j q).now = s.now := rfl
@[simp] theorem State.frac_setQuire : (s.setQuire c j q).frac = s.frac := rfl
@[simp] theorem State.agenda_setQuire : (s.setQuire c j q).agenda = s.agenda := rfl
@[simp] theorem State.here_setQuire : (s.setQuire c j q).here = s.here := rfl
@[simp] theorem State.focus_setQuire : (s.setQuire c j q).focus = s.focus := rfl
@[simp] theorem State.events_setQuire : (s.setQuire c j q).events = s.events := rfl
@[simp] theorem State.fresh_setQuire : (s.setQuire c j q).fresh = s.fresh := rfl
@[simp] theorem State.undefs_setQuire : (s.setQuire c j q).undefs = s.undefs := rfl
@[simp] theorem State.mem_setQuire : (s.setQuire c j q).mem = s.mem := rfl
@[simp] theorem State.poison_setQuire : (s.setQuire c j q).poison = s.poison := rfl
@[simp] theorem State.latent_setQuire : (s.setQuire c j q).latent = s.latent := rfl
@[simp] theorem State.cores_setQuire : (s.setQuire c j q).cores = s.cores.set c ((s.core c).setQuire j q) := rfl
@[simp] theorem State.dies_setQuire : (s.setQuire c j q).dies = s.dies := rfl
@[simp] theorem State.launches_setQuire : (s.setQuire c j q).launches = s.launches := rfl
@[simp] theorem State.ctxs_setQuire : (s.setQuire c j q).ctxs = s.ctxs := rfl
@[simp] theorem State.reqs_setQuire : (s.setQuire c j q).reqs = s.reqs := rfl
@[simp] theorem State.ins_setQuire : (s.setQuire c j q).ins = s.ins := rfl
@[simp] theorem State.waits_setQuire : (s.setQuire c j q).waits = s.waits := rfl
@[simp] theorem State.lease_setQuire : (s.setQuire c j q).lease = s.lease := rfl
@[simp] theorem State.slices_setQuire : (s.setQuire c j q).slices = s.slices := rfl
@[simp] theorem State.marks_setQuire : (s.setQuire c j q).marks = s.marks := rfl
@[simp] theorem State.hlx_setQuire : (s.setQuire c j q).hlx = s.hlx := rfl
@[simp] theorem State.hostCached_setQuire : (s.setQuire c j q).hostCached = s.hostCached := rfl
@[simp] theorem State.queues_setQuire : (s.setQuire c j q).queues = s.queues := rfl
@[simp] theorem State.links_setQuire : (s.setQuire c j q).links = s.links := rfl
@[simp] theorem State.rac_setQuire : (s.setQuire c j q).rac = s.rac := rfl
@[simp] theorem State.moves_setQuire : (s.setQuire c j q).moves = s.moves := rfl
@[simp] theorem State.tlbinv_setQuire : (s.setQuire c j q).tlbinv = s.tlbinv := rfl
@[simp] theorem State.walks_setQuire : (s.setQuire c j q).walks = s.walks := rfl
@[simp] theorem State.trust_setQuire : (s.setQuire c j q).trust = s.trust := rfl
@[simp] theorem State.ready_setQuire : (s.setQuire c j q).ready = s.ready := rfl
@[simp] theorem State.bridgeDown_setQuire : (s.setQuire c j q).bridgeDown = s.bridgeDown := rfl
@[simp] theorem State.hostLinkDown_setQuire : (s.setQuire c j q).hostLinkDown = s.hostLinkDown := rfl
@[simp] theorem State.outbox_setQuire : (s.setQuire c j q).outbox = s.outbox := rfl
@[simp] theorem State.mhz_setQuire : (s.setQuire c j q).mhz = s.mhz := rfl
@[simp] theorem State.paused_setQuire : (s.setQuire c j q).paused = s.paused := rfl
@[simp] theorem State.powerLimit_setQuire : (s.setQuire c j q).powerLimit = s.powerLimit := rfl
@[simp] theorem State.sweepPeriod_setQuire : (s.setQuire c j q).sweepPeriod = s.sweepPeriod := rfl
@[simp] theorem State.msixTable_setQuire : (s.setQuire c j q).msixTable = s.msixTable := rfl
@[simp] theorem State.pba_setQuire : (s.setQuire c j q).pba = s.pba := rfl
@[simp] theorem State.geomMdie_setQuire : (s.setQuire c j q).geomMdie = s.geomMdie := rfl
@[simp] theorem State.geomAnnex_setQuire : (s.setQuire c j q).geomAnnex = s.geomAnnex := rfl
@[simp] theorem State.geomGen_setQuire : (s.setQuire c j q).geomGen = s.geomGen := rfl
@[simp] theorem State.channels_setQuire : (s.setQuire c j q).channels = s.channels := rfl
@[simp] theorem State.domDev_setQuire : (s.setQuire c j q).domDev = s.domDev := rfl
@[simp] theorem State.domValid_setQuire : (s.setQuire c j q).domValid = s.domValid := rfl
@[simp] theorem State.domUp_setQuire : (s.setQuire c j q).domUp = s.domUp := rfl
@[simp] theorem State.ports_setQuire : (s.setQuire c j q).ports = s.ports := rfl
@[simp] theorem State.leaseCap_setQuire : (s.setQuire c j q).leaseCap = s.leaseCap := rfl
@[simp] theorem State.leaseOld_setQuire : (s.setQuire c j q).leaseOld = s.leaseOld := rfl
@[simp] theorem State.leaseUntil_setQuire : (s.setQuire c j q).leaseUntil = s.leaseUntil := rfl
@[simp] theorem State.margin_setQuire : (s.setQuire c j q).margin = s.margin := rfl
@[simp] theorem State.prqBase_setQuire : (s.setQuire c j q).prqBase = s.prqBase := rfl
@[simp] theorem State.prqLog2_setQuire : (s.setQuire c j q).prqLog2 = s.prqLog2 := rfl
@[simp] theorem State.prqHead_setQuire : (s.setQuire c j q).prqHead = s.prqHead := rfl
@[simp] theorem State.prqTail_setQuire : (s.setQuire c j q).prqTail = s.prqTail := rfl
@[simp] theorem State.acceptCount_setQuire : (s.setQuire c j q).acceptCount = s.acceptCount := rfl
@[simp] theorem State.restoring_setQuire : (s.setQuire c j q).restoring = s.restoring := rfl
@[simp] theorem State.fatal_setQuire : (s.setQuire c j q).fatal = s.fatal := rfl
@[simp] theorem State.records_setQuire : (s.setQuire c j q).records = s.records := rfl
@[simp] theorem State.die_setQuire (u : Nat) : (s.setQuire c j q).die u = s.die u := rfl
@[simp] theorem State.launch_setQuire (u : Nat) : (s.setQuire c j q).launch u = s.launch u := rfl
@[simp] theorem State.ctx_setQuire (u : Nat) : (s.setQuire c j q).ctx u = s.ctx u := rfl
@[simp] theorem State.queue_setQuire (u : Nat) : (s.setQuire c j q).queue u = s.queue u := rfl
@[simp] theorem State.link_setQuire (u : Nat) : (s.setQuire c j q).link u = s.link u := rfl
@[simp] theorem State.req_setQuire (u : Nat) : (s.setQuire c j q).req u = s.req u := rfl
@[simp] theorem State.byte_setQuire (u : Nat) : (s.setQuire c j q).byte u = s.byte u := rfl

end

-- ## setBank

section
variable (s : State) (c b : Nat) (x : Bank)

@[simp] theorem State.power_setBank : (s.setBank c b x).power = s.power := rfl
@[simp] theorem State.now_setBank : (s.setBank c b x).now = s.now := rfl
@[simp] theorem State.frac_setBank : (s.setBank c b x).frac = s.frac := rfl
@[simp] theorem State.agenda_setBank : (s.setBank c b x).agenda = s.agenda := rfl
@[simp] theorem State.here_setBank : (s.setBank c b x).here = s.here := rfl
@[simp] theorem State.focus_setBank : (s.setBank c b x).focus = s.focus := rfl
@[simp] theorem State.events_setBank : (s.setBank c b x).events = s.events := rfl
@[simp] theorem State.fresh_setBank : (s.setBank c b x).fresh = s.fresh := rfl
@[simp] theorem State.undefs_setBank : (s.setBank c b x).undefs = s.undefs := rfl
@[simp] theorem State.mem_setBank : (s.setBank c b x).mem = s.mem := rfl
@[simp] theorem State.poison_setBank : (s.setBank c b x).poison = s.poison := rfl
@[simp] theorem State.latent_setBank : (s.setBank c b x).latent = s.latent := rfl
@[simp] theorem State.cores_setBank : (s.setBank c b x).cores = s.cores.set c ((s.core c).setBank b x) := rfl
@[simp] theorem State.dies_setBank : (s.setBank c b x).dies = s.dies := rfl
@[simp] theorem State.launches_setBank : (s.setBank c b x).launches = s.launches := rfl
@[simp] theorem State.ctxs_setBank : (s.setBank c b x).ctxs = s.ctxs := rfl
@[simp] theorem State.reqs_setBank : (s.setBank c b x).reqs = s.reqs := rfl
@[simp] theorem State.ins_setBank : (s.setBank c b x).ins = s.ins := rfl
@[simp] theorem State.waits_setBank : (s.setBank c b x).waits = s.waits := rfl
@[simp] theorem State.lease_setBank : (s.setBank c b x).lease = s.lease := rfl
@[simp] theorem State.slices_setBank : (s.setBank c b x).slices = s.slices := rfl
@[simp] theorem State.marks_setBank : (s.setBank c b x).marks = s.marks := rfl
@[simp] theorem State.hlx_setBank : (s.setBank c b x).hlx = s.hlx := rfl
@[simp] theorem State.hostCached_setBank : (s.setBank c b x).hostCached = s.hostCached := rfl
@[simp] theorem State.queues_setBank : (s.setBank c b x).queues = s.queues := rfl
@[simp] theorem State.links_setBank : (s.setBank c b x).links = s.links := rfl
@[simp] theorem State.rac_setBank : (s.setBank c b x).rac = s.rac := rfl
@[simp] theorem State.moves_setBank : (s.setBank c b x).moves = s.moves := rfl
@[simp] theorem State.tlbinv_setBank : (s.setBank c b x).tlbinv = s.tlbinv := rfl
@[simp] theorem State.walks_setBank : (s.setBank c b x).walks = s.walks := rfl
@[simp] theorem State.trust_setBank : (s.setBank c b x).trust = s.trust := rfl
@[simp] theorem State.ready_setBank : (s.setBank c b x).ready = s.ready := rfl
@[simp] theorem State.bridgeDown_setBank : (s.setBank c b x).bridgeDown = s.bridgeDown := rfl
@[simp] theorem State.hostLinkDown_setBank : (s.setBank c b x).hostLinkDown = s.hostLinkDown := rfl
@[simp] theorem State.outbox_setBank : (s.setBank c b x).outbox = s.outbox := rfl
@[simp] theorem State.mhz_setBank : (s.setBank c b x).mhz = s.mhz := rfl
@[simp] theorem State.paused_setBank : (s.setBank c b x).paused = s.paused := rfl
@[simp] theorem State.powerLimit_setBank : (s.setBank c b x).powerLimit = s.powerLimit := rfl
@[simp] theorem State.sweepPeriod_setBank : (s.setBank c b x).sweepPeriod = s.sweepPeriod := rfl
@[simp] theorem State.msixTable_setBank : (s.setBank c b x).msixTable = s.msixTable := rfl
@[simp] theorem State.pba_setBank : (s.setBank c b x).pba = s.pba := rfl
@[simp] theorem State.geomMdie_setBank : (s.setBank c b x).geomMdie = s.geomMdie := rfl
@[simp] theorem State.geomAnnex_setBank : (s.setBank c b x).geomAnnex = s.geomAnnex := rfl
@[simp] theorem State.geomGen_setBank : (s.setBank c b x).geomGen = s.geomGen := rfl
@[simp] theorem State.channels_setBank : (s.setBank c b x).channels = s.channels := rfl
@[simp] theorem State.domDev_setBank : (s.setBank c b x).domDev = s.domDev := rfl
@[simp] theorem State.domValid_setBank : (s.setBank c b x).domValid = s.domValid := rfl
@[simp] theorem State.domUp_setBank : (s.setBank c b x).domUp = s.domUp := rfl
@[simp] theorem State.ports_setBank : (s.setBank c b x).ports = s.ports := rfl
@[simp] theorem State.leaseCap_setBank : (s.setBank c b x).leaseCap = s.leaseCap := rfl
@[simp] theorem State.leaseOld_setBank : (s.setBank c b x).leaseOld = s.leaseOld := rfl
@[simp] theorem State.leaseUntil_setBank : (s.setBank c b x).leaseUntil = s.leaseUntil := rfl
@[simp] theorem State.margin_setBank : (s.setBank c b x).margin = s.margin := rfl
@[simp] theorem State.prqBase_setBank : (s.setBank c b x).prqBase = s.prqBase := rfl
@[simp] theorem State.prqLog2_setBank : (s.setBank c b x).prqLog2 = s.prqLog2 := rfl
@[simp] theorem State.prqHead_setBank : (s.setBank c b x).prqHead = s.prqHead := rfl
@[simp] theorem State.prqTail_setBank : (s.setBank c b x).prqTail = s.prqTail := rfl
@[simp] theorem State.acceptCount_setBank : (s.setBank c b x).acceptCount = s.acceptCount := rfl
@[simp] theorem State.restoring_setBank : (s.setBank c b x).restoring = s.restoring := rfl
@[simp] theorem State.fatal_setBank : (s.setBank c b x).fatal = s.fatal := rfl
@[simp] theorem State.records_setBank : (s.setBank c b x).records = s.records := rfl
@[simp] theorem State.die_setBank (u : Nat) : (s.setBank c b x).die u = s.die u := rfl
@[simp] theorem State.launch_setBank (u : Nat) : (s.setBank c b x).launch u = s.launch u := rfl
@[simp] theorem State.ctx_setBank (u : Nat) : (s.setBank c b x).ctx u = s.ctx u := rfl
@[simp] theorem State.queue_setBank (u : Nat) : (s.setBank c b x).queue u = s.queue u := rfl
@[simp] theorem State.link_setBank (u : Nat) : (s.setBank c b x).link u = s.link u := rfl
@[simp] theorem State.req_setBank (u : Nat) : (s.setBank c b x).req u = s.req u := rfl
@[simp] theorem State.byte_setBank (u : Nat) : (s.setBank c b x).byte u = s.byte u := rfl

end

-- ## setBytes

section
variable (s : State) (a : Nat) (bs : List Byte)

@[simp] theorem State.power_setBytes : (s.setBytes a bs).power = s.power := rfl
@[simp] theorem State.now_setBytes : (s.setBytes a bs).now = s.now := rfl
@[simp] theorem State.frac_setBytes : (s.setBytes a bs).frac = s.frac := rfl
@[simp] theorem State.agenda_setBytes : (s.setBytes a bs).agenda = s.agenda := rfl
@[simp] theorem State.here_setBytes : (s.setBytes a bs).here = s.here := rfl
@[simp] theorem State.focus_setBytes : (s.setBytes a bs).focus = s.focus := rfl
@[simp] theorem State.events_setBytes : (s.setBytes a bs).events = s.events := rfl
@[simp] theorem State.fresh_setBytes : (s.setBytes a bs).fresh = s.fresh := rfl
@[simp] theorem State.undefs_setBytes : (s.setBytes a bs).undefs = s.undefs := rfl
@[simp] theorem State.mem_setBytes : (s.setBytes a bs).mem = memPuts s.mem a bs := rfl
@[simp] theorem State.poison_setBytes : (s.setBytes a bs).poison = s.poison := rfl
@[simp] theorem State.latent_setBytes : (s.setBytes a bs).latent = s.latent := rfl
@[simp] theorem State.cores_setBytes : (s.setBytes a bs).cores = s.cores := rfl
@[simp] theorem State.dies_setBytes : (s.setBytes a bs).dies = s.dies := rfl
@[simp] theorem State.launches_setBytes : (s.setBytes a bs).launches = s.launches := rfl
@[simp] theorem State.ctxs_setBytes : (s.setBytes a bs).ctxs = s.ctxs := rfl
@[simp] theorem State.reqs_setBytes : (s.setBytes a bs).reqs = s.reqs := rfl
@[simp] theorem State.ins_setBytes : (s.setBytes a bs).ins = s.ins := rfl
@[simp] theorem State.waits_setBytes : (s.setBytes a bs).waits = s.waits := rfl
@[simp] theorem State.lease_setBytes : (s.setBytes a bs).lease = s.lease := rfl
@[simp] theorem State.slices_setBytes : (s.setBytes a bs).slices = s.slices := rfl
@[simp] theorem State.marks_setBytes : (s.setBytes a bs).marks = s.marks := rfl
@[simp] theorem State.hlx_setBytes : (s.setBytes a bs).hlx = s.hlx := rfl
@[simp] theorem State.hostCached_setBytes : (s.setBytes a bs).hostCached = s.hostCached := rfl
@[simp] theorem State.queues_setBytes : (s.setBytes a bs).queues = s.queues := rfl
@[simp] theorem State.links_setBytes : (s.setBytes a bs).links = s.links := rfl
@[simp] theorem State.rac_setBytes : (s.setBytes a bs).rac = s.rac := rfl
@[simp] theorem State.moves_setBytes : (s.setBytes a bs).moves = s.moves := rfl
@[simp] theorem State.tlbinv_setBytes : (s.setBytes a bs).tlbinv = s.tlbinv := rfl
@[simp] theorem State.walks_setBytes : (s.setBytes a bs).walks = s.walks := rfl
@[simp] theorem State.trust_setBytes : (s.setBytes a bs).trust = s.trust := rfl
@[simp] theorem State.ready_setBytes : (s.setBytes a bs).ready = s.ready := rfl
@[simp] theorem State.bridgeDown_setBytes : (s.setBytes a bs).bridgeDown = s.bridgeDown := rfl
@[simp] theorem State.hostLinkDown_setBytes : (s.setBytes a bs).hostLinkDown = s.hostLinkDown := rfl
@[simp] theorem State.outbox_setBytes : (s.setBytes a bs).outbox = s.outbox := rfl
@[simp] theorem State.mhz_setBytes : (s.setBytes a bs).mhz = s.mhz := rfl
@[simp] theorem State.paused_setBytes : (s.setBytes a bs).paused = s.paused := rfl
@[simp] theorem State.powerLimit_setBytes : (s.setBytes a bs).powerLimit = s.powerLimit := rfl
@[simp] theorem State.sweepPeriod_setBytes : (s.setBytes a bs).sweepPeriod = s.sweepPeriod := rfl
@[simp] theorem State.msixTable_setBytes : (s.setBytes a bs).msixTable = s.msixTable := rfl
@[simp] theorem State.pba_setBytes : (s.setBytes a bs).pba = s.pba := rfl
@[simp] theorem State.geomMdie_setBytes : (s.setBytes a bs).geomMdie = s.geomMdie := rfl
@[simp] theorem State.geomAnnex_setBytes : (s.setBytes a bs).geomAnnex = s.geomAnnex := rfl
@[simp] theorem State.geomGen_setBytes : (s.setBytes a bs).geomGen = s.geomGen := rfl
@[simp] theorem State.channels_setBytes : (s.setBytes a bs).channels = s.channels := rfl
@[simp] theorem State.domDev_setBytes : (s.setBytes a bs).domDev = s.domDev := rfl
@[simp] theorem State.domValid_setBytes : (s.setBytes a bs).domValid = s.domValid := rfl
@[simp] theorem State.domUp_setBytes : (s.setBytes a bs).domUp = s.domUp := rfl
@[simp] theorem State.ports_setBytes : (s.setBytes a bs).ports = s.ports := rfl
@[simp] theorem State.leaseCap_setBytes : (s.setBytes a bs).leaseCap = s.leaseCap := rfl
@[simp] theorem State.leaseOld_setBytes : (s.setBytes a bs).leaseOld = s.leaseOld := rfl
@[simp] theorem State.leaseUntil_setBytes : (s.setBytes a bs).leaseUntil = s.leaseUntil := rfl
@[simp] theorem State.margin_setBytes : (s.setBytes a bs).margin = s.margin := rfl
@[simp] theorem State.prqBase_setBytes : (s.setBytes a bs).prqBase = s.prqBase := rfl
@[simp] theorem State.prqLog2_setBytes : (s.setBytes a bs).prqLog2 = s.prqLog2 := rfl
@[simp] theorem State.prqHead_setBytes : (s.setBytes a bs).prqHead = s.prqHead := rfl
@[simp] theorem State.prqTail_setBytes : (s.setBytes a bs).prqTail = s.prqTail := rfl
@[simp] theorem State.acceptCount_setBytes : (s.setBytes a bs).acceptCount = s.acceptCount := rfl
@[simp] theorem State.restoring_setBytes : (s.setBytes a bs).restoring = s.restoring := rfl
@[simp] theorem State.fatal_setBytes : (s.setBytes a bs).fatal = s.fatal := rfl
@[simp] theorem State.records_setBytes : (s.setBytes a bs).records = s.records := rfl
@[simp] theorem State.core_setBytes (u : Nat) : (s.setBytes a bs).core u = s.core u := rfl
@[simp] theorem State.die_setBytes (u : Nat) : (s.setBytes a bs).die u = s.die u := rfl
@[simp] theorem State.launch_setBytes (u : Nat) : (s.setBytes a bs).launch u = s.launch u := rfl
@[simp] theorem State.ctx_setBytes (u : Nat) : (s.setBytes a bs).ctx u = s.ctx u := rfl
@[simp] theorem State.queue_setBytes (u : Nat) : (s.setBytes a bs).queue u = s.queue u := rfl
@[simp] theorem State.link_setBytes (u : Nat) : (s.setBytes a bs).link u = s.link u := rfl
@[simp] theorem State.req_setBytes (u : Nat) : (s.setBytes a bs).req u = s.req u := rfl
@[simp] theorem State.quire_setBytes (u v : Nat) : (s.setBytes a bs).quire u v = s.quire u v := rfl
@[simp] theorem State.bank_setBytes (u v : Nat) : (s.setBytes a bs).bank u v = s.bank u v := rfl

end

-- ## dueAt

section
variable (s : State) (t : Nat) (h : Here) (i : Instr)

@[simp] theorem State.power_dueAt : (s.dueAt t h i).power = s.power := rfl
@[simp] theorem State.now_dueAt : (s.dueAt t h i).now = s.now := rfl
@[simp] theorem State.frac_dueAt : (s.dueAt t h i).frac = s.frac := rfl
@[simp] theorem State.agenda_dueAt : (s.dueAt t h i).agenda = insertDue { tick := t, here := h, what := i } s.agenda := rfl
@[simp] theorem State.here_dueAt : (s.dueAt t h i).here = s.here := rfl
@[simp] theorem State.focus_dueAt : (s.dueAt t h i).focus = s.focus := rfl
@[simp] theorem State.events_dueAt : (s.dueAt t h i).events = s.events := rfl
@[simp] theorem State.fresh_dueAt : (s.dueAt t h i).fresh = s.fresh := rfl
@[simp] theorem State.undefs_dueAt : (s.dueAt t h i).undefs = s.undefs := rfl
@[simp] theorem State.mem_dueAt : (s.dueAt t h i).mem = s.mem := rfl
@[simp] theorem State.poison_dueAt : (s.dueAt t h i).poison = s.poison := rfl
@[simp] theorem State.latent_dueAt : (s.dueAt t h i).latent = s.latent := rfl
@[simp] theorem State.cores_dueAt : (s.dueAt t h i).cores = s.cores := rfl
@[simp] theorem State.dies_dueAt : (s.dueAt t h i).dies = s.dies := rfl
@[simp] theorem State.launches_dueAt : (s.dueAt t h i).launches = s.launches := rfl
@[simp] theorem State.ctxs_dueAt : (s.dueAt t h i).ctxs = s.ctxs := rfl
@[simp] theorem State.reqs_dueAt : (s.dueAt t h i).reqs = s.reqs := rfl
@[simp] theorem State.ins_dueAt : (s.dueAt t h i).ins = s.ins := rfl
@[simp] theorem State.waits_dueAt : (s.dueAt t h i).waits = s.waits := rfl
@[simp] theorem State.lease_dueAt : (s.dueAt t h i).lease = s.lease := rfl
@[simp] theorem State.slices_dueAt : (s.dueAt t h i).slices = s.slices := rfl
@[simp] theorem State.marks_dueAt : (s.dueAt t h i).marks = s.marks := rfl
@[simp] theorem State.hlx_dueAt : (s.dueAt t h i).hlx = s.hlx := rfl
@[simp] theorem State.hostCached_dueAt : (s.dueAt t h i).hostCached = s.hostCached := rfl
@[simp] theorem State.queues_dueAt : (s.dueAt t h i).queues = s.queues := rfl
@[simp] theorem State.links_dueAt : (s.dueAt t h i).links = s.links := rfl
@[simp] theorem State.rac_dueAt : (s.dueAt t h i).rac = s.rac := rfl
@[simp] theorem State.moves_dueAt : (s.dueAt t h i).moves = s.moves := rfl
@[simp] theorem State.tlbinv_dueAt : (s.dueAt t h i).tlbinv = s.tlbinv := rfl
@[simp] theorem State.walks_dueAt : (s.dueAt t h i).walks = s.walks := rfl
@[simp] theorem State.trust_dueAt : (s.dueAt t h i).trust = s.trust := rfl
@[simp] theorem State.ready_dueAt : (s.dueAt t h i).ready = s.ready := rfl
@[simp] theorem State.bridgeDown_dueAt : (s.dueAt t h i).bridgeDown = s.bridgeDown := rfl
@[simp] theorem State.hostLinkDown_dueAt : (s.dueAt t h i).hostLinkDown = s.hostLinkDown := rfl
@[simp] theorem State.outbox_dueAt : (s.dueAt t h i).outbox = s.outbox := rfl
@[simp] theorem State.mhz_dueAt : (s.dueAt t h i).mhz = s.mhz := rfl
@[simp] theorem State.paused_dueAt : (s.dueAt t h i).paused = s.paused := rfl
@[simp] theorem State.powerLimit_dueAt : (s.dueAt t h i).powerLimit = s.powerLimit := rfl
@[simp] theorem State.sweepPeriod_dueAt : (s.dueAt t h i).sweepPeriod = s.sweepPeriod := rfl
@[simp] theorem State.msixTable_dueAt : (s.dueAt t h i).msixTable = s.msixTable := rfl
@[simp] theorem State.pba_dueAt : (s.dueAt t h i).pba = s.pba := rfl
@[simp] theorem State.geomMdie_dueAt : (s.dueAt t h i).geomMdie = s.geomMdie := rfl
@[simp] theorem State.geomAnnex_dueAt : (s.dueAt t h i).geomAnnex = s.geomAnnex := rfl
@[simp] theorem State.geomGen_dueAt : (s.dueAt t h i).geomGen = s.geomGen := rfl
@[simp] theorem State.channels_dueAt : (s.dueAt t h i).channels = s.channels := rfl
@[simp] theorem State.domDev_dueAt : (s.dueAt t h i).domDev = s.domDev := rfl
@[simp] theorem State.domValid_dueAt : (s.dueAt t h i).domValid = s.domValid := rfl
@[simp] theorem State.domUp_dueAt : (s.dueAt t h i).domUp = s.domUp := rfl
@[simp] theorem State.ports_dueAt : (s.dueAt t h i).ports = s.ports := rfl
@[simp] theorem State.leaseCap_dueAt : (s.dueAt t h i).leaseCap = s.leaseCap := rfl
@[simp] theorem State.leaseOld_dueAt : (s.dueAt t h i).leaseOld = s.leaseOld := rfl
@[simp] theorem State.leaseUntil_dueAt : (s.dueAt t h i).leaseUntil = s.leaseUntil := rfl
@[simp] theorem State.margin_dueAt : (s.dueAt t h i).margin = s.margin := rfl
@[simp] theorem State.prqBase_dueAt : (s.dueAt t h i).prqBase = s.prqBase := rfl
@[simp] theorem State.prqLog2_dueAt : (s.dueAt t h i).prqLog2 = s.prqLog2 := rfl
@[simp] theorem State.prqHead_dueAt : (s.dueAt t h i).prqHead = s.prqHead := rfl
@[simp] theorem State.prqTail_dueAt : (s.dueAt t h i).prqTail = s.prqTail := rfl
@[simp] theorem State.acceptCount_dueAt : (s.dueAt t h i).acceptCount = s.acceptCount := rfl
@[simp] theorem State.restoring_dueAt : (s.dueAt t h i).restoring = s.restoring := rfl
@[simp] theorem State.fatal_dueAt : (s.dueAt t h i).fatal = s.fatal := rfl
@[simp] theorem State.records_dueAt : (s.dueAt t h i).records = s.records := rfl
@[simp] theorem State.core_dueAt (u : Nat) : (s.dueAt t h i).core u = s.core u := rfl
@[simp] theorem State.die_dueAt (u : Nat) : (s.dueAt t h i).die u = s.die u := rfl
@[simp] theorem State.launch_dueAt (u : Nat) : (s.dueAt t h i).launch u = s.launch u := rfl
@[simp] theorem State.ctx_dueAt (u : Nat) : (s.dueAt t h i).ctx u = s.ctx u := rfl
@[simp] theorem State.queue_dueAt (u : Nat) : (s.dueAt t h i).queue u = s.queue u := rfl
@[simp] theorem State.link_dueAt (u : Nat) : (s.dueAt t h i).link u = s.link u := rfl
@[simp] theorem State.req_dueAt (u : Nat) : (s.dueAt t h i).req u = s.req u := rfl
@[simp] theorem State.byte_dueAt (u : Nat) : (s.dueAt t h i).byte u = s.byte u := rfl
@[simp] theorem State.quire_dueAt (u v : Nat) : (s.dueAt t h i).quire u v = s.quire u v := rfl
@[simp] theorem State.bank_dueAt (u v : Nat) : (s.dueAt t h i).bank u v = s.bank u v := rfl

end

-- ## due

section
variable (s : State) (n : Nat) (h : Here) (i : Instr)

@[simp] theorem State.power_due : (s.due n h i).power = s.power := rfl
@[simp] theorem State.now_due : (s.due n h i).now = s.now := rfl
@[simp] theorem State.frac_due : (s.due n h i).frac = s.frac := rfl
@[simp] theorem State.agenda_due : (s.due n h i).agenda = insertDue { tick := s.now + n, here := h, what := i } s.agenda := rfl
@[simp] theorem State.here_due : (s.due n h i).here = s.here := rfl
@[simp] theorem State.focus_due : (s.due n h i).focus = s.focus := rfl
@[simp] theorem State.events_due : (s.due n h i).events = s.events := rfl
@[simp] theorem State.fresh_due : (s.due n h i).fresh = s.fresh := rfl
@[simp] theorem State.undefs_due : (s.due n h i).undefs = s.undefs := rfl
@[simp] theorem State.mem_due : (s.due n h i).mem = s.mem := rfl
@[simp] theorem State.poison_due : (s.due n h i).poison = s.poison := rfl
@[simp] theorem State.latent_due : (s.due n h i).latent = s.latent := rfl
@[simp] theorem State.cores_due : (s.due n h i).cores = s.cores := rfl
@[simp] theorem State.dies_due : (s.due n h i).dies = s.dies := rfl
@[simp] theorem State.launches_due : (s.due n h i).launches = s.launches := rfl
@[simp] theorem State.ctxs_due : (s.due n h i).ctxs = s.ctxs := rfl
@[simp] theorem State.reqs_due : (s.due n h i).reqs = s.reqs := rfl
@[simp] theorem State.ins_due : (s.due n h i).ins = s.ins := rfl
@[simp] theorem State.waits_due : (s.due n h i).waits = s.waits := rfl
@[simp] theorem State.lease_due : (s.due n h i).lease = s.lease := rfl
@[simp] theorem State.slices_due : (s.due n h i).slices = s.slices := rfl
@[simp] theorem State.marks_due : (s.due n h i).marks = s.marks := rfl
@[simp] theorem State.hlx_due : (s.due n h i).hlx = s.hlx := rfl
@[simp] theorem State.hostCached_due : (s.due n h i).hostCached = s.hostCached := rfl
@[simp] theorem State.queues_due : (s.due n h i).queues = s.queues := rfl
@[simp] theorem State.links_due : (s.due n h i).links = s.links := rfl
@[simp] theorem State.rac_due : (s.due n h i).rac = s.rac := rfl
@[simp] theorem State.moves_due : (s.due n h i).moves = s.moves := rfl
@[simp] theorem State.tlbinv_due : (s.due n h i).tlbinv = s.tlbinv := rfl
@[simp] theorem State.walks_due : (s.due n h i).walks = s.walks := rfl
@[simp] theorem State.trust_due : (s.due n h i).trust = s.trust := rfl
@[simp] theorem State.ready_due : (s.due n h i).ready = s.ready := rfl
@[simp] theorem State.bridgeDown_due : (s.due n h i).bridgeDown = s.bridgeDown := rfl
@[simp] theorem State.hostLinkDown_due : (s.due n h i).hostLinkDown = s.hostLinkDown := rfl
@[simp] theorem State.outbox_due : (s.due n h i).outbox = s.outbox := rfl
@[simp] theorem State.mhz_due : (s.due n h i).mhz = s.mhz := rfl
@[simp] theorem State.paused_due : (s.due n h i).paused = s.paused := rfl
@[simp] theorem State.powerLimit_due : (s.due n h i).powerLimit = s.powerLimit := rfl
@[simp] theorem State.sweepPeriod_due : (s.due n h i).sweepPeriod = s.sweepPeriod := rfl
@[simp] theorem State.msixTable_due : (s.due n h i).msixTable = s.msixTable := rfl
@[simp] theorem State.pba_due : (s.due n h i).pba = s.pba := rfl
@[simp] theorem State.geomMdie_due : (s.due n h i).geomMdie = s.geomMdie := rfl
@[simp] theorem State.geomAnnex_due : (s.due n h i).geomAnnex = s.geomAnnex := rfl
@[simp] theorem State.geomGen_due : (s.due n h i).geomGen = s.geomGen := rfl
@[simp] theorem State.channels_due : (s.due n h i).channels = s.channels := rfl
@[simp] theorem State.domDev_due : (s.due n h i).domDev = s.domDev := rfl
@[simp] theorem State.domValid_due : (s.due n h i).domValid = s.domValid := rfl
@[simp] theorem State.domUp_due : (s.due n h i).domUp = s.domUp := rfl
@[simp] theorem State.ports_due : (s.due n h i).ports = s.ports := rfl
@[simp] theorem State.leaseCap_due : (s.due n h i).leaseCap = s.leaseCap := rfl
@[simp] theorem State.leaseOld_due : (s.due n h i).leaseOld = s.leaseOld := rfl
@[simp] theorem State.leaseUntil_due : (s.due n h i).leaseUntil = s.leaseUntil := rfl
@[simp] theorem State.margin_due : (s.due n h i).margin = s.margin := rfl
@[simp] theorem State.prqBase_due : (s.due n h i).prqBase = s.prqBase := rfl
@[simp] theorem State.prqLog2_due : (s.due n h i).prqLog2 = s.prqLog2 := rfl
@[simp] theorem State.prqHead_due : (s.due n h i).prqHead = s.prqHead := rfl
@[simp] theorem State.prqTail_due : (s.due n h i).prqTail = s.prqTail := rfl
@[simp] theorem State.acceptCount_due : (s.due n h i).acceptCount = s.acceptCount := rfl
@[simp] theorem State.restoring_due : (s.due n h i).restoring = s.restoring := rfl
@[simp] theorem State.fatal_due : (s.due n h i).fatal = s.fatal := rfl
@[simp] theorem State.records_due : (s.due n h i).records = s.records := rfl
@[simp] theorem State.core_due (u : Nat) : (s.due n h i).core u = s.core u := rfl
@[simp] theorem State.die_due (u : Nat) : (s.due n h i).die u = s.die u := rfl
@[simp] theorem State.launch_due (u : Nat) : (s.due n h i).launch u = s.launch u := rfl
@[simp] theorem State.ctx_due (u : Nat) : (s.due n h i).ctx u = s.ctx u := rfl
@[simp] theorem State.queue_due (u : Nat) : (s.due n h i).queue u = s.queue u := rfl
@[simp] theorem State.link_due (u : Nat) : (s.due n h i).link u = s.link u := rfl
@[simp] theorem State.req_due (u : Nat) : (s.due n h i).req u = s.req u := rfl
@[simp] theorem State.byte_due (u : Nat) : (s.due n h i).byte u = s.byte u := rfl
@[simp] theorem State.quire_due (u v : Nat) : (s.due n h i).quire u v = s.quire u v := rfl
@[simp] theorem State.bank_due (u v : Nat) : (s.due n h i).bank u v = s.bank u v := rfl

end

-- ## undue

section
variable (s : State) (f : Due → Bool)

@[simp] theorem State.power_undue : (s.undue f).power = s.power := rfl
@[simp] theorem State.now_undue : (s.undue f).now = s.now := rfl
@[simp] theorem State.frac_undue : (s.undue f).frac = s.frac := rfl
@[simp] theorem State.agenda_undue : (s.undue f).agenda = s.agenda.filter (fun d => !f d) := rfl
@[simp] theorem State.here_undue : (s.undue f).here = s.here := rfl
@[simp] theorem State.focus_undue : (s.undue f).focus = s.focus := rfl
@[simp] theorem State.events_undue : (s.undue f).events = s.events := rfl
@[simp] theorem State.fresh_undue : (s.undue f).fresh = s.fresh := rfl
@[simp] theorem State.undefs_undue : (s.undue f).undefs = s.undefs := rfl
@[simp] theorem State.mem_undue : (s.undue f).mem = s.mem := rfl
@[simp] theorem State.poison_undue : (s.undue f).poison = s.poison := rfl
@[simp] theorem State.latent_undue : (s.undue f).latent = s.latent := rfl
@[simp] theorem State.cores_undue : (s.undue f).cores = s.cores := rfl
@[simp] theorem State.dies_undue : (s.undue f).dies = s.dies := rfl
@[simp] theorem State.launches_undue : (s.undue f).launches = s.launches := rfl
@[simp] theorem State.ctxs_undue : (s.undue f).ctxs = s.ctxs := rfl
@[simp] theorem State.reqs_undue : (s.undue f).reqs = s.reqs := rfl
@[simp] theorem State.ins_undue : (s.undue f).ins = s.ins := rfl
@[simp] theorem State.waits_undue : (s.undue f).waits = s.waits := rfl
@[simp] theorem State.lease_undue : (s.undue f).lease = s.lease := rfl
@[simp] theorem State.slices_undue : (s.undue f).slices = s.slices := rfl
@[simp] theorem State.marks_undue : (s.undue f).marks = s.marks := rfl
@[simp] theorem State.hlx_undue : (s.undue f).hlx = s.hlx := rfl
@[simp] theorem State.hostCached_undue : (s.undue f).hostCached = s.hostCached := rfl
@[simp] theorem State.queues_undue : (s.undue f).queues = s.queues := rfl
@[simp] theorem State.links_undue : (s.undue f).links = s.links := rfl
@[simp] theorem State.rac_undue : (s.undue f).rac = s.rac := rfl
@[simp] theorem State.moves_undue : (s.undue f).moves = s.moves := rfl
@[simp] theorem State.tlbinv_undue : (s.undue f).tlbinv = s.tlbinv := rfl
@[simp] theorem State.walks_undue : (s.undue f).walks = s.walks := rfl
@[simp] theorem State.trust_undue : (s.undue f).trust = s.trust := rfl
@[simp] theorem State.ready_undue : (s.undue f).ready = s.ready := rfl
@[simp] theorem State.bridgeDown_undue : (s.undue f).bridgeDown = s.bridgeDown := rfl
@[simp] theorem State.hostLinkDown_undue : (s.undue f).hostLinkDown = s.hostLinkDown := rfl
@[simp] theorem State.outbox_undue : (s.undue f).outbox = s.outbox := rfl
@[simp] theorem State.mhz_undue : (s.undue f).mhz = s.mhz := rfl
@[simp] theorem State.paused_undue : (s.undue f).paused = s.paused := rfl
@[simp] theorem State.powerLimit_undue : (s.undue f).powerLimit = s.powerLimit := rfl
@[simp] theorem State.sweepPeriod_undue : (s.undue f).sweepPeriod = s.sweepPeriod := rfl
@[simp] theorem State.msixTable_undue : (s.undue f).msixTable = s.msixTable := rfl
@[simp] theorem State.pba_undue : (s.undue f).pba = s.pba := rfl
@[simp] theorem State.geomMdie_undue : (s.undue f).geomMdie = s.geomMdie := rfl
@[simp] theorem State.geomAnnex_undue : (s.undue f).geomAnnex = s.geomAnnex := rfl
@[simp] theorem State.geomGen_undue : (s.undue f).geomGen = s.geomGen := rfl
@[simp] theorem State.channels_undue : (s.undue f).channels = s.channels := rfl
@[simp] theorem State.domDev_undue : (s.undue f).domDev = s.domDev := rfl
@[simp] theorem State.domValid_undue : (s.undue f).domValid = s.domValid := rfl
@[simp] theorem State.domUp_undue : (s.undue f).domUp = s.domUp := rfl
@[simp] theorem State.ports_undue : (s.undue f).ports = s.ports := rfl
@[simp] theorem State.leaseCap_undue : (s.undue f).leaseCap = s.leaseCap := rfl
@[simp] theorem State.leaseOld_undue : (s.undue f).leaseOld = s.leaseOld := rfl
@[simp] theorem State.leaseUntil_undue : (s.undue f).leaseUntil = s.leaseUntil := rfl
@[simp] theorem State.margin_undue : (s.undue f).margin = s.margin := rfl
@[simp] theorem State.prqBase_undue : (s.undue f).prqBase = s.prqBase := rfl
@[simp] theorem State.prqLog2_undue : (s.undue f).prqLog2 = s.prqLog2 := rfl
@[simp] theorem State.prqHead_undue : (s.undue f).prqHead = s.prqHead := rfl
@[simp] theorem State.prqTail_undue : (s.undue f).prqTail = s.prqTail := rfl
@[simp] theorem State.acceptCount_undue : (s.undue f).acceptCount = s.acceptCount := rfl
@[simp] theorem State.restoring_undue : (s.undue f).restoring = s.restoring := rfl
@[simp] theorem State.fatal_undue : (s.undue f).fatal = s.fatal := rfl
@[simp] theorem State.records_undue : (s.undue f).records = s.records := rfl
@[simp] theorem State.core_undue (u : Nat) : (s.undue f).core u = s.core u := rfl
@[simp] theorem State.die_undue (u : Nat) : (s.undue f).die u = s.die u := rfl
@[simp] theorem State.launch_undue (u : Nat) : (s.undue f).launch u = s.launch u := rfl
@[simp] theorem State.ctx_undue (u : Nat) : (s.undue f).ctx u = s.ctx u := rfl
@[simp] theorem State.queue_undue (u : Nat) : (s.undue f).queue u = s.queue u := rfl
@[simp] theorem State.link_undue (u : Nat) : (s.undue f).link u = s.link u := rfl
@[simp] theorem State.req_undue (u : Nat) : (s.undue f).req u = s.req u := rfl
@[simp] theorem State.byte_undue (u : Nat) : (s.undue f).byte u = s.byte u := rfl
@[simp] theorem State.quire_undue (u v : Nat) : (s.undue f).quire u v = s.quire u v := rfl
@[simp] theorem State.bank_undue (u v : Nat) : (s.undue f).bank u v = s.bank u v := rfl

end

-- ## tell

section
variable (s : State) (m : Message)

/-- A message to the host changes what it has been sent, or what is pending for it. -/
theorem State.tell_rest : s.tell m = { s with outbox := (s.tell m).outbox, pba := (s.tell m).pba } := by
  unfold State.tell; split
  · split <;> rfl
  · rfl

/-- A vector that fires is sent, or is pending while it is masked (R83). -/
@[simp] theorem State.outbox_tell_msix (v : Nat) : (s.tell (.msix v)).outbox = s.outbox ++ s.signal v := by
  simp only [State.tell, State.signal]; split <;> simp

/-- Any other message is sent. -/
theorem State.outbox_tell (h : ∀ v, m ≠ .msix v) : (s.tell m).outbox = s.outbox ++ [m] := by
  unfold State.tell; split
  · exact absurd rfl (h _)
  · rfl

@[simp] theorem State.power_tell : (s.tell m).power = s.power := (congrArg State.power (s.tell_rest m)).trans rfl
@[simp] theorem State.now_tell : (s.tell m).now = s.now := (congrArg State.now (s.tell_rest m)).trans rfl
@[simp] theorem State.frac_tell : (s.tell m).frac = s.frac := (congrArg State.frac (s.tell_rest m)).trans rfl
@[simp] theorem State.agenda_tell : (s.tell m).agenda = s.agenda := (congrArg State.agenda (s.tell_rest m)).trans rfl
@[simp] theorem State.here_tell : (s.tell m).here = s.here := (congrArg State.here (s.tell_rest m)).trans rfl
@[simp] theorem State.focus_tell : (s.tell m).focus = s.focus := (congrArg State.focus (s.tell_rest m)).trans rfl
@[simp] theorem State.events_tell : (s.tell m).events = s.events := (congrArg State.events (s.tell_rest m)).trans rfl
@[simp] theorem State.fresh_tell : (s.tell m).fresh = s.fresh := (congrArg State.fresh (s.tell_rest m)).trans rfl
@[simp] theorem State.undefs_tell : (s.tell m).undefs = s.undefs := (congrArg State.undefs (s.tell_rest m)).trans rfl
@[simp] theorem State.mem_tell : (s.tell m).mem = s.mem := (congrArg State.mem (s.tell_rest m)).trans rfl
@[simp] theorem State.poison_tell : (s.tell m).poison = s.poison := (congrArg State.poison (s.tell_rest m)).trans rfl
@[simp] theorem State.latent_tell : (s.tell m).latent = s.latent := (congrArg State.latent (s.tell_rest m)).trans rfl
@[simp] theorem State.cores_tell : (s.tell m).cores = s.cores := (congrArg State.cores (s.tell_rest m)).trans rfl
@[simp] theorem State.dies_tell : (s.tell m).dies = s.dies := (congrArg State.dies (s.tell_rest m)).trans rfl
@[simp] theorem State.launches_tell : (s.tell m).launches = s.launches := (congrArg State.launches (s.tell_rest m)).trans rfl
@[simp] theorem State.ctxs_tell : (s.tell m).ctxs = s.ctxs := (congrArg State.ctxs (s.tell_rest m)).trans rfl
@[simp] theorem State.reqs_tell : (s.tell m).reqs = s.reqs := (congrArg State.reqs (s.tell_rest m)).trans rfl
@[simp] theorem State.ins_tell : (s.tell m).ins = s.ins := (congrArg State.ins (s.tell_rest m)).trans rfl
@[simp] theorem State.waits_tell : (s.tell m).waits = s.waits := (congrArg State.waits (s.tell_rest m)).trans rfl
@[simp] theorem State.lease_tell : (s.tell m).lease = s.lease := (congrArg State.lease (s.tell_rest m)).trans rfl
@[simp] theorem State.slices_tell : (s.tell m).slices = s.slices := (congrArg State.slices (s.tell_rest m)).trans rfl
@[simp] theorem State.marks_tell : (s.tell m).marks = s.marks := (congrArg State.marks (s.tell_rest m)).trans rfl
@[simp] theorem State.hlx_tell : (s.tell m).hlx = s.hlx := (congrArg State.hlx (s.tell_rest m)).trans rfl
@[simp] theorem State.hostCached_tell : (s.tell m).hostCached = s.hostCached := (congrArg State.hostCached (s.tell_rest m)).trans rfl
@[simp] theorem State.queues_tell : (s.tell m).queues = s.queues := (congrArg State.queues (s.tell_rest m)).trans rfl
@[simp] theorem State.links_tell : (s.tell m).links = s.links := (congrArg State.links (s.tell_rest m)).trans rfl
@[simp] theorem State.rac_tell : (s.tell m).rac = s.rac := (congrArg State.rac (s.tell_rest m)).trans rfl
@[simp] theorem State.moves_tell : (s.tell m).moves = s.moves := (congrArg State.moves (s.tell_rest m)).trans rfl
@[simp] theorem State.tlbinv_tell : (s.tell m).tlbinv = s.tlbinv := (congrArg State.tlbinv (s.tell_rest m)).trans rfl
@[simp] theorem State.walks_tell : (s.tell m).walks = s.walks := (congrArg State.walks (s.tell_rest m)).trans rfl
@[simp] theorem State.trust_tell : (s.tell m).trust = s.trust := (congrArg State.trust (s.tell_rest m)).trans rfl
@[simp] theorem State.ready_tell : (s.tell m).ready = s.ready := (congrArg State.ready (s.tell_rest m)).trans rfl
@[simp] theorem State.bridgeDown_tell : (s.tell m).bridgeDown = s.bridgeDown := (congrArg State.bridgeDown (s.tell_rest m)).trans rfl
@[simp] theorem State.hostLinkDown_tell : (s.tell m).hostLinkDown = s.hostLinkDown := (congrArg State.hostLinkDown (s.tell_rest m)).trans rfl
@[simp] theorem State.mhz_tell : (s.tell m).mhz = s.mhz := (congrArg State.mhz (s.tell_rest m)).trans rfl
@[simp] theorem State.paused_tell : (s.tell m).paused = s.paused := (congrArg State.paused (s.tell_rest m)).trans rfl
@[simp] theorem State.powerLimit_tell : (s.tell m).powerLimit = s.powerLimit := (congrArg State.powerLimit (s.tell_rest m)).trans rfl
@[simp] theorem State.sweepPeriod_tell : (s.tell m).sweepPeriod = s.sweepPeriod := (congrArg State.sweepPeriod (s.tell_rest m)).trans rfl
@[simp] theorem State.msixTable_tell : (s.tell m).msixTable = s.msixTable := (congrArg State.msixTable (s.tell_rest m)).trans rfl
@[simp] theorem State.geomMdie_tell : (s.tell m).geomMdie = s.geomMdie := (congrArg State.geomMdie (s.tell_rest m)).trans rfl
@[simp] theorem State.geomAnnex_tell : (s.tell m).geomAnnex = s.geomAnnex := (congrArg State.geomAnnex (s.tell_rest m)).trans rfl
@[simp] theorem State.geomGen_tell : (s.tell m).geomGen = s.geomGen := (congrArg State.geomGen (s.tell_rest m)).trans rfl
@[simp] theorem State.channels_tell : (s.tell m).channels = s.channels := (congrArg State.channels (s.tell_rest m)).trans rfl
@[simp] theorem State.domDev_tell : (s.tell m).domDev = s.domDev := (congrArg State.domDev (s.tell_rest m)).trans rfl
@[simp] theorem State.domValid_tell : (s.tell m).domValid = s.domValid := (congrArg State.domValid (s.tell_rest m)).trans rfl
@[simp] theorem State.domUp_tell : (s.tell m).domUp = s.domUp := (congrArg State.domUp (s.tell_rest m)).trans rfl
@[simp] theorem State.ports_tell : (s.tell m).ports = s.ports := (congrArg State.ports (s.tell_rest m)).trans rfl
@[simp] theorem State.leaseCap_tell : (s.tell m).leaseCap = s.leaseCap := (congrArg State.leaseCap (s.tell_rest m)).trans rfl
@[simp] theorem State.leaseOld_tell : (s.tell m).leaseOld = s.leaseOld := (congrArg State.leaseOld (s.tell_rest m)).trans rfl
@[simp] theorem State.leaseUntil_tell : (s.tell m).leaseUntil = s.leaseUntil := (congrArg State.leaseUntil (s.tell_rest m)).trans rfl
@[simp] theorem State.margin_tell : (s.tell m).margin = s.margin := (congrArg State.margin (s.tell_rest m)).trans rfl
@[simp] theorem State.prqBase_tell : (s.tell m).prqBase = s.prqBase := (congrArg State.prqBase (s.tell_rest m)).trans rfl
@[simp] theorem State.prqLog2_tell : (s.tell m).prqLog2 = s.prqLog2 := (congrArg State.prqLog2 (s.tell_rest m)).trans rfl
@[simp] theorem State.prqHead_tell : (s.tell m).prqHead = s.prqHead := (congrArg State.prqHead (s.tell_rest m)).trans rfl
@[simp] theorem State.prqTail_tell : (s.tell m).prqTail = s.prqTail := (congrArg State.prqTail (s.tell_rest m)).trans rfl
@[simp] theorem State.acceptCount_tell : (s.tell m).acceptCount = s.acceptCount := (congrArg State.acceptCount (s.tell_rest m)).trans rfl
@[simp] theorem State.restoring_tell : (s.tell m).restoring = s.restoring := (congrArg State.restoring (s.tell_rest m)).trans rfl
@[simp] theorem State.fatal_tell : (s.tell m).fatal = s.fatal := (congrArg State.fatal (s.tell_rest m)).trans rfl
@[simp] theorem State.records_tell : (s.tell m).records = s.records := (congrArg State.records (s.tell_rest m)).trans rfl
@[simp] theorem State.core_tell (u : Nat) : (s.tell m).core u = s.core u := (congrArg (fun t => State.core t u) (s.tell_rest m)).trans rfl
@[simp] theorem State.die_tell (u : Nat) : (s.tell m).die u = s.die u := (congrArg (fun t => State.die t u) (s.tell_rest m)).trans rfl
@[simp] theorem State.launch_tell (u : Nat) : (s.tell m).launch u = s.launch u := (congrArg (fun t => State.launch t u) (s.tell_rest m)).trans rfl
@[simp] theorem State.ctx_tell (u : Nat) : (s.tell m).ctx u = s.ctx u := (congrArg (fun t => State.ctx t u) (s.tell_rest m)).trans rfl
@[simp] theorem State.queue_tell (u : Nat) : (s.tell m).queue u = s.queue u := (congrArg (fun t => State.queue t u) (s.tell_rest m)).trans rfl
@[simp] theorem State.link_tell (u : Nat) : (s.tell m).link u = s.link u := (congrArg (fun t => State.link t u) (s.tell_rest m)).trans rfl
@[simp] theorem State.req_tell (u : Nat) : (s.tell m).req u = s.req u := (congrArg (fun t => State.req t u) (s.tell_rest m)).trans rfl
@[simp] theorem State.byte_tell (u : Nat) : (s.tell m).byte u = s.byte u := (congrArg (fun t => State.byte t u) (s.tell_rest m)).trans rfl
@[simp] theorem State.quire_tell (u v : Nat) : (s.tell m).quire u v = s.quire u v := (congrArg (fun t => State.quire t u v) (s.tell_rest m)).trans rfl
@[simp] theorem State.bank_tell (u v : Nat) : (s.tell m).bank u v = s.bank u v := (congrArg (fun t => State.bank t u v) (s.tell_rest m)).trans rfl

end

-- ## Numbers given out

section
variable (s : State)

@[simp] theorem State.take_fst : s.take.1 = s.fresh := rfl
@[simp] theorem State.undef_fst : s.undef.1 = Config.undef s.undefs := rfl
@[simp] theorem State.power_take : s.take.2.power = s.power := rfl
@[simp] theorem State.now_take : s.take.2.now = s.now := rfl
@[simp] theorem State.frac_take : s.take.2.frac = s.frac := rfl
@[simp] theorem State.agenda_take : s.take.2.agenda = s.agenda := rfl
@[simp] theorem State.here_take : s.take.2.here = s.here := rfl
@[simp] theorem State.focus_take : s.take.2.focus = s.focus := rfl
@[simp] theorem State.events_take : s.take.2.events = s.events := rfl
@[simp] theorem State.fresh_take : s.take.2.fresh = s.fresh + 1 := rfl
@[simp] theorem State.undefs_take : s.take.2.undefs = s.undefs := rfl
@[simp] theorem State.mem_take : s.take.2.mem = s.mem := rfl
@[simp] theorem State.poison_take : s.take.2.poison = s.poison := rfl
@[simp] theorem State.latent_take : s.take.2.latent = s.latent := rfl
@[simp] theorem State.cores_take : s.take.2.cores = s.cores := rfl
@[simp] theorem State.dies_take : s.take.2.dies = s.dies := rfl
@[simp] theorem State.launches_take : s.take.2.launches = s.launches := rfl
@[simp] theorem State.ctxs_take : s.take.2.ctxs = s.ctxs := rfl
@[simp] theorem State.reqs_take : s.take.2.reqs = s.reqs := rfl
@[simp] theorem State.ins_take : s.take.2.ins = s.ins := rfl
@[simp] theorem State.waits_take : s.take.2.waits = s.waits := rfl
@[simp] theorem State.lease_take : s.take.2.lease = s.lease := rfl
@[simp] theorem State.slices_take : s.take.2.slices = s.slices := rfl
@[simp] theorem State.marks_take : s.take.2.marks = s.marks := rfl
@[simp] theorem State.hlx_take : s.take.2.hlx = s.hlx := rfl
@[simp] theorem State.hostCached_take : s.take.2.hostCached = s.hostCached := rfl
@[simp] theorem State.queues_take : s.take.2.queues = s.queues := rfl
@[simp] theorem State.links_take : s.take.2.links = s.links := rfl
@[simp] theorem State.rac_take : s.take.2.rac = s.rac := rfl
@[simp] theorem State.moves_take : s.take.2.moves = s.moves := rfl
@[simp] theorem State.tlbinv_take : s.take.2.tlbinv = s.tlbinv := rfl
@[simp] theorem State.walks_take : s.take.2.walks = s.walks := rfl
@[simp] theorem State.trust_take : s.take.2.trust = s.trust := rfl
@[simp] theorem State.ready_take : s.take.2.ready = s.ready := rfl
@[simp] theorem State.bridgeDown_take : s.take.2.bridgeDown = s.bridgeDown := rfl
@[simp] theorem State.hostLinkDown_take : s.take.2.hostLinkDown = s.hostLinkDown := rfl
@[simp] theorem State.outbox_take : s.take.2.outbox = s.outbox := rfl
@[simp] theorem State.mhz_take : s.take.2.mhz = s.mhz := rfl
@[simp] theorem State.paused_take : s.take.2.paused = s.paused := rfl
@[simp] theorem State.powerLimit_take : s.take.2.powerLimit = s.powerLimit := rfl
@[simp] theorem State.sweepPeriod_take : s.take.2.sweepPeriod = s.sweepPeriod := rfl
@[simp] theorem State.msixTable_take : s.take.2.msixTable = s.msixTable := rfl
@[simp] theorem State.pba_take : s.take.2.pba = s.pba := rfl
@[simp] theorem State.geomMdie_take : s.take.2.geomMdie = s.geomMdie := rfl
@[simp] theorem State.geomAnnex_take : s.take.2.geomAnnex = s.geomAnnex := rfl
@[simp] theorem State.geomGen_take : s.take.2.geomGen = s.geomGen := rfl
@[simp] theorem State.channels_take : s.take.2.channels = s.channels := rfl
@[simp] theorem State.domDev_take : s.take.2.domDev = s.domDev := rfl
@[simp] theorem State.domValid_take : s.take.2.domValid = s.domValid := rfl
@[simp] theorem State.domUp_take : s.take.2.domUp = s.domUp := rfl
@[simp] theorem State.ports_take : s.take.2.ports = s.ports := rfl
@[simp] theorem State.leaseCap_take : s.take.2.leaseCap = s.leaseCap := rfl
@[simp] theorem State.leaseOld_take : s.take.2.leaseOld = s.leaseOld := rfl
@[simp] theorem State.leaseUntil_take : s.take.2.leaseUntil = s.leaseUntil := rfl
@[simp] theorem State.margin_take : s.take.2.margin = s.margin := rfl
@[simp] theorem State.prqBase_take : s.take.2.prqBase = s.prqBase := rfl
@[simp] theorem State.prqLog2_take : s.take.2.prqLog2 = s.prqLog2 := rfl
@[simp] theorem State.prqHead_take : s.take.2.prqHead = s.prqHead := rfl
@[simp] theorem State.prqTail_take : s.take.2.prqTail = s.prqTail := rfl
@[simp] theorem State.acceptCount_take : s.take.2.acceptCount = s.acceptCount := rfl
@[simp] theorem State.restoring_take : s.take.2.restoring = s.restoring := rfl
@[simp] theorem State.fatal_take : s.take.2.fatal = s.fatal := rfl
@[simp] theorem State.records_take : s.take.2.records = s.records := rfl
@[simp] theorem State.core_take (u : Nat) : s.take.2.core u = s.core u := rfl
@[simp] theorem State.die_take (u : Nat) : s.take.2.die u = s.die u := rfl
@[simp] theorem State.launch_take (u : Nat) : s.take.2.launch u = s.launch u := rfl
@[simp] theorem State.ctx_take (u : Nat) : s.take.2.ctx u = s.ctx u := rfl
@[simp] theorem State.queue_take (u : Nat) : s.take.2.queue u = s.queue u := rfl
@[simp] theorem State.link_take (u : Nat) : s.take.2.link u = s.link u := rfl
@[simp] theorem State.req_take (u : Nat) : s.take.2.req u = s.req u := rfl
@[simp] theorem State.byte_take (u : Nat) : s.take.2.byte u = s.byte u := rfl
@[simp] theorem State.quire_take (u v : Nat) : s.take.2.quire u v = s.quire u v := rfl
@[simp] theorem State.bank_take (u v : Nat) : s.take.2.bank u v = s.bank u v := rfl
@[simp] theorem State.power_undef : s.undef.2.power = s.power := rfl
@[simp] theorem State.now_undef : s.undef.2.now = s.now := rfl
@[simp] theorem State.frac_undef : s.undef.2.frac = s.frac := rfl
@[simp] theorem State.agenda_undef : s.undef.2.agenda = s.agenda := rfl
@[simp] theorem State.here_undef : s.undef.2.here = s.here := rfl
@[simp] theorem State.focus_undef : s.undef.2.focus = s.focus := rfl
@[simp] theorem State.events_undef : s.undef.2.events = s.events := rfl
@[simp] theorem State.fresh_undef : s.undef.2.fresh = s.fresh := rfl
@[simp] theorem State.undefs_undef : s.undef.2.undefs = s.undefs + 1 := rfl
@[simp] theorem State.mem_undef : s.undef.2.mem = s.mem := rfl
@[simp] theorem State.poison_undef : s.undef.2.poison = s.poison := rfl
@[simp] theorem State.latent_undef : s.undef.2.latent = s.latent := rfl
@[simp] theorem State.cores_undef : s.undef.2.cores = s.cores := rfl
@[simp] theorem State.dies_undef : s.undef.2.dies = s.dies := rfl
@[simp] theorem State.launches_undef : s.undef.2.launches = s.launches := rfl
@[simp] theorem State.ctxs_undef : s.undef.2.ctxs = s.ctxs := rfl
@[simp] theorem State.reqs_undef : s.undef.2.reqs = s.reqs := rfl
@[simp] theorem State.ins_undef : s.undef.2.ins = s.ins := rfl
@[simp] theorem State.waits_undef : s.undef.2.waits = s.waits := rfl
@[simp] theorem State.lease_undef : s.undef.2.lease = s.lease := rfl
@[simp] theorem State.slices_undef : s.undef.2.slices = s.slices := rfl
@[simp] theorem State.marks_undef : s.undef.2.marks = s.marks := rfl
@[simp] theorem State.hlx_undef : s.undef.2.hlx = s.hlx := rfl
@[simp] theorem State.hostCached_undef : s.undef.2.hostCached = s.hostCached := rfl
@[simp] theorem State.queues_undef : s.undef.2.queues = s.queues := rfl
@[simp] theorem State.links_undef : s.undef.2.links = s.links := rfl
@[simp] theorem State.rac_undef : s.undef.2.rac = s.rac := rfl
@[simp] theorem State.moves_undef : s.undef.2.moves = s.moves := rfl
@[simp] theorem State.tlbinv_undef : s.undef.2.tlbinv = s.tlbinv := rfl
@[simp] theorem State.walks_undef : s.undef.2.walks = s.walks := rfl
@[simp] theorem State.trust_undef : s.undef.2.trust = s.trust := rfl
@[simp] theorem State.ready_undef : s.undef.2.ready = s.ready := rfl
@[simp] theorem State.bridgeDown_undef : s.undef.2.bridgeDown = s.bridgeDown := rfl
@[simp] theorem State.hostLinkDown_undef : s.undef.2.hostLinkDown = s.hostLinkDown := rfl
@[simp] theorem State.outbox_undef : s.undef.2.outbox = s.outbox := rfl
@[simp] theorem State.mhz_undef : s.undef.2.mhz = s.mhz := rfl
@[simp] theorem State.paused_undef : s.undef.2.paused = s.paused := rfl
@[simp] theorem State.powerLimit_undef : s.undef.2.powerLimit = s.powerLimit := rfl
@[simp] theorem State.sweepPeriod_undef : s.undef.2.sweepPeriod = s.sweepPeriod := rfl
@[simp] theorem State.msixTable_undef : s.undef.2.msixTable = s.msixTable := rfl
@[simp] theorem State.pba_undef : s.undef.2.pba = s.pba := rfl
@[simp] theorem State.geomMdie_undef : s.undef.2.geomMdie = s.geomMdie := rfl
@[simp] theorem State.geomAnnex_undef : s.undef.2.geomAnnex = s.geomAnnex := rfl
@[simp] theorem State.geomGen_undef : s.undef.2.geomGen = s.geomGen := rfl
@[simp] theorem State.channels_undef : s.undef.2.channels = s.channels := rfl
@[simp] theorem State.domDev_undef : s.undef.2.domDev = s.domDev := rfl
@[simp] theorem State.domValid_undef : s.undef.2.domValid = s.domValid := rfl
@[simp] theorem State.domUp_undef : s.undef.2.domUp = s.domUp := rfl
@[simp] theorem State.ports_undef : s.undef.2.ports = s.ports := rfl
@[simp] theorem State.leaseCap_undef : s.undef.2.leaseCap = s.leaseCap := rfl
@[simp] theorem State.leaseOld_undef : s.undef.2.leaseOld = s.leaseOld := rfl
@[simp] theorem State.leaseUntil_undef : s.undef.2.leaseUntil = s.leaseUntil := rfl
@[simp] theorem State.margin_undef : s.undef.2.margin = s.margin := rfl
@[simp] theorem State.prqBase_undef : s.undef.2.prqBase = s.prqBase := rfl
@[simp] theorem State.prqLog2_undef : s.undef.2.prqLog2 = s.prqLog2 := rfl
@[simp] theorem State.prqHead_undef : s.undef.2.prqHead = s.prqHead := rfl
@[simp] theorem State.prqTail_undef : s.undef.2.prqTail = s.prqTail := rfl
@[simp] theorem State.acceptCount_undef : s.undef.2.acceptCount = s.acceptCount := rfl
@[simp] theorem State.restoring_undef : s.undef.2.restoring = s.restoring := rfl
@[simp] theorem State.fatal_undef : s.undef.2.fatal = s.fatal := rfl
@[simp] theorem State.records_undef : s.undef.2.records = s.records := rfl
@[simp] theorem State.core_undef (u : Nat) : s.undef.2.core u = s.core u := rfl
@[simp] theorem State.die_undef (u : Nat) : s.undef.2.die u = s.die u := rfl
@[simp] theorem State.launch_undef (u : Nat) : s.undef.2.launch u = s.launch u := rfl
@[simp] theorem State.ctx_undef (u : Nat) : s.undef.2.ctx u = s.ctx u := rfl
@[simp] theorem State.queue_undef (u : Nat) : s.undef.2.queue u = s.queue u := rfl
@[simp] theorem State.link_undef (u : Nat) : s.undef.2.link u = s.link u := rfl
@[simp] theorem State.req_undef (u : Nat) : s.undef.2.req u = s.req u := rfl
@[simp] theorem State.byte_undef (u : Nat) : s.undef.2.byte u = s.byte u := rfl
@[simp] theorem State.quire_undef (u v : Nat) : s.undef.2.quire u v = s.quire u v := rfl
@[simp] theorem State.bank_undef (u v : Nat) : s.undef.2.bank u v = s.bank u v := rfl

end

-- ## Updates of a core

section
variable (k : Core)

@[simp] theorem Core.quires_setQuire (j : Nat) (q : Quire) : (k.setQuire j q).quires = k.quires.set j q := rfl
@[simp] theorem Core.run_setQuire (j : Nat) (q : Quire) : (k.setQuire j q).run = k.run := rfl
@[simp] theorem Core.promo_setQuire (j : Nat) (q : Quire) : (k.setQuire j q).promo = k.promo := rfl
@[simp] theorem Core.enterCount_setQuire (j : Nat) (q : Quire) : (k.setQuire j q).enterCount = k.enterCount := rfl
@[simp] theorem Core.freeBlocks_setQuire (j : Nat) (q : Quire) : (k.setQuire j q).freeBlocks = k.freeBlocks := rfl
@[simp] theorem Core.clearing_setQuire (j : Nat) (q : Quire) : (k.setQuire j q).clearing = k.clearing := rfl
@[simp] theorem Core.claims_setQuire (j : Nat) (q : Quire) : (k.setQuire j q).claims = k.claims := rfl
@[simp] theorem Core.shares_setQuire (j : Nat) (q : Quire) : (k.setQuire j q).shares = k.shares := rfl
@[simp] theorem Core.groups_setQuire (j : Nat) (q : Quire) : (k.setQuire j q).groups = k.groups := rfl
@[simp] theorem Core.banks_setQuire (j : Nat) (q : Quire) : (k.setQuire j q).banks = k.banks := rfl
@[simp] theorem Core.codex_setQuire (j : Nat) (q : Quire) : (k.setQuire j q).codex = k.codex := rfl
@[simp] theorem Core.heatReg_setQuire (j : Nat) (q : Quire) : (k.setQuire j q).heatReg = k.heatReg := rfl
@[simp] theorem Core.bindSel_setQuire (j : Nat) (q : Quire) : (k.setQuire j q).bindSel = k.bindSel := rfl
@[simp] theorem Core.heat_setQuire (j : Nat) (q : Quire) : (k.setQuire j q).heat = k.heat := rfl
@[simp] theorem Core.building_setQuire (j : Nat) (q : Quire) : (k.setQuire j q).building = k.building := rfl
@[simp] theorem Core.folios_setQuire (j : Nat) (q : Quire) : (k.setQuire j q).folios = k.folios := rfl
@[simp] theorem Core.resident_setQuire (j : Nat) (q : Quire) : (k.setQuire j q).resident = k.resident := rfl
@[simp] theorem Core.bar_setQuire (j : Nat) (q : Quire) : (k.setQuire j q).bar = k.bar := rfl
@[simp] theorem Core.yielded_setQuire (j : Nat) (q : Quire) : (k.setQuire j q).yielded = k.yielded := rfl
@[simp] theorem Core.cmds_setQuire (j : Nat) (q : Quire) : (k.setQuire j q).cmds = k.cmds := rfl
@[simp] theorem Core.accepted_setQuire (j : Nat) (q : Quire) : (k.setQuire j q).accepted = k.accepted := rfl
@[simp] theorem Core.racva_setQuire (j : Nat) (q : Quire) : (k.setQuire j q).racva = k.racva := rfl
@[simp] theorem Core.l1_setQuire (j : Nat) (q : Quire) : (k.setQuire j q).l1 = k.l1 := rfl
@[simp] theorem Core.icache_setQuire (j : Nat) (q : Quire) : (k.setQuire j q).icache = k.icache := rfl
@[simp] theorem Core.tlb_setQuire (j : Nat) (q : Quire) : (k.setQuire j q).tlb = k.tlb := rfl
@[simp] theorem Core.reserved_setQuire (j : Nat) (q : Quire) : (k.setQuire j q).reserved = k.reserved := rfl
@[simp] theorem Core.restoreFor_setQuire (j : Nat) (q : Quire) : (k.setQuire j q).restoreFor = k.restoreFor := rfl
@[simp] theorem Core.quires_setBank (b : Nat) (x : Bank) : (k.setBank b x).quires = k.quires := rfl
@[simp] theorem Core.run_setBank (b : Nat) (x : Bank) : (k.setBank b x).run = k.run := rfl
@[simp] theorem Core.promo_setBank (b : Nat) (x : Bank) : (k.setBank b x).promo = k.promo := rfl
@[simp] theorem Core.enterCount_setBank (b : Nat) (x : Bank) : (k.setBank b x).enterCount = k.enterCount := rfl
@[simp] theorem Core.freeBlocks_setBank (b : Nat) (x : Bank) : (k.setBank b x).freeBlocks = k.freeBlocks := rfl
@[simp] theorem Core.clearing_setBank (b : Nat) (x : Bank) : (k.setBank b x).clearing = k.clearing := rfl
@[simp] theorem Core.claims_setBank (b : Nat) (x : Bank) : (k.setBank b x).claims = k.claims := rfl
@[simp] theorem Core.shares_setBank (b : Nat) (x : Bank) : (k.setBank b x).shares = k.shares := rfl
@[simp] theorem Core.groups_setBank (b : Nat) (x : Bank) : (k.setBank b x).groups = k.groups := rfl
@[simp] theorem Core.banks_setBank (b : Nat) (x : Bank) : (k.setBank b x).banks = k.banks.set b x := rfl
@[simp] theorem Core.codex_setBank (b : Nat) (x : Bank) : (k.setBank b x).codex = k.codex := rfl
@[simp] theorem Core.heatReg_setBank (b : Nat) (x : Bank) : (k.setBank b x).heatReg = k.heatReg := rfl
@[simp] theorem Core.bindSel_setBank (b : Nat) (x : Bank) : (k.setBank b x).bindSel = k.bindSel := rfl
@[simp] theorem Core.heat_setBank (b : Nat) (x : Bank) : (k.setBank b x).heat = k.heat := rfl
@[simp] theorem Core.building_setBank (b : Nat) (x : Bank) : (k.setBank b x).building = k.building := rfl
@[simp] theorem Core.folios_setBank (b : Nat) (x : Bank) : (k.setBank b x).folios = k.folios := rfl
@[simp] theorem Core.resident_setBank (b : Nat) (x : Bank) : (k.setBank b x).resident = k.resident := rfl
@[simp] theorem Core.bar_setBank (b : Nat) (x : Bank) : (k.setBank b x).bar = k.bar := rfl
@[simp] theorem Core.yielded_setBank (b : Nat) (x : Bank) : (k.setBank b x).yielded = k.yielded := rfl
@[simp] theorem Core.cmds_setBank (b : Nat) (x : Bank) : (k.setBank b x).cmds = k.cmds := rfl
@[simp] theorem Core.accepted_setBank (b : Nat) (x : Bank) : (k.setBank b x).accepted = k.accepted := rfl
@[simp] theorem Core.racva_setBank (b : Nat) (x : Bank) : (k.setBank b x).racva = k.racva := rfl
@[simp] theorem Core.l1_setBank (b : Nat) (x : Bank) : (k.setBank b x).l1 = k.l1 := rfl
@[simp] theorem Core.icache_setBank (b : Nat) (x : Bank) : (k.setBank b x).icache = k.icache := rfl
@[simp] theorem Core.tlb_setBank (b : Nat) (x : Bank) : (k.setBank b x).tlb = k.tlb := rfl
@[simp] theorem Core.reserved_setBank (b : Nat) (x : Bank) : (k.setBank b x).reserved = k.reserved := rfl
@[simp] theorem Core.restoreFor_setBank (b : Nat) (x : Bank) : (k.setBank b x).restoreFor = k.restoreFor := rfl

end

-- ## Updates of a thread and of a quire

section
variable (t : Thread)

@[simp] theorem Thread.pc_setReg (r : Nat) (x : Word) : (t.setReg r x).pc = t.pc := rfl
@[simp] theorem Thread.repc_setReg (r : Nat) (x : Word) : (t.setReg r x).repc = t.repc := rfl
@[simp] theorem Thread.fpc_setReg (r : Nat) (x : Word) : (t.setReg r x).fpc = t.fpc := rfl
@[simp] theorem Thread.cause_setReg (r : Nat) (x : Word) : (t.setReg r x).cause = t.cause := rfl
@[simp] theorem Thread.handler_setReg (r : Nat) (x : Word) : (t.setReg r x).handler = t.handler := rfl
@[simp] theorem Thread.v_setReg (r : Nat) (x : Word) : (t.setReg r x).v = t.v.set r x := rfl
@[simp] theorem Thread.p_setReg (r : Nat) (x : Word) : (t.setReg r x).p = t.p := rfl
@[simp] theorem Thread.fpsr_setReg (r : Nat) (x : Word) : (t.setReg r x).fpsr = t.fpsr := rfl
@[simp] theorem Thread.lfsr_setReg (r : Nat) (x : Word) : (t.setReg r x).lfsr = t.lfsr := rfl
@[simp] theorem Thread.starve_setReg (r : Nat) (x : Word) : (t.setReg r x).starve = t.starve := rfl
@[simp] theorem Thread.exited_setReg (r : Nat) (x : Word) : (t.setReg r x).exited = t.exited := rfl
@[simp] theorem Thread.wait_setReg (r : Nat) (x : Word) : (t.setReg r x).wait = t.wait := rfl
@[simp] theorem Thread.pends_setReg (r : Nat) (x : Word) : (t.setReg r x).pends = t.pends := rfl
@[simp] theorem Thread.outst_setReg (r : Nat) (x : Word) : (t.setReg r x).outst = t.outst := rfl
@[simp] theorem Thread.issued_setReg (r : Nat) (x : Word) : (t.setReg r x).issued = t.issued := rfl
@[simp] theorem Thread.badV_setReg (r : Nat) (x : Word) : (t.setReg r x).badV = t.badV := rfl
@[simp] theorem Thread.pc_raise (fl : Word) : (t.raise fl).pc = t.pc := rfl
@[simp] theorem Thread.repc_raise (fl : Word) : (t.raise fl).repc = t.repc := rfl
@[simp] theorem Thread.fpc_raise (fl : Word) : (t.raise fl).fpc = t.fpc := rfl
@[simp] theorem Thread.cause_raise (fl : Word) : (t.raise fl).cause = t.cause := rfl
@[simp] theorem Thread.handler_raise (fl : Word) : (t.raise fl).handler = t.handler := rfl
@[simp] theorem Thread.v_raise (fl : Word) : (t.raise fl).v = t.v := rfl
@[simp] theorem Thread.p_raise (fl : Word) : (t.raise fl).p = t.p := rfl
@[simp] theorem Thread.fpsr_raise (fl : Word) : (t.raise fl).fpsr = t.fpsr ||| fl := rfl
@[simp] theorem Thread.lfsr_raise (fl : Word) : (t.raise fl).lfsr = t.lfsr := rfl
@[simp] theorem Thread.starve_raise (fl : Word) : (t.raise fl).starve = t.starve := rfl
@[simp] theorem Thread.exited_raise (fl : Word) : (t.raise fl).exited = t.exited := rfl
@[simp] theorem Thread.wait_raise (fl : Word) : (t.raise fl).wait = t.wait := rfl
@[simp] theorem Thread.pends_raise (fl : Word) : (t.raise fl).pends = t.pends := rfl
@[simp] theorem Thread.outst_raise (fl : Word) : (t.raise fl).outst = t.outst := rfl
@[simp] theorem Thread.issued_raise (fl : Word) : (t.raise fl).issued = t.issued := rfl
@[simp] theorem Thread.badV_raise (fl : Word) : (t.raise fl).badV = t.badV := rfl
@[simp] theorem Thread.pc_setPred (k : Nat) (b : Bool) : (t.setPred k b).pc = t.pc := by
  unfold Thread.setPred; split <;> rfl
@[simp] theorem Thread.repc_setPred (k : Nat) (b : Bool) : (t.setPred k b).repc = t.repc := by
  unfold Thread.setPred; split <;> rfl
@[simp] theorem Thread.fpc_setPred (k : Nat) (b : Bool) : (t.setPred k b).fpc = t.fpc := by
  unfold Thread.setPred; split <;> rfl
@[simp] theorem Thread.cause_setPred (k : Nat) (b : Bool) : (t.setPred k b).cause = t.cause := by
  unfold Thread.setPred; split <;> rfl
@[simp] theorem Thread.handler_setPred (k : Nat) (b : Bool) : (t.setPred k b).handler = t.handler := by
  unfold Thread.setPred; split <;> rfl
@[simp] theorem Thread.v_setPred (k : Nat) (b : Bool) : (t.setPred k b).v = t.v := by
  unfold Thread.setPred; split <;> rfl
@[simp] theorem Thread.fpsr_setPred (k : Nat) (b : Bool) : (t.setPred k b).fpsr = t.fpsr := by
  unfold Thread.setPred; split <;> rfl
@[simp] theorem Thread.lfsr_setPred (k : Nat) (b : Bool) : (t.setPred k b).lfsr = t.lfsr := by
  unfold Thread.setPred; split <;> rfl
@[simp] theorem Thread.starve_setPred (k : Nat) (b : Bool) : (t.setPred k b).starve = t.starve := by
  unfold Thread.setPred; split <;> rfl
@[simp] theorem Thread.exited_setPred (k : Nat) (b : Bool) : (t.setPred k b).exited = t.exited := by
  unfold Thread.setPred; split <;> rfl
@[simp] theorem Thread.wait_setPred (k : Nat) (b : Bool) : (t.setPred k b).wait = t.wait := by
  unfold Thread.setPred; split <;> rfl
@[simp] theorem Thread.pends_setPred (k : Nat) (b : Bool) : (t.setPred k b).pends = t.pends := by
  unfold Thread.setPred; split <;> rfl
@[simp] theorem Thread.outst_setPred (k : Nat) (b : Bool) : (t.setPred k b).outst = t.outst := by
  unfold Thread.setPred; split <;> rfl
@[simp] theorem Thread.issued_setPred (k : Nat) (b : Bool) : (t.setPred k b).issued = t.issued := by
  unfold Thread.setPred; split <;> rfl
@[simp] theorem Thread.badV_setPred (k : Nat) (b : Bool) : (t.setPred k b).badV = t.badV := by
  unfold Thread.setPred; split <;> rfl

end

section
variable (q : Quire)

@[simp] theorem Quire.live_setTh (i : Nat) (t : Thread) : (q.setTh i t).live = q.live := rfl
@[simp] theorem Quire.lk_setTh (i : Nat) (t : Thread) : (q.setTh i t).lk = q.lk := rfl
@[simp] theorem Quire.qid_setTh (i : Nat) (t : Thread) : (q.setTh i t).qid = q.qid := rfl
@[simp] theorem Quire.gid_setTh (i : Nat) (t : Thread) : (q.setTh i t).gid = q.gid := rfl
@[simp] theorem Quire.grp_setTh (i : Nat) (t : Thread) : (q.setTh i t).grp = q.grp := rfl
@[simp] theorem Quire.share_setTh (i : Nat) (t : Thread) : (q.setTh i t).share = q.share := rfl
@[simp] theorem Quire.blocks_setTh (i : Nat) (t : Thread) : (q.setTh i t).blocks = q.blocks := rfl
@[simp] theorem Quire.threads_setTh (i : Nat) (t : Thread) : (q.setTh i t).threads = q.threads.set i t := rfl
@[simp] theorem Quire.sr_setTh (i : Nat) (t : Thread) : (q.setTh i t).sr = q.sr := rfl
@[simp] theorem Quire.pend_setTh (i : Nat) (t : Thread) : (q.setTh i t).pend = q.pend := rfl
@[simp] theorem Quire.atD_setTh (i : Nat) (t : Thread) : (q.setTh i t).atD = q.atD := rfl
@[simp] theorem Quire.atP_setTh (i : Nat) (t : Thread) : (q.setTh i t).atP = q.atP := rfl
@[simp] theorem Quire.timer_setTh (i : Nat) (t : Thread) : (q.setTh i t).timer = q.timer := rfl
@[simp] theorem Quire.groups_setTh (i : Nat) (t : Thread) : (q.setTh i t).groups = q.groups := rfl
@[simp] theorem Quire.waits_setTh (i : Nat) (t : Thread) : (q.setTh i t).waits = q.waits := rfl
@[simp] theorem Quire.active_setTh (i : Nat) (t : Thread) : (q.setTh i t).active = q.active := rfl
@[simp] theorem Quire.entered_setTh (i : Nat) (t : Thread) : (q.setTh i t).entered = q.entered := rfl
@[simp] theorem Quire.stamp_setTh (i : Nat) (t : Thread) : (q.setTh i t).stamp = q.stamp := rfl
@[simp] theorem Quire.ready_setTh (i : Nat) (t : Thread) : (q.setTh i t).ready = q.ready := rfl
@[simp] theorem Quire.stall_setTh (i : Nat) (t : Thread) : (q.setTh i t).stall = q.stall := rfl
@[simp] theorem Quire.waitFor_setTh (i : Nat) (t : Thread) : (q.setTh i t).waitFor = q.waitFor := rfl
@[simp] theorem Quire.waitAt_setTh (i : Nat) (t : Thread) : (q.setTh i t).waitAt = q.waitAt := rfl
@[simp] theorem Quire.stopped_setTh (i : Nat) (t : Thread) : (q.setTh i t).stopped = q.stopped := rfl
@[simp] theorem Quire.restoring_setTh (i : Nat) (t : Thread) : (q.setTh i t).restoring = q.restoring := rfl
@[simp] theorem Quire.arriving_setTh (i : Nat) (t : Thread) : (q.setTh i t).arriving = q.arriving := rfl
@[simp] theorem Quire.live_setS (r : Nat) (x : Dword) : (q.setS r x).live = q.live := by
  unfold Quire.setS; split <;> rfl
@[simp] theorem Quire.lk_setS (r : Nat) (x : Dword) : (q.setS r x).lk = q.lk := by
  unfold Quire.setS; split <;> rfl
@[simp] theorem Quire.qid_setS (r : Nat) (x : Dword) : (q.setS r x).qid = q.qid := by
  unfold Quire.setS; split <;> rfl
@[simp] theorem Quire.gid_setS (r : Nat) (x : Dword) : (q.setS r x).gid = q.gid := by
  unfold Quire.setS; split <;> rfl
@[simp] theorem Quire.grp_setS (r : Nat) (x : Dword) : (q.setS r x).grp = q.grp := by
  unfold Quire.setS; split <;> rfl
@[simp] theorem Quire.share_setS (r : Nat) (x : Dword) : (q.setS r x).share = q.share := by
  unfold Quire.setS; split <;> rfl
@[simp] theorem Quire.blocks_setS (r : Nat) (x : Dword) : (q.setS r x).blocks = q.blocks := by
  unfold Quire.setS; split <;> rfl
@[simp] theorem Quire.threads_setS (r : Nat) (x : Dword) : (q.setS r x).threads = q.threads := by
  unfold Quire.setS; split <;> rfl
@[simp] theorem Quire.pend_setS (r : Nat) (x : Dword) : (q.setS r x).pend = q.pend := by
  unfold Quire.setS; split <;> rfl
@[simp] theorem Quire.atD_setS (r : Nat) (x : Dword) : (q.setS r x).atD = q.atD := by
  unfold Quire.setS; split <;> rfl
@[simp] theorem Quire.atP_setS (r : Nat) (x : Dword) : (q.setS r x).atP = q.atP := by
  unfold Quire.setS; split <;> rfl
@[simp] theorem Quire.timer_setS (r : Nat) (x : Dword) : (q.setS r x).timer = q.timer := by
  unfold Quire.setS; split <;> rfl
@[simp] theorem Quire.groups_setS (r : Nat) (x : Dword) : (q.setS r x).groups = q.groups := by
  unfold Quire.setS; split <;> rfl
@[simp] theorem Quire.waits_setS (r : Nat) (x : Dword) : (q.setS r x).waits = q.waits := by
  unfold Quire.setS; split <;> rfl
@[simp] theorem Quire.active_setS (r : Nat) (x : Dword) : (q.setS r x).active = q.active := by
  unfold Quire.setS; split <;> rfl
@[simp] theorem Quire.entered_setS (r : Nat) (x : Dword) : (q.setS r x).entered = q.entered := by
  unfold Quire.setS; split <;> rfl
@[simp] theorem Quire.stamp_setS (r : Nat) (x : Dword) : (q.setS r x).stamp = q.stamp := by
  unfold Quire.setS; split <;> rfl
@[simp] theorem Quire.ready_setS (r : Nat) (x : Dword) : (q.setS r x).ready = q.ready := by
  unfold Quire.setS; split <;> rfl
@[simp] theorem Quire.stall_setS (r : Nat) (x : Dword) : (q.setS r x).stall = q.stall := by
  unfold Quire.setS; split <;> rfl
@[simp] theorem Quire.waitFor_setS (r : Nat) (x : Dword) : (q.setS r x).waitFor = q.waitFor := by
  unfold Quire.setS; split <;> rfl
@[simp] theorem Quire.waitAt_setS (r : Nat) (x : Dword) : (q.setS r x).waitAt = q.waitAt := by
  unfold Quire.setS; split <;> rfl
@[simp] theorem Quire.stopped_setS (r : Nat) (x : Dword) : (q.setS r x).stopped = q.stopped := by
  unfold Quire.setS; split <;> rfl
@[simp] theorem Quire.restoring_setS (r : Nat) (x : Dword) : (q.setS r x).restoring = q.restoring := by
  unfold Quire.setS; split <;> rfl
@[simp] theorem Quire.arriving_setS (r : Nat) (x : Dword) : (q.setS r x).arriving = q.arriving := by
  unfold Quire.setS; split <;> rfl

end

-- ## A read of what was written, and of what was not

@[simp] theorem State.core_setCore (s : State) (i j : Nat) (x : Core) :
    (s.setCore i x).core j = if j = i then x else s.core j := by
  simp only [State.core, State.setCore, Tab.get_set]

@[simp] theorem State.die_setDie (s : State) (i j : Nat) (x : Die) :
    (s.setDie i x).die j = if j = i then x else s.die j := by
  simp only [State.die, State.setDie, Tab.get_set]

@[simp] theorem State.launch_setLaunch (s : State) (i j : Nat) (x : Launch) :
    (s.setLaunch i x).launch j = if j = i then x else s.launch j := by
  simp only [State.launch, State.setLaunch, Tab.get_set]

@[simp] theorem State.ctx_setCtx (s : State) (i j : Nat) (x : Ctx) :
    (s.setCtx i x).ctx j = if j = i then x else s.ctx j := by
  simp only [State.ctx, State.setCtx, Tab.get_set]

@[simp] theorem State.queue_setQueue (s : State) (i j : Nat) (x : Queue) :
    (s.setQueue i x).queue j = if j = i then x else s.queue j := by
  simp only [State.queue, State.setQueue, Tab.get_set]

@[simp] theorem State.link_setLink (s : State) (i j : Nat) (x : Link) :
    (s.setLink i x).link j = if j = i then x else s.link j := by
  simp only [State.link, State.setLink, Tab.get_set]

@[simp] theorem State.req_setReq (s : State) (i j : Nat) (x : Req) :
    (s.setReq i x).req j = if j = i then x else s.req j := by
  simp only [State.req, State.setReq, Tab.get_set]

@[simp] theorem Core.quire_setQuire (k : Core) (i j : Nat) (q : Quire) :
    (k.setQuire i q).quire j = if j = i then q else k.quire j := by
  simp only [Core.quire, Core.setQuire, Tab.get_set]

@[simp] theorem Core.bank_setBank (k : Core) (i j : Nat) (x : Bank) :
    (k.setBank i x).bank j = if j = i then x else k.bank j := by
  simp only [Core.bank, Core.setBank, Tab.get_set]

@[simp] theorem Core.quire_setBank (k : Core) (i j : Nat) (x : Bank) : (k.setBank i x).quire j = k.quire j := rfl
@[simp] theorem Core.bank_setQuire (k : Core) (i j : Nat) (q : Quire) : (k.setQuire i q).bank j = k.bank j := rfl

theorem State.core_setQuire (s : State) (c j d : Nat) (q : Quire) :
    (s.setQuire c j q).core d = if d = c then (s.core c).setQuire j q else s.core d := by
  simp only [State.setQuire, State.core_setCore]

theorem State.core_setBank (s : State) (c b d : Nat) (x : Bank) :
    (s.setBank c b x).core d = if d = c then (s.core c).setBank b x else s.core d := by
  simp only [State.setBank, State.core_setCore]

theorem State.quire_setQuire (s : State) (c j d i : Nat) (q : Quire) :
    (s.setQuire c j q).quire d i = if d = c ∧ i = j then q else s.quire d i := by
  simp only [State.quire, State.setQuire, State.core_setCore]
  by_cases h : d = c
  · subst h; simp
  · simp [h]

theorem State.bank_setBank (s : State) (c b d i : Nat) (x : Bank) :
    (s.setBank c b x).bank d i = if d = c ∧ i = b then x else s.bank d i := by
  simp only [State.bank, State.setBank, State.core_setCore]
  by_cases h : d = c
  · subst h; simp
  · simp [h]

@[simp] theorem State.quire_setBank (s : State) (c b d i : Nat) (x : Bank) :
    (s.setBank c b x).quire d i = s.quire d i := by
  simp only [State.quire, State.core_setBank]
  by_cases h : d = c
  · subst h; simp
  · simp [h]

@[simp] theorem State.bank_setQuire (s : State) (c j d i : Nat) (q : Quire) :
    (s.setQuire c j q).bank d i = s.bank d i := by
  simp only [State.bank, State.core_setQuire]
  by_cases h : d = c
  · subst h; simp
  · simp [h]

@[simp] theorem Quire.th_setTh (q : Quire) (i n : Nat) (t : Thread) :
    (q.setTh i t).th n = if n = i then t else q.th n := by
  simp only [Quire.th, Quire.setTh, Tab.get_set]

-- ## Operations that change few fields

@[simp] theorem State.spend_core (s : State) (c n d : Nat) : (s.spend c n).core d = s.core d := by
  rfl

/-- Time passes, and nothing else. -/
theorem State.spend_rest (s : State) (c n : Nat) :
    s.spend c n = { s with now := (s.spend c n).now, frac := (s.spend c n).frac } := by
  rfl

/-- A step made due once changes the agenda alone. -/
theorem State.dueOnce_rest (s : State) (n : Nat) (h : Here) (i : Instr) :
    s.dueOnce n h i = { s with agenda := (s.dueOnce n h i).agenda } := by
  unfold State.dueOnce; split <;> rfl

/-- A step that is already due is not made due again. -/
theorem State.dueOnce_agenda (s : State) (n : Nat) (h : Here) (i : Instr) :
    (s.dueOnce n h i).agenda
      = if s.agenda.any (fun d => d.here = h && d.what = i) then s.agenda
        else insertDue { tick := s.now + n, here := h, what := i } s.agenda := by
  unfold State.dueOnce; split <;> rfl

/-- A fatal fault waits for X-die 0, and LAUNCH_FATAL is due at once (R148). -/
theorem State.raiseFatal_spec (s : State) (lk : Nat) (r : FaultRec) :
    s.raiseFatal lk r
      = { s with fatal := s.fatal ++ [(lk, r)],
                 agenda := insertDue { tick := s.now, here := { unit := lk }, what := .launchFatal } s.agenda } := rfl

/-- A late fault waits for X-die 0 as fatal with DELIV 3, and LATE_FAULT is due at once (R147). -/
theorem State.raiseLate_spec (s : State) (lk : Nat) (r : FaultRec) :
    s.raiseLate lk r
      = { s with fatal := s.fatal ++ [(lk, { r with deliv := 3, isFatal := true })],
                 agenda := insertDue { tick := s.now, here := { unit := lk }, what := .lateFault } s.agenda } := rfl

/-- Lanes that stop leave the run of their core, and nothing else changes. -/
theorem State.stopLanes_rest (s : State) (c j : Nat) (m : Lanes) :
    s.stopLanes c j m = { s with cores := (s.stopLanes c j m).cores } := by
  unfold State.stopLanes
  dsimp only
  split
  · split <;> rfl
  · rfl

/-- An access that its home counts changes what the home holds of it: the counts, the lines of the slice and its eviction
marks (R71, R190). -/
theorem State.countRac_rest (s : State) (n a : Nat) :
    s.countRac n a
      = { s with rac := (s.countRac n a).rac, slices := (s.countRac n a).slices, marks := (s.countRac n a).marks } := by
  unfold State.countRac
  split
  · unfold State.touchSlice
    dsimp only
    split <;> rfl
  · rfl

/-- What a write to a fault ring may change: memory, the context's counts, what the host is told, and what the home of the ring
holds of it (R151). -/
theorem State.putRecord_changes (s : State) (n : Nat) (r : FaultRec) :
    ∃ m x o p c sl mk, s.putRecord n r
      = { s with mem := m, ctxs := x, outbox := o, pba := p, rac := c, slices := sl, marks := mk } := by
  have count (s : State) (a : Nat) : ∃ c sl mk, s.countRac 24 a = { s with rac := c, slices := sl, marks := mk } :=
    ⟨_, _, _, s.countRac_rest 24 a⟩
  unfold State.putRecord
  dsimp only
  split
  · exact ⟨_, _, _, _, _, _, _, rfl⟩
  · split
    · obtain ⟨c, sl, mk, h⟩ := count s ((s.ctx n).ringSlot (s.ctx n).frTail.toNat)
      rw [h]; exact ⟨_, _, _, _, _, _, _, rfl⟩
    · generalize (s.ctx n).ringSlot (s.ctx n).frTail.toNat = a
      generalize (s.ctx n).ringSlot ((s.ctx n).frTail.toNat + 2 ^ (s.ctx n).frLog2.toNat - 1) = b
      obtain ⟨c, sl, mk, h⟩ := count s a
      rw [h]
      obtain ⟨c, sl, mk, h⟩ := count { s with rac := c, slices := sl, marks := mk } b
      rw [h]
      obtain ⟨c, sl, mk, h⟩ := count { s with rac := c, slices := sl, marks := mk } a
      rw [h]
      obtain ⟨c, sl, mk, h⟩ := count { s with rac := c, slices := sl, marks := mk } a
      rw [h]
      generalize FaultRec.toBytes r = bs
      split
      · rw [State.tell_rest]; exact ⟨_, _, _, _, _, _, _, rfl⟩
      · exact ⟨_, _, _, _, _, _, _, rfl⟩

/-- The record of a fault goes to the ring in memory, is counted lost, or waits for its slot's line. -/
theorem State.writeRecord_changes (s : State) (n : Nat) (r : FaultRec) :
    ∃ m x o p c sl mk w g, s.writeRecord n r
      = { s with mem := m, ctxs := x, outbox := o, pba := p, rac := c, slices := sl, marks := mk, records := w, agenda := g } := by
  unfold State.writeRecord
  split
  · rw [State.dueOnce_rest]; exact ⟨_, _, _, _, _, _, _, _, _, rfl⟩
  · obtain ⟨m, x, o, p, c, sl, mk, h⟩ := s.putRecord_changes n r
    rw [h]; exact ⟨_, _, _, _, _, _, _, _, _, rfl⟩

/-- Lanes entering their handlers change their core alone. -/
theorem State.enterAll_rest (s : State) (c j : Nat) (m : Lanes) (p : Pend) :
    s.enterAll c j m p = { s with cores := (s.enterAll c j m p).cores } := rfl

/-- Threads that leave an iteration change their core alone (R269). -/
theorem State.leaveIteration_rest (s : State) (c j : Nat) (m : Lanes) :
    s.leaveIteration c j m = { s with cores := (s.leaveIteration c j m).cores } := by
  unfold State.leaveIteration
  generalize s.inIteration c j m = l
  induction l generalizing s with
  | nil => rfl
  | cons e l ih => rw [List.foldl_cons, ih]; rfl

/-- Where taking a fault may change the state: the cores; the fault on its way to X-die 0 and the step it makes due,
when it is fatal; the ring, its home's counts and what the host is told, or the record that waits for its slot's line, when it
is an ECC fault with a handler (R143, R145, R151). -/
theorem State.takeFault_rest (s : State) (c j : Nat) (lanes : Lanes) (p : Pend) (a d : Nat) :
    let t := s.takeFault c j lanes p a d
    t = { s with cores := t.cores, fatal := t.fatal, agenda := t.agenda, mem := t.mem, ctxs := t.ctxs,
                 outbox := t.outbox, pba := t.pba, rac := t.rac, slices := t.slices, marks := t.marks, records := t.records } := by
  have h : ∃ cs f g m x o p' c' sl mk w, s.takeFault c j lanes p a d
      = { s with cores := cs, fatal := f, agenda := g, mem := m, ctxs := x, outbox := o, pba := p', rac := c', slices := sl,
                 marks := mk, records := w } := by
    unfold State.takeFault
    dsimp only
    rw [State.leaveIteration_rest]
    generalize (if !(s.inIteration c j lanes).isEmpty && !p.cause.isFatal then ({ p with deliv := 1 } : Pend) else p) = p'
    generalize (s.leaveIteration c j lanes).cores = cs
    split
    · rw [State.stopLanes_rest]; exact ⟨_, _, _, _, _, _, _, _, _, _, _, rfl⟩
    · unfold State.recordEcc
      split
      · generalize State.quireRec _ c j p' a d false = r
        generalize (State.launch _ _).ctx = n
        rw [State.stopLanes_rest, State.enterAll_rest]
        obtain ⟨m, x, o, p, c, sl, mk, w, g, h⟩ := State.writeRecord_changes
          { ({ s with cores := cs } : State) with cores := (State.enterAll { ({ s with cores := cs } : State) with
              cores := (State.stopLanes ({ s with cores := cs } : State) c j lanes).cores } c j lanes p').cores } n r
        exact ⟨_, _, _, _, _, _, _, _, _, _, _, h⟩
      · rw [State.stopLanes_rest]; exact ⟨_, _, _, _, _, _, _, _, _, _, _, rfl⟩
  obtain ⟨cs, f, g, m, x, o, p', c', sl, mk, w, h⟩ := h
  simp only [h]

end Sys2Proof.Machine
end

