-- ==== Sys2Proof/Laws/Frames.lean ====
section
/-! SUPPORT. What the shared operations leave alone, and that those that write memory keep its canonical form. -/

namespace Sys2Proof.Machine

/-- The invariant is of memory alone. -/
theorem State.Inv.of_mem {s t : State} (hs : s.Inv) (h : t.mem = s.mem) : t.Inv := by
  unfold State.Inv at *; rw [h]; exact hs

-- ## Walks and heat

/-- A state that differs in what homes count alone: the counters, the lines of their slices and the eviction marks (R71,
R190). -/
def State.Counts (s t : State) : Prop := ∃ r a b, t = { s with rac := r, slices := a, marks := b }

theorem State.Counts.refl (s : State) : s.Counts s := ⟨s.rac, s.slices, s.marks, rfl⟩

theorem State.Counts.trans {s t u : State} (h : s.Counts t) (k : t.Counts u) : s.Counts u := by
  obtain ⟨r, a, b, rfl⟩ := h
  obtain ⟨r', a', b', rfl⟩ := k
  exact ⟨r', a', b', rfl⟩

theorem State.Counts.mem {s t : State} (h : s.Counts t) : t.mem = s.mem := by
  obtain ⟨r, a, b, rfl⟩ := h; rfl

/-- A counted access changes the counters alone. -/
theorem State.countRac_counts (s : State) (src pa : Nat) : s.Counts (s.countRac src pa) :=
  ⟨_, _, _, s.countRac_rest src pa⟩

/-- A walk changes the counters alone. -/
theorem State.walkFrom_counts (s : State) (src va n base : Nat) : s.Counts (s.walkFrom src va n base).2 := by
  induction n generalizing s base with
  | zero => exact .refl s
  | succ l ih =>
    have hc := s.countRac_counts src (base + 8 * bitsOf va (levelShift (l + 1)) (levelBits (l + 1)))
    rw [State.walkFrom]
    dsimp only
    generalize s.countRac src (base + 8 * bitsOf va (levelShift (l + 1)) (levelBits (l + 1))) = u at *
    repeat' split
    all_goals first
      | exact .refl s
      | exact hc
      | exact hc.trans (ih u _)

/-- A walk of a context's tables changes the counters alone. -/
theorem State.walk_counts (s : State) (src n va : Nat) : s.Counts (s.walk src n va).2 := by
  unfold State.walk; split
  · exact .refl s
  · exact s.walkFrom_counts _ _ _ _

/-- A state that differs in what homes count and in memory, which keeps its form. -/
def State.Raises (s t : State) : Prop :=
  ∃ u m, s.Counts u ∧ t = { u with mem := m } ∧ (s.Inv → Memory.wf m = true)

theorem State.Counts.raises {s t : State} (h : s.Counts t) : s.Raises t := ⟨t, s.mem, h, by rw [← h.mem], fun h => h⟩

/-- A raise of a leaf's heat writes the counters and the leaf in memory (R67). -/
theorem State.raiseHeat_raises (s : State) (src pa : Nat) (w : Bool) : s.Raises (s.raiseHeat src pa w) := by
  have hc := s.countRac_counts src pa
  unfold State.raiseHeat
  dsimp only
  split
  · exact ⟨_, _, hc, rfl, fun h => memPuts_wf _ _ (by rw [hc.mem]; exact h)⟩
  · exact hc.raises

/-- An access of the device's own logic walks, and raises the heat of the leaf it finds. -/
theorem State.logicPa_raises (s : State) (n va : Nat) (k : AccessKind) : s.Raises (s.logicPa n va k).2 := by
  unfold State.logicPa
  have hw := s.walk_counts 24 n va
  generalize s.walk 24 n va = w at *
  obtain ⟨res, t⟩ := w
  split
  · rename_i e
    obtain ⟨-, rfl⟩ := Prod.mk.inj e
    obtain ⟨u, m, hu, h, hm⟩ := State.raiseHeat_raises t 24 ‹Nat› (k != .load)
    dsimp only
    have hr : s.Raises (t.raiseHeat 24 ‹Nat› (k != .load)) :=
      ⟨u, m, hw.trans hu, h, fun hi => hm (hi.of_mem hw.mem)⟩
    split <;> exact hr
  all_goals
    rename_i e
    obtain ⟨-, rfl⟩ := Prod.mk.inj e
    exact hw.raises

-- ## Faults

/-- The write of a fault record keeps the invariant (R151). -/
theorem State.putRecord_inv {s : State} (n : Nat) (r : FaultRec) (h : s.Inv) : (s.putRecord n r).Inv := by
  have count {s : State} (h : s.Inv) (a : Nat) : (s.countRac 24 a).Inv := h.of_mem (s.countRac_counts 24 a).mem
  unfold State.putRecord
  dsimp only
  split
  · exact h
  · split
    · exact count h _
    · generalize FaultRec.toBytes r = bs
      have hb : ∀ a b c d e, (((((s.countRac 24 a).countRac 24 b).countRac 24 c).countRac 24 d).setBytes e bs).Inv :=
        fun a b c d e => State.setBytes_inv e bs (count (count (count (count h a) b) c) d)
      split
      · exact (hb _ _ _ _ _).of_mem (by rw [State.mem_tell, State.mem_setCtx])
      · exact hb _ _ _ _ _

/-- The record of a fault keeps the invariant (R151). -/
theorem State.writeRecord_inv {s : State} (n : Nat) (r : FaultRec) (h : s.Inv) : (s.writeRecord n r).Inv := by
  unfold State.writeRecord
  split
  · exact h.of_mem (by rw [State.dueOnce_rest])
  · exact State.putRecord_inv n r h

/-- Taking a fault keeps the invariant. -/
theorem State.takeFault_inv {s : State} (c j : Nat) (lanes : Lanes) (p : Pend) (a d : Nat) (h : s.Inv) :
    (s.takeFault c j lanes p a d).Inv := by
  unfold State.takeFault
  dsimp only
  have h1 : (s.leaveIteration c j lanes).Inv := h.of_mem (by rw [State.leaveIteration_rest])
  have h2 : ((s.leaveIteration c j lanes).stopLanes c j lanes).Inv := h1.of_mem (by rw [State.stopLanes_rest])
  generalize (if !(s.inIteration c j lanes).isEmpty && !p.cause.isFatal then ({ p with deliv := 1 } : Pend) else p) = p'
  generalize (s.leaveIteration c j lanes).stopLanes c j lanes = u at *
  split
  · exact h2.of_mem rfl
  · unfold State.recordEcc
    split
    · exact State.writeRecord_inv _ _ (h2.of_mem rfl)
    · exact h2.of_mem rfl

-- ## The issue of a word

/-- The end of a word's bookkeeping changes the cores and the time alone. -/
theorem closeWord_rest (s : State) (x : Ictx) (i : Option Instr) (e did : Bool) :
    ∃ cs n f, closeWord s x i e did = { s with cores := cs, now := n, frac := f } := by
  unfold closeWord
  dsimp only
  split
  · exact ⟨s.cores, s.now, s.frac, rfl⟩
  · generalize hn : s.spend x.core _ = u
    obtain ⟨a, b, rfl⟩ : ∃ a b, u = { s with now := a, frac := b } := by
      rw [← hn]; exact ⟨_, _, State.spend_rest _ _ _⟩
    split
    · exact ⟨_, a, b, rfl⟩
    · split <;> exact ⟨_, a, b, rfl⟩

theorem closeWord_inv {s : State} (x : Ictx) (i : Option Instr) (e did : Bool) (h : s.Inv) : (closeWord s x i e did).Inv := by
  obtain ⟨cs, n, f, hc⟩ := closeWord_rest s x i e did
  rw [hc]; exact h

theorem trapWord_inv {x : Ictx} (i : Option Instr) (c : Cause) (m : Lanes) (a d : Nat) (h : x.s.Inv) :
    (trapWord x i c m a d).Inv := closeWord_inv _ _ _ _ (State.takeFault_inv _ _ _ _ _ _ h)

theorem pastWord_inv {s : State} (x : Ictx) (i : Instr) (h : Head) (hs : s.Inv) : (pastWord x i h s).Inv := by
  unfold pastWord; split <;> exact closeWord_inv _ _ _ _ hs

theorem jumpWord_inv {s : State} (x : Ictx) (i : Instr) (hs : s.Inv) : (jumpWord x i s).Inv := by
  unfold jumpWord; split <;> exact closeWord_inv _ _ _ _ hs

/-- Every state that an effect names keeps the invariant. -/
def Eff.Inv : Eff → Prop
  | .ok s => s.Inv
  | .jump s => s.Inv
  | .trap _ _ _ _ => True
  | .ecc s _ _ => s.Inv
  | .again => True

theorem afterEff_inv {x : Ictx} (i : Instr) (h : Head) {e : Eff} (hx : x.s.Inv) (he : e.Inv) : (afterEff x i h e).Inv := by
  cases e with
  | ok s => exact pastWord_inv x i h he
  | jump s => exact jumpWord_inv x i he
  | trap c m a d => exact trapWord_inv _ _ _ _ _ hx
  | ecc s m d => exact trapWord_inv (x := { x with s := s }) _ _ _ _ _ he
  | again => exact closeWord_inv _ _ _ _ hx

theorem stallPort_inv {s : State} (c : Nat) (h : s.Inv) : (stallPort s c).Inv := by
  unfold stallPort; split <;> exact h

theorem State.spend_inv {s : State} (c n : Nat) (h : s.Inv) : (s.spend c n).Inv := by
  rw [State.spend_rest]; exact h

theorem passTurn_inv {s : State} (c : Nat) (h : s.Inv) : (passTurn s c).Inv := by
  have h1 := State.spend_inv c 1 h
  unfold passTurn
  dsimp only
  repeat' split
  all_goals first
    | exact h
    | exact h1

theorem slipTurn_inv {s : State} (c : Nat) (h : s.Inv) : (slipTurn s c).Inv := by
  unfold slipTurn; split
  · exact State.spend_inv c 1 h
  · exact h

theorem enterRegion_inv {x : Ictx} (h : Head) (hx : x.s.Inv) : (enterRegion x h).s.Inv := by
  unfold enterRegion; split <;> exact hx

/-- The issue of a word keeps the invariant when its effect does. -/
theorem issue_inv {i : Instr} {h : Head} {s t : State} {eff : Ictx → Eff} (hs : s.Inv)
    (he : ∀ x : Ictx, x.s.Inv → (eff x).Inv) (ht : issue i h s eff = .next t) : t.Inv := by
  unfold issue at ht
  split at ht
  · cases ht; exact hs
  · rename_i x hx
    have hxs : x.s = s := by
      unfold State.issuing at hx
      dsimp only at hx
      split at hx
      · exact absurd hx (by simp)
      · simp only [Option.some.injEq] at hx; subst hx; rfl
    have h0 : x.s.Inv := by rw [hxs]; exact hs
    have h1 := enterRegion_inv h h0
    split at ht
    · cases ht; exact passTurn_inv _ hs
    · split at ht
      · cases ht; exact stallPort_inv _ hs
      · split at ht
        · cases ht; exact trapWord_inv _ _ _ _ _ h1
        · split at ht
          · cases ht; exact stallPort_inv _ hs
          · split at ht
            · cases ht; exact afterEff_inv _ _ h0 trivial
            · split at ht
              · cases ht; exact State.spend_inv _ _ hs
              · split at ht
                · cases ht; exact slipTurn_inv _ hs
                · cases ht
                  unfold perform
                  split
                  · exact pastWord_inv _ _ _ h1
                  · split
                    · exact afterEff_inv _ _ h1 (show State.Inv _ from h1)
                    · exact afterEff_inv _ _ h1 (he _ h1)

/-- A word always answers a next state. -/
theorem issue_next (i : Instr) (h : Head) (s : State) (eff : Ictx → Eff) : ∃ t, issue i h s eff = .next t := by
  unfold issue
  split
  · exact ⟨_, rfl⟩
  · split
    · exact ⟨_, rfl⟩
    · split
      · exact ⟨_, rfl⟩
      · split
        · exact ⟨_, rfl⟩
        · split
          · exact ⟨_, rfl⟩
          · split
            · exact ⟨_, rfl⟩
            · split
              · exact ⟨_, rfl⟩
              · split <;> exact ⟨_, rfl⟩

end Sys2Proof.Machine
end

