-- ==== Sys2Proof/Laws/Issue.lean ====
section
/-! SUPPORT. The issue of a word: what it may change when the word performs, and the shared operations on lanes. -/

namespace Sys2Proof.Machine

-- ## Lanes

theorem mem_lanesOf (m : Lanes) (n : Nat) : n ∈ lanesOf m ↔ m.getLsbD n = true := by
  simp only [lanesOf, List.mem_filter, List.mem_range]
  constructor
  · exact fun h => h.2
  · exact fun h => ⟨by have := BitVec.lt_of_getLsbD h; omega, h⟩

theorem lanesOf_nodup (m : Lanes) : (lanesOf m).Nodup := List.nodup_range.filter _

theorem getLsbD_maskOf_aux (l : List Nat) (m : Lanes) (n : Nat) (hn : n < 32) :
    (l.foldl (fun m i => m ||| (1#32 <<< i)) m).getLsbD n = (m.getLsbD n || decide (n ∈ l)) := by
  induction l generalizing m with
  | nil => simp
  | cons a t ih =>
    rw [List.foldl_cons, ih]
    simp only [BitVec.getLsbD_or, BitVec.getLsbD_shiftLeft, List.mem_cons, hn, decide_true, Bool.true_and]
    by_cases h : n < a
    · have h2 : n ≠ a := by omega
      simp [h, h2]
    · by_cases h2 : n = a
      · subst h2; simp
      · have h3 : n - a ≠ 0 := by omega
        simp [h, h2, h3]

theorem getLsbD_maskOf (l : List Nat) (n : Nat) : (maskOf l).getLsbD n = (decide (n ∈ l) && decide (n < 32)) := by
  by_cases hn : n < 32
  · rw [maskOf, getLsbD_maskOf_aux l 0 n hn]; simp [hn]
  · have : 32 ≤ n := by omega
    simp [BitVec.getLsbD_of_ge _ _ this, hn]

theorem Quire.mapLanes_fields (q : Quire) (ls : List Nat) (f : Nat → Thread → Thread) :
    q.mapLanes ls f = { q with threads := (q.mapLanes ls f).threads } := by
  unfold Quire.mapLanes
  induction ls generalizing q with
  | nil => rfl
  | cons a t ih =>
    rw [List.foldl_cons, ih]
    rfl

theorem Quire.mapLanes_th {ls : List Nat} (hl : ls.Nodup) (q : Quire) (f : Nat → Thread → Thread) (n : Nat) :
    (q.mapLanes ls f).th n = if n ∈ ls then f n (q.th n) else q.th n := by
  unfold Quire.mapLanes
  induction ls generalizing q with
  | nil => simp
  | cons a t ih =>
    rw [List.foldl_cons, ih (List.nodup_cons.mp hl).2]
    have ha := (List.nodup_cons.mp hl).1
    by_cases h : n = a
    · subst h; simp [ha]
    · simp [h]

/-- A change of the threads of a mask's lanes. -/
theorem Quire.mapLanes_lanesOf (q : Quire) (m : Lanes) (f : Nat → Thread → Thread) (n : Nat) :
    (q.mapLanes (lanesOf m) f).th n = if m.getLsbD n then f n (q.th n) else q.th n := by
  rw [Quire.mapLanes_th (lanesOf_nodup m)]
  simp only [mem_lanesOf]

-- ## The word that issues

/-- What the issue of a word sees. -/
theorem State.issuing_spec {s : State} {h : Head} {x : Ictx} (hx : s.issuing h = some x) :
    x.s = s ∧ x.core = s.focus ∧ x.q = s.quire x.core x.slot
      ∧ (∃ r, (s.core x.core).run = some r ∧ r.slot = x.slot)
      ∧ ∀ n, x.lanes.getLsbD n = true → x.path.getLsbD n = true := by
  unfold State.issuing at hx
  dsimp only at hx
  split at hx
  · exact absurd hx (by simp)
  · rename_i r hr
    simp only [Option.some.injEq] at hx
    subst hx
    refine ⟨rfl, rfl, rfl, ⟨r, hr, rfl⟩, fun n hn => ?_⟩
    simp only [getLsbD_maskOf, Bool.and_eq_true, decide_eq_true_eq, List.mem_filter, mem_lanesOf] at hn
    exact hn.1.1

/-- The context after the entry of a region: only %repc of the path's threads may differ. -/
theorem enterRegion_spec (x : Ictx) (h : Head) :
    ∃ q, enterRegion x h = { x with q := q, s := (enterRegion x h).s }
      ∧ ((enterRegion x h).s = x.s ∧ q = x.q ∨ (enterRegion x h).s = x.put q)
      ∧ q = { x.q with threads := q.threads }
      ∧ ∀ n, q.th n = if h.e = true ∧ x.pos = 0 ∧ x.path.getLsbD n = true ∧ (x.q.th n).handler = false
          then { x.q.th n with repc := x.pc } else x.q.th n := by
  unfold enterRegion
  split
  · rename_i hc
    refine ⟨_, rfl, Or.inr rfl, Quire.mapLanes_fields _ _ _, fun n => ?_⟩
    rw [Quire.mapLanes_lanesOf]
    by_cases h1 : x.path.getLsbD n = true <;> by_cases h2 : (x.q.th n).handler = true <;> simp [hc, h1, h2]
  · rename_i hc
    refine ⟨x.q, rfl, Or.inl ⟨rfl, rfl⟩, rfl, fun n => ?_⟩
    have : ¬ (h.e = true ∧ x.pos = 0 ∧ x.path.getLsbD n = true ∧ (x.q.th n).handler = false) :=
      fun hh => hc ⟨hh.1, hh.2.1⟩
    rw [if_neg this]

/-- The entry of a region leaves the format slots of the launch alone. -/
theorem enterRegion_fslot (x : Ictx) (h : Head) (n : BitVec 3) : (enterRegion x h).fslot n = x.fslot n := by
  unfold enterRegion
  split
  · dsimp only
    rw [Quire.mapLanes_fields]
    rfl
  · rfl

/-- The entry of a region changes no register that a word looks at. -/
theorem enterRegion_vlooks (x : Ictx) (h : Head) (i : Instr) : (enterRegion x h).vlooks i = x.vlooks i := by
  have hf := enterRegion_fslot x h
  obtain ⟨q, hx, -, -, -⟩ := enterRegion_spec x h
  generalize enterRegion x h = y at *
  cases i
  case bkey => simp only [Ictx.vlooks, hf]; rw [hx]
  all_goals rw [hx]; rfl

/-- A word that reads no wrong register word reads none once its region has been entered (R24). -/
theorem Performs.noBadBlock {i : Instr} {h : Head} {s : State} {x : Ictx} (hp : Performs i h s x) :
    (enterRegion x h).badBlock i = none := by
  obtain ⟨q, hx, -, -, ht⟩ := enterRegion_spec x h
  have e0 : (enterRegion x h).q = q := by rw [hx]
  have hb : ∀ n r, (q.th n).badReg r = (x.q.th n).badReg r := by
    intro n r; rw [ht n]; split <;> rfl
  have := hp.readsSound
  unfold Ictx.badBlock Ictx.badReads at *
  rw [enterRegion_vlooks, e0]
  simpa only [hb] using this

/-- A word that performs does what its effect says, in the context in which its region has been entered. -/
theorem issue_performs {i : Instr} {h : Head} {s : State} {x : Ictx} (hp : Performs i h s x) (eff : Ictx → Eff) :
    issue i h s eff = .next (afterEff (enterRegion x h) i h (eff (enterRegion x h))) := by
  have hl : (enterRegion x h).lanes = x.lanes := by unfold enterRegion; split <;> rfl
  have hb := hp.noBadBlock
  have h0 : (x.lanes = 0) = False := eq_false hp.takesPart
  simp [issue, hp.issues, hp.notHeld, hp.covered, hp.legal, hp.unitFree, hp.staysInRun, hp.resultsHere,
    hp.noSlip, perform, hl, hb]
  intro h1
  exact absurd h1 hp.takesPart

/-- What the end of a word's bookkeeping leaves alone, its quire being live and a run being in progress. -/
theorem closeWord_spec (s : State) (x : Ictx) (i : Option Instr) (e did : Bool)
    (hl : (s.quire x.core x.slot).live = true) :
    let t := closeWord s x i e did
    t = { s with cores := t.cores, now := t.now, frac := t.frac }
      ∧ (∀ c, c ≠ x.core → t.core c = s.core c)
      ∧ t.core x.core = { s.core x.core with quires := (t.core x.core).quires, run := (t.core x.core).run,
                                             bar := (t.core x.core).bar }
      ∧ (∀ j, j ≠ x.slot → t.quire x.core j = s.quire x.core j)
      ∧ t.quire x.core x.slot = { s.quire x.core x.slot with stamp := (t.quire x.core x.slot).stamp } := by
  have hl' : ((s.core x.core).quire x.slot).live = true := hl
  unfold closeWord
  dsimp only
  split
  · exact ⟨rfl, fun _ _ => rfl, rfl, fun _ _ => rfl, rfl⟩
  · rename_i r hr
    rw [hl']
    simp only [Bool.not_true, Bool.false_eq_true, if_false]
    generalize hn : s.spend x.core _ = u
    obtain ⟨a, b, rfl⟩ : ∃ a b, u = { s with now := a, frac := b } := by
      rw [← hn]; exact ⟨_, _, State.spend_rest _ _ _⟩
    have hc : ∀ d, ({ s with now := a, frac := b } : State).core d = s.core d := fun _ => rfl
    split
    · refine ⟨?_, ?_, ?_, ?_, ?_⟩
      · rfl
      · intro c hne; simp [hne, hc]
      · simp only [State.core_setCore, if_true]; rfl
      · intro j hj; simp [State.quire, hj]; rfl
      · simp [State.quire]; exact hl'
    · refine ⟨?_, ?_, ?_, ?_, ?_⟩
      · rfl
      · intro c hne; simp [hne, hc]
      · simp only [State.core_setCore, if_true]
      · intro j hj; simp [State.quire]; rfl
      · simp [State.quire]; rfl


theorem Quire.expect_fields (q : Quire) (x : Ictx) (i : Instr) :
    q.expect x i = { q with arriving := (q.expect x i).arriving } := by
  unfold Quire.expect
  split <;> rfl

/-- A state that differs from the one a word sees in the word's quire alone, which is `q`. -/
structure QuireOnly (x : Ictx) (u : State) (q : Quire) : Prop where
  rest : u = { x.s with cores := u.cores }
  otherCores : ∀ c, c ≠ x.core → u.core c = x.s.core c
  core : u.core x.core = { x.s.core x.core with quires := (u.core x.core).quires }
  otherQuires : ∀ j, j ≠ x.slot → u.quire x.core j = x.s.quire x.core j
  quire : u.quire x.core x.slot = q

theorem QuireOnly.put {x : Ictx} {u : State} {q : Quire} (hu : QuireOnly x u q) (q' : Quire) :
    QuireOnly x (u.setQuire x.core x.slot q') q' where
  rest := by rw [hu.rest]; rfl
  otherCores c hc := by simp [State.setQuire, hc, hu.otherCores]
  core := by simp only [State.setQuire, State.core_setCore, if_true, Core.setQuire]; rw [hu.core]
  otherQuires j hj := by simp [State.quire_setQuire, hj, hu.otherQuires]
  quire := by simp [State.quire_setQuire]

theorem State.issuing_quireOnly {s : State} {h : Head} {x : Ictx} (hx : s.issuing h = some x) : QuireOnly x x.s x.q := by
  obtain ⟨h1, -, h2, -, -⟩ := State.issuing_spec hx
  exact ⟨rfl, fun _ _ => rfl, rfl, fun _ _ => rfl, by rw [h1, h2]⟩

theorem enterRegion_quireOnly {s : State} {h : Head} {x : Ictx} (hx : s.issuing h = some x) :
    QuireOnly x (enterRegion x h).s (enterRegion x h).q := by
  have h0 := State.issuing_quireOnly hx
  obtain ⟨q0, hx, hs, -, -⟩ := enterRegion_spec x h
  have hq0' : (enterRegion x h).q = q0 := by rw [hx]
  rw [hq0']
  rcases hs with hs | hs
  · rw [hs.1, hs.2]; exact h0
  · rw [hs]; exact h0.put q0

/-- A put in the entered context. -/
theorem enterRegion_put {s : State} {h : Head} {x : Ictx} (hx : s.issuing h = some x) (q : Quire) :
    QuireOnly x ((enterRegion x h).put q) q := by
  have h0 := (enterRegion_quireOnly hx).put q
  obtain ⟨q0, hx, -, -, -⟩ := enterRegion_spec x h
  have e1 : (enterRegion x h).core = x.core := by rw [hx]
  have e2 : (enterRegion x h).slot = x.slot := by rw [hx]
  unfold Ictx.put
  rw [e1, e2]; exact h0

/-- A word that performs and whose effect is to replace its quire by `q`. -/
theorem issue_ok {i : Instr} {h : Head} {s : State} {x : Ictx} (hp : Performs i h s x) {eff : Ictx → Eff} {q : Quire}
    {u : State} (he : eff (enterRegion x h) = .ok u) (hu : QuireOnly x u q) (hl : q.live = true) :
    ∃ t, issue i h s eff = .next t ∧ OnlyQuire x t
      ∧ t.quire x.core x.slot
        = { (q.passWord x.path x.pc).countIssue x.path with
              stamp := (t.quire x.core x.slot).stamp, arriving := (t.quire x.core x.slot).arriving } := by
  refine ⟨_, issue_performs hp eff, ?_⟩
  rw [he]
  obtain ⟨q0, hx, -, -, -⟩ := enterRegion_spec x h
  generalize enterRegion x h = y at *
  have e1 : y.core = x.core := by rw [hx]
  have e2 : y.slot = x.slot := by rw [hx]
  have e3 : y.path = x.path := by rw [hx]
  have e4 : y.pc = x.pc := by rw [hx]
  simp only [afterEff, pastWord, e1, e2, e3, e4, hu.quire, hl, if_true]
  generalize hq2 : ((q.passWord x.path x.pc).countIssue x.path).expect y i = q2
  have hf2 : q2 = { (q.passWord x.path x.pc).countIssue x.path with arriving := q2.arriving } := by
    rw [← hq2]; exact Quire.expect_fields _ _ _
  have hl2 : q2.live = true := by
    rw [hf2]
    simp only [Quire.countIssue, Quire.passWord]
    rw [Quire.mapLanes_fields, Quire.mapLanes_fields]
    exact hl
  have hu2 := hu.put q2
  have hl3 : ((u.setQuire x.core x.slot q2).quire y.core y.slot).live = true := by rw [e1, e2, hu2.quire]; exact hl2
  have hcs := closeWord_spec (u.setQuire x.core x.slot q2) y (some i) h.b true hl3
  dsimp only at hcs
  generalize closeWord (u.setQuire x.core x.slot q2) y (some i) h.b true = t at *
  obtain ⟨k1, k2, k3, k4, k5⟩ := hcs
  rw [e1] at k2 k3 k4 k5
  rw [e2] at k4 k5
  have m1 : t = { x.s with cores := t.cores, now := t.now, frac := t.frac } := by rw [k1, hu2.rest]
  refine ⟨⟨m1, ?_, ?_, ?_, ?_⟩, ?_⟩
  · intro a
    have : t.mem = x.s.mem := by rw [m1]
    simp [State.byte, this]
  · intro c hc; rw [k2 c hc, hu2.otherCores c hc]
  · rw [k3, hu2.core]
  · intro j hj; rw [k4 j hj, hu2.otherQuires j hj]
  · rw [k5, hu2.quire, hf2]

-- ## Words whose effect is on their participants' threads

/-- The threads behind a word that changes each participant by `f`. -/
theorem lanesDone_of {x : Ictx} {h : Head} {q0 q1 : Quire} {t : State} {f : Nat → Thread → Thread}
    (hsub : ∀ n, x.lanes.getLsbD n = true → x.path.getLsbD n = true)
    (h0 : ∀ n, q0.th n = if h.e = true ∧ x.pos = 0 ∧ x.path.getLsbD n = true ∧ (x.q.th n).handler = false
          then { x.q.th n with repc := x.pc } else x.q.th n)
    (h1 : ∀ n, q1.th n = if x.lanes.getLsbD n then f n (q0.th n) else q0.th n)
    (hb : ∀ n, x.path.getLsbD n = true → (x.q.th n).badV = [])
    (hf : ∀ n t r, t.badV = [] → f n { t with repc := r } = { f n t with repc := r })
    (hi : ∀ n t, t.badV = [] → (f n t).issued = t.issued) (hr : ∀ n t, t.badV = [] → (f n t).repc = t.repc)
    (ht : ∀ n, (t.quire x.core x.slot).th n = ((q1.passWord x.path x.pc).countIssue x.path).th n) :
    LanesDone x h t f := by
  intro n
  rw [ht, Quire.countIssue, Quire.mapLanes_lanesOf, Quire.passWord, Quire.mapLanes_lanesOf, h1, h0]
  by_cases hp : x.path.getLsbD n = true
  · have hb := hb n hp
    simp only [hp, if_true, true_and, Ictx.behind]
    by_cases hc : h.e = true ∧ x.pos = 0 ∧ (x.q.th n).handler = false
    · rw [if_pos hc, if_pos hc]
      by_cases hl : x.lanes.getLsbD n = true
      · rw [if_pos hl, if_pos hl, hf _ _ _ hb]; dsimp only; rw [hi _ _ hb]
      · rw [if_neg hl, if_neg hl]
    · rw [if_neg hc, if_neg hc]
      by_cases hl : x.lanes.getLsbD n = true
      · rw [if_pos hl, hi _ _ hb, hr _ _ hb]
      · rw [if_neg hl]
  · have hl : ¬ x.lanes.getLsbD n = true := fun hh => hp (hsub n hh)
    simp [hp, hl]

/-- A word that performs and whose effect is on its participants' threads and the quire's scalar registers. -/
theorem issue_lanes {i : Instr} {h : Head} {s : State} {x : Ictx} (hp : Performs i h s x) {eff : Ictx → Eff}
    {f : Nat → Thread → Thread} {q1 : Quire} {u : State}
    (he : eff (enterRegion x h) = .ok u) (hu : QuireOnly x u q1)
    (hq : q1 = { (enterRegion x h).q with threads := q1.threads, sr := q1.sr })
    (h1 : ∀ n, q1.th n = if x.lanes.getLsbD n then f n ((enterRegion x h).q.th n) else (enterRegion x h).q.th n)
    (hf : ∀ n t r, t.badV = [] → f n { t with repc := r } = { f n t with repc := r })
    (hi : ∀ n t, t.badV = [] → (f n t).issued = t.issued) (hr : ∀ n t, t.badV = [] → (f n t).repc = t.repc) :
    ∃ t, issue i h s eff = .next t ∧ OnlyQuire x t ∧ OnlyRegs x t ∧ (t.quire x.core x.slot).sr = q1.sr
      ∧ LanesDone x h t f := by
  obtain ⟨-, -, -, -, hsub⟩ := State.issuing_spec hp.issues
  obtain ⟨q0, hx, hs, hq0, hth⟩ := enterRegion_spec x h
  have hq0' : (enterRegion x h).q = q0 := by rw [hx]
  rw [hq0'] at hq h1
  have hl : q1.live = true := by rw [hq, hq0]; exact hp.live
  obtain ⟨t, ht, ho, hqt⟩ := issue_ok hp he hu hl
  have hthr : ∀ n, (t.quire x.core x.slot).th n = ((q1.passWord x.path x.pc).countIssue x.path).th n := by
    intro n; rw [hqt]; rfl
  have hfields : t.quire x.core x.slot
      = { x.q with threads := (t.quire x.core x.slot).threads, stamp := (t.quire x.core x.slot).stamp,
                   arriving := (t.quire x.core x.slot).arriving, sr := q1.sr } := by
    rw [hqt, Quire.countIssue, Quire.mapLanes_fields, Quire.passWord, Quire.mapLanes_fields, hq, hq0]
  refine ⟨t, ht, ho, ?_, ?_, lanesDone_of hsub hth h1 hp.sound hf hi hr hthr⟩
  · unfold OnlyRegs; rw [hfields]
  · rw [hfields]

/-- The scalar registers of the entered context. -/
theorem enterRegion_sr (x : Ictx) (h : Head) : (enterRegion x h).q.sr = x.q.sr := by
  obtain ⟨q0, hx, -, hq0, -⟩ := enterRegion_spec x h
  have hq0' : (enterRegion x h).q = q0 := by rw [hx]
  rw [hq0', hq0]

/-- A thread without a wrong word has none to mend. -/
@[simp] theorem Thread.heal_sound (t : Thread) (rs : List Nat) (h : t.badV = []) : t.heal rs = t := by
  unfold Thread.heal; rw [h]; rfl

/-- Registers written in a thread without a wrong word. -/
theorem Thread.setRegs_sound (t : Thread) (l : List (Nat × Word)) (h : t.badV = []) :
    t.setRegs l = l.foldl (fun t e => t.setReg e.1 e.2) t := by
  have : ∀ (l : List (Nat × Word)) (t : Thread), (l.foldl (fun t e => t.setReg e.1 e.2) t).badV = t.badV := by
    intro l
    induction l with
    | nil => intro t; rfl
    | cons a l ih => intro t; rw [List.foldl_cons, ih]; rfl
  unfold Thread.setRegs
  exact Thread.heal_sound _ _ (by rw [this, h])

theorem Thread.write_eq (t : Thread) (o : LaneOut) (hb : t.badV = []) :
    t.write o = { t with v := (t.write o).v, p := (t.write o).p, fpsr := (t.write o).fpsr, lfsr := (t.write o).lfsr } := by
  have h1 : ∀ (l : List (Nat × Word)) (t : Thread),
      l.foldl (fun t e => t.setReg e.1 e.2) t = { t with v := (l.foldl (fun t e => t.setReg e.1 e.2) t).v } := by
    intro l
    induction l with
    | nil => intro t; rfl
    | cons a l ih => intro t; rw [List.foldl_cons, ih]; rfl
  have h2 : ∀ (l : List (Nat × Bool)) (t : Thread),
      l.foldl (fun t e => t.setPred e.1 e.2) t = { t with p := (l.foldl (fun t e => t.setPred e.1 e.2) t).p } := by
    intro l
    induction l with
    | nil => intro t; rfl
    | cons a l ih =>
      intro t; rw [List.foldl_cons, ih]; unfold Thread.setPred; split <;> rfl
  unfold Thread.write
  dsimp only [Thread.raise]
  rw [t.setRegs_sound _ hb, h2, h1]

theorem Thread.write_repc (t : Thread) (o : LaneOut) (r : Dword) (hb : t.badV = []) :
    ({ t with repc := r } : Thread).write o = { t.write o with repc := r } := by
  have h1 : ∀ (l : List (Nat × Word)) (t : Thread),
      l.foldl (fun t e => t.setReg e.1 e.2) { t with repc := r }
        = { l.foldl (fun t e => t.setReg e.1 e.2) t with repc := r } := by
    intro l
    induction l with
    | nil => intro t; rfl
    | cons a l ih => intro t; rw [List.foldl_cons, List.foldl_cons, ← ih]; rfl
  have h2 : ∀ (l : List (Nat × Bool)) (t : Thread),
      l.foldl (fun t e => t.setPred e.1 e.2) { t with repc := r }
        = { l.foldl (fun t e => t.setPred e.1 e.2) t with repc := r } := by
    intro l
    induction l with
    | nil => intro t; rfl
    | cons a l ih =>
      intro t; rw [List.foldl_cons, List.foldl_cons, ← ih]; congr 1; unfold Thread.setPred; split <;> rfl
  unfold Thread.write
  dsimp only [Thread.raise]
  rw [Thread.setRegs_sound _ _ (show ({ t with repc := r } : Thread).badV = [] from hb), t.setRegs_sound _ hb, h1, h2]

theorem Thread.write_issued (t : Thread) (o : LaneOut) (hb : t.badV = []) : (t.write o).issued = t.issued := by
  rw [Thread.write_eq t o hb]
theorem Thread.write_keepsRepc (t : Thread) (o : LaneOut) (hb : t.badV = []) : (t.write o).repc = t.repc := by
  rw [Thread.write_eq t o hb]

/-- A word whose effect is a lane write that may look at the word's whole context. -/
theorem issue_gives {i : Instr} {h : Head} {f : Ictx → Nat → Thread → LaneOut} {g : Ictx → Nat → Thread → Thread}
    (hi : i.head = some h)
    (hw : ∀ s, exec i s = issue i h s (fun x => .ok (x.put (x.q.laneWrite x.lanes (f x)))))
    (hg : ∀ x n t, t.badV = [] → t.write (f x n t) = g x n t) (hf : ∀ x n t r, f x n { t with repc := r } = f x n t)
    (he : ∀ h x, f (enterRegion x h) = f x) : Gives i g := by
  intro h' s x hp
  obtain rfl : h = h' := Option.some.inj (hi.symm.trans hp.head)
  rw [hw s]
  obtain ⟨q0, hx, -, -, -⟩ := enterRegion_spec x h
  have hl : (enterRegion x h).lanes = x.lanes := by rw [hx]
  have hsr : ((enterRegion x h).q.laneWrite (enterRegion x h).lanes (f x)).sr = x.q.sr := by
    rw [Quire.laneWrite, Quire.mapLanes_fields]; exact enterRegion_sr x h
  rw [← hsr]
  refine issue_lanes hp (eff := fun x => .ok (x.put (x.q.laneWrite x.lanes (f x))))
    (q1 := (enterRegion x h).q.laneWrite (enterRegion x h).lanes (f x)) ?_
    (enterRegion_put hp.issues _) ?_ ?_ ?_ ?_ ?_
  · rw [he]
  · rw [Quire.laneWrite, Quire.mapLanes_fields]
  · intro n
    have hn : x.lanes.getLsbD n = true → ((enterRegion x h).q.th n).badV = [] := by
      intro hn
      obtain ⟨-, -, -, -, hsub⟩ := State.issuing_spec hp.issues
      obtain ⟨q, hq, -, -, ht⟩ := enterRegion_spec x h
      have e0 : (enterRegion x h).q = q := by rw [hq]
      have := hp.sound n (hsub n hn)
      rw [e0, ht n]; split <;> exact this
    rw [Quire.laneWrite, Quire.mapLanes_lanesOf, hl]
    split
    · rename_i hl'; exact hg _ _ _ (hn hl')
    · rfl
  · intro n t r hb
    show g x n _ = { g x n t with repc := r }
    rw [← hg _ _ _ (show ({ t with repc := r } : Thread).badV = [] from hb), hf, Thread.write_repc _ _ _ hb, ← hg _ _ _ hb]
  · intro n t hb
    show (g x n t).issued = _
    rw [← hg _ _ _ hb]; exact Thread.write_issued _ _ hb
  · intro n t hb
    show (g x n t).repc = _
    rw [← hg _ _ _ hb]; exact Thread.write_keepsRepc _ _ hb

/-- A lane word gives each participant what its function says. -/
theorem laneWord_gives {i : Instr} {h : Head} {f : Thread → LaneOut} {g : Thread → Thread} (hi : i.head = some h)
    (hw : ∀ s, exec i s = laneWord i h s f) (hg : ∀ t, t.badV = [] → t.write (f t) = g t) (hf : ∀ t r, f { t with repc := r } = f t) :
    GivesLane i g :=
  issue_gives (f := fun _ _ t => f t) hi hw (fun _ _ t => hg t) (fun _ _ t r => hf t r) (fun _ _ => rfl)

theorem Quire.s_setS (q : Quire) (d r : SReg) (y : Dword) :
    (q.setS d.toNat y).s r.toNat = if r = d ∧ d ≠ 0 then y else q.s r.toNat := by
  have hz : ∀ a : SReg, a.toNat = 0 ↔ a = 0 := fun a => ⟨fun h => BitVec.eq_of_toNat_eq h, fun h => by rw [h]; rfl⟩
  unfold Quire.setS Quire.s
  by_cases hd : d = 0
  · simp [hd]
  · have h0 : ¬ d.toNat = 0 := fun h => hd ((hz d).mp h)
    rw [if_neg h0]
    by_cases hr : r = d
    · subst hr; rw [if_neg h0, if_neg h0, if_pos ⟨rfl, hd⟩]; exact Tab.get_set_same _ _ _ _
    · have h1 : r.toNat ≠ d.toNat := fun h => hr (BitVec.eq_of_toNat_eq h)
      simp [hr, Tab.get_set_ne _ _ _ h1]

/-- A scalar word writes its register, or nothing, and leaves the threads alone. -/
theorem scalarWord_gives {i : Instr} {h : Head} {d : SReg} {f : Ictx → Dword} (hi : i.head = some h)
    (hw : ∀ s, exec i s = scalarWord i h s d f)
    (hf : ∀ x q s, f { x with q := q, s := s } = f x) : GivesScalar i d f := by
  intro h' s x hp
  obtain rfl : h = h' := Option.some.inj (hi.symm.trans hp.head)
  rw [hw s]
  obtain ⟨q0, hx, -, hq0, -⟩ := enterRegion_spec x h
  have hu0 := enterRegion_quireOnly hp.issues
  have hval : f (enterRegion x h) = f x := by rw [hx]; exact hf _ _ _
  have e1 : (enterRegion x h).core = x.core := by rw [hx]
  have e2 : (enterRegion x h).isB = x.isB := by rw [hx]
  have hrun : ((enterRegion x h).s.core x.core).run = (x.s.core x.core).run := by rw [hu0.core]
  by_cases hlost : x.isB = true ∧ ∃ u, (x.s.core x.core).run = some u ∧ d.toNat ∈ u.aWrote
  · obtain ⟨t, h1, h2, h3, h4, h5⟩ := issue_lanes hp (f := fun _ u => u) (u := (enterRegion x h).s)
      (eff := fun x =>
        let lost := x.isB && (match (x.s.core x.core).run with
          | some r => r.aWrote.contains d.toNat
          | none => false)
        .ok (if lost then x.s else x.put (x.q.setS d.toNat (f x))))
      (by
        obtain ⟨hb, u, hu, hm⟩ := hlost
        simp [e1, e2, hb, hrun, hu, hm])
      hu0 rfl (fun n => by split <;> rfl) (fun _ _ _ _ => rfl) (fun _ _ _ => rfl) (fun _ _ _ => rfl)
    refine ⟨t, h1, h2, h3, h5, fun r => ?_⟩
    rw [if_neg (fun hh => hh.2.2 hlost)]
    unfold Quire.s
    rw [h4, enterRegion_sr]
  · obtain ⟨t, h1, h2, h3, h4, h5⟩ := issue_lanes hp (f := fun _ u => u)
      (q1 := (enterRegion x h).q.setS d.toNat (f x)) (u := (enterRegion x h).put ((enterRegion x h).q.setS d.toNat (f x)))
      (eff := fun x =>
        let lost := x.isB && (match (x.s.core x.core).run with
          | some r => r.aWrote.contains d.toNat
          | none => false)
        .ok (if lost then x.s else x.put (x.q.setS d.toNat (f x))))
      (by
        have : ¬ (x.isB && (match (x.s.core x.core).run with
          | some r => r.aWrote.contains d.toNat
          | none => false)) = true := by
          intro hh
          simp only [Bool.and_eq_true] at hh
          obtain ⟨hb, hh⟩ := hh
          split at hh
          · rename_i u hu; exact hlost ⟨hb, u, hu, by simpa using hh⟩
          · exact absurd hh (by simp)
        dsimp only
        rw [e1, e2, hrun, if_neg this, hval])
      (enterRegion_put hp.issues _) (by unfold Quire.setS; split <;> rfl)
      (fun n => by
        have : ((enterRegion x h).q.setS d.toNat (f x)).th n = (enterRegion x h).q.th n := by
          unfold Quire.setS; split <;> rfl
        rw [this]; split <;> rfl)
      (fun _ _ _ _ => rfl) (fun _ _ _ => rfl) (fun _ _ _ => rfl)
    refine ⟨t, h1, h2, h3, h5, fun r => ?_⟩
    have hs : (t.quire x.core x.slot).s r.toNat = ((enterRegion x h).q.setS d.toNat (f x)).s r.toNat := by
      unfold Quire.s; rw [h4]
    have hs0 : (enterRegion x h).q.s r.toNat = x.q.s r.toNat := by unfold Quire.s; rw [enterRegion_sr]
    rw [hs, Quire.s_setS, hs0]
    by_cases hr : r = d ∧ d ≠ 0
    · rw [if_pos hr, if_pos ⟨hr.1, hr.2, hlost⟩]
    · rw [if_neg hr, if_neg (fun hh => hr ⟨hh.1, hh.2.1⟩)]

-- ## Words with an effect beyond their quire's registers

/-- What a word sees when it performs: its quire as the state holds it, live, with a lane that takes part. -/
theorem Sees.spec {i : Instr} {h : Head} {s : State} {x : Ictx} (hs : Sees i h s x) :
    x.core = s.focus ∧ x.q = x.s.quire x.core x.slot ∧ x.q.live = true ∧ x.lanes ≠ 0
      ∧ x.s = { s with cores := x.s.cores } := by
  obtain ⟨y, hp, rfl⟩ := hs
  obtain ⟨h1, h2, -, -, -⟩ := State.issuing_spec hp.issues
  have hq := enterRegion_quireOnly hp.issues
  obtain ⟨q0, hx, -, hq0, -⟩ := enterRegion_spec y h
  have e0 : (enterRegion y h).q = q0 := by rw [hx]
  have e1 : (enterRegion y h).core = y.core := by rw [hx]
  have e2 : (enterRegion y h).slot = y.slot := by rw [hx]
  have e3 : (enterRegion y h).lanes = y.lanes := by rw [hx]
  refine ⟨by rw [e1, h2], by rw [e1, e2, hq.quire], by rw [e0, hq0]; exact hp.live, by rw [e3]; exact hp.takesPart, ?_⟩
  have := hq.rest
  rw [h1] at this
  exact this

/-- What stands behind the bookkeeping of a word whose threads were put at their next PCs. -/
theorem after_of {x : Ictx} {u : State} {q : Quire} {next : Thread → Dword} (i : Option Instr) (e did : Bool)
    (hl : q.live = true) (hq : q = { u.quire x.core x.slot with threads := q.threads, arriving := q.arriving })
    (ht : ∀ n, q.th n = if x.path.getLsbD n then
        { (u.quire x.core x.slot).th n with pc := next ((u.quire x.core x.slot).th n),
                                            issued := ((u.quire x.core x.slot).th n).issued + 1 }
      else (u.quire x.core x.slot).th n) :
    After x u (closeWord (u.setQuire x.core x.slot q) x i e did) next := by
  have hl3 : ((u.setQuire x.core x.slot q).quire x.core x.slot).live = true := by
    rw [State.quire_setQuire]; simp [hl]
  have hcs := closeWord_spec (u.setQuire x.core x.slot q) x i e did hl3
  dsimp only at hcs
  generalize closeWord (u.setQuire x.core x.slot q) x i e did = t at *
  obtain ⟨k1, k2, k3, k4, k5⟩ := hcs
  have m1 : t = { u with cores := t.cores, now := t.now, frac := t.frac } := by
    rw [k1]; rfl
  have hqq : t.quire x.core x.slot = { q with stamp := (t.quire x.core x.slot).stamp } := by
    rw [k5, State.quire_setQuire]; simp
  refine ⟨m1, ?_, ?_, ?_, ?_, ?_, ?_⟩
  · intro a
    have : t.mem = u.mem := by rw [m1]
    simp [State.byte, this]
  · intro c hc; rw [k2 c hc]; simp [State.setQuire, hc]
  · rw [k3]; simp only [State.setQuire, State.core_setCore, if_true, Core.setQuire]
  · intro j hj; rw [k4 j hj, State.quire_setQuire]; simp [hj]
  · rw [hqq, hq]
  · intro n; rw [hqq]; exact ht n

/-- The threads of a path behind a word. -/
theorem Quire.th_pass (q : Quire) (m : Lanes) (pc : Dword) (n : Nat) :
    ((q.passWord m pc).countIssue m).th n
      = if m.getLsbD n then { q.th n with pc := pc + 8, issued := (q.th n).issued + 1 } else q.th n := by
  rw [Quire.countIssue, Quire.mapLanes_lanesOf, Quire.passWord, Quire.mapLanes_lanesOf]
  split <;> rfl

theorem Quire.th_expect (q : Quire) (x : Ictx) (i : Instr) (n : Nat) : (q.expect x i).th n = q.th n := by
  rw [Quire.expect_fields]; rfl

/-- A word that performs and goes on in the state `u`. -/
theorem issue_after {i : Instr} {h : Head} {s : State} {x : Ictx} (hs : Sees i h s x) {eff : Ictx → Eff} {u : State}
    (he : eff x = .ok u) (hl : (u.quire x.core x.slot).live = true) :
    ∃ t, issue i h s eff = .next t ∧ After x u t (fun _ => x.pc + 8) := by
  obtain ⟨y, hp, rfl⟩ := hs
  refine ⟨_, issue_performs hp eff, ?_⟩
  rw [he]
  generalize enterRegion y h = x at *
  simp only [afterEff, pastWord, hl, if_true]
  refine after_of _ _ _ ?_ ?_ ?_
  · rw [Quire.expect_fields, Quire.countIssue, Quire.mapLanes_fields, Quire.passWord, Quire.mapLanes_fields]; exact hl
  · rw [Quire.expect_fields, Quire.countIssue, Quire.mapLanes_fields, Quire.passWord, Quire.mapLanes_fields]
  · intro n; rw [Quire.th_expect, Quire.th_pass]

/-- A word that performs and whose threads stand where they go on in the state `u`. -/
theorem issue_jump {i : Instr} {h : Head} {s : State} {x : Ictx} (hs : Sees i h s x) {eff : Ictx → Eff} {u : State}
    (he : eff x = .jump u) (hl : (u.quire x.core x.slot).live = true) :
    ∃ t, issue i h s eff = .next t ∧ After x u t Thread.pc := by
  obtain ⟨y, hp, rfl⟩ := hs
  refine ⟨_, issue_performs hp eff, ?_⟩
  rw [he]
  generalize enterRegion y h = x at *
  simp only [afterEff, jumpWord, hl, if_true]
  refine after_of _ _ _ ?_ ?_ ?_
  · rw [Quire.expect_fields, Quire.countIssue, Quire.mapLanes_fields]; exact hl
  · rw [Quire.expect_fields, Quire.countIssue, Quire.mapLanes_fields]
  · intro n
    rw [Quire.th_expect, Quire.countIssue, Quire.mapLanes_lanesOf]

/-- A word that performs and raises a precise fault. -/
theorem issue_trap {i : Instr} {h : Head} {s : State} {x : Ictx} (hs : Sees i h s x) {eff : Ictx → Eff} {c : Cause}
    {m : Lanes} {a d : Nat} (he : eff x = .trap c m a d) : issue i h s eff = .next (trapWord x (some i) c m a d) := by
  obtain ⟨y, hp, rfl⟩ := hs
  rw [issue_performs hp eff, he]; rfl

theorem Sees.head {i : Instr} {h : Head} {s : State} {x : Ictx} (hs : Sees i h s x) : i.head = some h := by
  obtain ⟨y, hp, -⟩ := hs; exact hp.head

theorem does_of {i : Instr} {h : Head} {eff : Ictx → Eff} {p : Ictx → Prop} {f : Ictx → State} (hi : i.head = some h)
    (hw : ∀ s, exec i s = issue i h s eff) (he : ∀ x, p x → eff x = .ok (f x))
    (hl : ∀ x, p x → x.q = x.s.quire x.core x.slot → x.q.live = true → ((f x).quire x.core x.slot).live = true) :
    DoesWhen i p f := by
  intro h' s x hs hp
  obtain rfl : h = h' := Option.some.inj (hi.symm.trans hs.head)
  obtain ⟨-, hq, hq', -, -⟩ := hs.spec
  rw [hw s]
  exact issue_after hs (he x hp) (hl x hp hq hq')

theorem jumps_of {i : Instr} {h : Head} {eff : Ictx → Eff} {p : Ictx → Prop} {f : Ictx → State} (hi : i.head = some h)
    (hw : ∀ s, exec i s = issue i h s eff) (he : ∀ x, p x → eff x = .jump (f x))
    (hl : ∀ x, p x → x.q = x.s.quire x.core x.slot → x.q.live = true → ((f x).quire x.core x.slot).live = true) :
    JumpsWhen i p f := by
  intro h' s x hs hp
  obtain rfl : h = h' := Option.some.inj (hi.symm.trans hs.head)
  obtain ⟨-, hq, hq', -, -⟩ := hs.spec
  rw [hw s]
  exact issue_jump hs (he x hp) (hl x hp hq hq')

theorem traps_of {i : Instr} {h : Head} {eff : Ictx → Eff} {p : Ictx → Prop} {c : Cause} {m : Ictx → Lanes}
    {a d : Ictx → Nat} (hi : i.head = some h) (hw : ∀ s, exec i s = issue i h s eff)
    (he : ∀ x, p x → eff x = .trap c (m x) (a x) (d x)) : TrapsWhen i p c m a d := by
  intro h' s x hs hp
  obtain rfl : h = h' := Option.some.inj (hi.symm.trans hs.head)
  rw [hw s]
  exact issue_trap hs (he x hp)

end Sys2Proof.Machine
end

