-- ==== Sys2Proof/Laws/PerInstr.lean ====
section
/-! SUPPORT. Statements made of every instruction, one lemma per constructor. -/

namespace Sys2Proof.Laws

/-- An instruction word has its common fields and the body of a listed opcode, so it has one encoding; a device step
has neither (R312, R325, Table 14.6). -/
def OneWord.Statement (i : Instr) : Prop :=
  (∃ h op y, i.head = some h ∧ i.body = some (op, y) ∧ opListed op.toNat = true) ∨ (i.head = none ∧ i.body = none)

theorem OneWord.iadd : ∀ x0 x1 x2 x3 x4 x5, OneWord.Statement (.iadd x0 x1 x2 x3 x4 x5) := fun x0 x1 x2 x3 x4 x5 => .inl ⟨_, _, _, rfl, rfl, by decide⟩
theorem OneWord.isub : ∀ x0 x1 x2 x3 x4 x5, OneWord.Statement (.isub x0 x1 x2 x3 x4 x5) := fun x0 x1 x2 x3 x4 x5 => .inl ⟨_, _, _, rfl, rfl, by decide⟩
theorem OneWord.iaddx : ∀ x0 x1 x2 x3 x4 x5 x6, OneWord.Statement (.iaddx x0 x1 x2 x3 x4 x5 x6) := fun x0 x1 x2 x3 x4 x5 x6 => .inl ⟨_, _, _, rfl, rfl, by decide⟩
theorem OneWord.imul : ∀ x0 x1 x2 x3, OneWord.Statement (.imul x0 x1 x2 x3) := fun x0 x1 x2 x3 => .inl ⟨_, _, _, rfl, rfl, by decide⟩
theorem OneWord.imulh : ∀ x0 x1 x2 x3 x4, OneWord.Statement (.imulh x0 x1 x2 x3 x4) := fun x0 x1 x2 x3 x4 => .inl ⟨_, _, _, rfl, rfl, by decide⟩
theorem OneWord.imad : ∀ x0 x1 x2 x3 x4, OneWord.Statement (.imad x0 x1 x2 x3 x4) := fun x0 x1 x2 x3 x4 => .inl ⟨_, _, _, rfl, rfl, by decide⟩
theorem OneWord.imadw : ∀ x0 x1 x2 x3 x4 x5, OneWord.Statement (.imadw x0 x1 x2 x3 x4 x5) := fun x0 x1 x2 x3 x4 x5 => .inl ⟨_, _, _, rfl, rfl, by decide⟩
theorem OneWord.imin : ∀ x0 x1 x2 x3 x4, OneWord.Statement (.imin x0 x1 x2 x3 x4) := fun x0 x1 x2 x3 x4 => .inl ⟨_, _, _, rfl, rfl, by decide⟩
theorem OneWord.imax : ∀ x0 x1 x2 x3 x4, OneWord.Statement (.imax x0 x1 x2 x3 x4) := fun x0 x1 x2 x3 x4 => .inl ⟨_, _, _, rfl, rfl, by decide⟩
theorem OneWord.iabs : ∀ x0 x1 x2 x3, OneWord.Statement (.iabs x0 x1 x2 x3) := fun x0 x1 x2 x3 => .inl ⟨_, _, _, rfl, rfl, by decide⟩
theorem OneWord.and : ∀ x0 x1 x2 x3, OneWord.Statement (.and x0 x1 x2 x3) := fun x0 x1 x2 x3 => .inl ⟨_, _, _, rfl, rfl, by decide⟩
theorem OneWord.or : ∀ x0 x1 x2 x3, OneWord.Statement (.or x0 x1 x2 x3) := fun x0 x1 x2 x3 => .inl ⟨_, _, _, rfl, rfl, by decide⟩
theorem OneWord.xor : ∀ x0 x1 x2 x3, OneWord.Statement (.xor x0 x1 x2 x3) := fun x0 x1 x2 x3 => .inl ⟨_, _, _, rfl, rfl, by decide⟩
theorem OneWord.andn : ∀ x0 x1 x2 x3, OneWord.Statement (.andn x0 x1 x2 x3) := fun x0 x1 x2 x3 => .inl ⟨_, _, _, rfl, rfl, by decide⟩
theorem OneWord.orn : ∀ x0 x1 x2 x3, OneWord.Statement (.orn x0 x1 x2 x3) := fun x0 x1 x2 x3 => .inl ⟨_, _, _, rfl, rfl, by decide⟩
theorem OneWord.not : ∀ x0 x1 x2, OneWord.Statement (.not x0 x1 x2) := fun x0 x1 x2 => .inl ⟨_, _, _, rfl, rfl, by decide⟩
theorem OneWord.shl : ∀ x0 x1 x2 x3, OneWord.Statement (.shl x0 x1 x2 x3) := fun x0 x1 x2 x3 => .inl ⟨_, _, _, rfl, rfl, by decide⟩
theorem OneWord.shr : ∀ x0 x1 x2 x3, OneWord.Statement (.shr x0 x1 x2 x3) := fun x0 x1 x2 x3 => .inl ⟨_, _, _, rfl, rfl, by decide⟩
theorem OneWord.sar : ∀ x0 x1 x2 x3, OneWord.Statement (.sar x0 x1 x2 x3) := fun x0 x1 x2 x3 => .inl ⟨_, _, _, rfl, rfl, by decide⟩
theorem OneWord.rotl : ∀ x0 x1 x2 x3, OneWord.Statement (.rotl x0 x1 x2 x3) := fun x0 x1 x2 x3 => .inl ⟨_, _, _, rfl, rfl, by decide⟩
theorem OneWord.popc : ∀ x0 x1 x2, OneWord.Statement (.popc x0 x1 x2) := fun x0 x1 x2 => .inl ⟨_, _, _, rfl, rfl, by decide⟩
theorem OneWord.clz : ∀ x0 x1 x2, OneWord.Statement (.clz x0 x1 x2) := fun x0 x1 x2 => .inl ⟨_, _, _, rfl, rfl, by decide⟩
theorem OneWord.ctz : ∀ x0 x1 x2, OneWord.Statement (.ctz x0 x1 x2) := fun x0 x1 x2 => .inl ⟨_, _, _, rfl, rfl, by decide⟩
theorem OneWord.brev : ∀ x0 x1 x2, OneWord.Statement (.brev x0 x1 x2) := fun x0 x1 x2 => .inl ⟨_, _, _, rfl, rfl, by decide⟩
theorem OneWord.bfe : ∀ x0 x1 x2 x3 x4, OneWord.Statement (.bfe x0 x1 x2 x3 x4) := fun x0 x1 x2 x3 x4 => .inl ⟨_, _, _, rfl, rfl, by decide⟩
theorem OneWord.bfi : ∀ x0 x1 x2 x3 x4, OneWord.Statement (.bfi x0 x1 x2 x3 x4) := fun x0 x1 x2 x3 x4 => .inl ⟨_, _, _, rfl, rfl, by decide⟩
theorem OneWord.bytex : ∀ x0 x1 x2 x3 x4, OneWord.Statement (.bytex x0 x1 x2 x3 x4) := fun x0 x1 x2 x3 x4 => .inl ⟨_, _, _, rfl, rfl, by decide⟩
theorem OneWord.sel : ∀ x0 x1 x2 x3 x4 x5, OneWord.Statement (.sel x0 x1 x2 x3 x4 x5) := fun x0 x1 x2 x3 x4 x5 => .inl ⟨_, _, _, rfl, rfl, by decide⟩
theorem OneWord.mov : ∀ x0 x1 x2 x3, OneWord.Statement (.mov x0 x1 x2 x3) := fun x0 x1 x2 x3 => .inl ⟨_, _, _, rfl, rfl, by decide⟩
theorem OneWord.lea : ∀ x0 x1 x2 x3 x4 x5 x6, OneWord.Statement (.lea x0 x1 x2 x3 x4 x5 x6) := fun x0 x1 x2 x3 x4 x5 x6 => .inl ⟨_, _, _, rfl, rfl, by decide⟩
theorem OneWord.iaddImm : ∀ x0 x1 x2 x3, OneWord.Statement (.iaddImm x0 x1 x2 x3) := fun x0 x1 x2 x3 => .inl ⟨_, _, _, rfl, rfl, by decide⟩
theorem OneWord.isubImm : ∀ x0 x1 x2 x3, OneWord.Statement (.isubImm x0 x1 x2 x3) := fun x0 x1 x2 x3 => .inl ⟨_, _, _, rfl, rfl, by decide⟩
theorem OneWord.imulImm : ∀ x0 x1 x2 x3, OneWord.Statement (.imulImm x0 x1 x2 x3) := fun x0 x1 x2 x3 => .inl ⟨_, _, _, rfl, rfl, by decide⟩
theorem OneWord.iminImmS : ∀ x0 x1 x2 x3, OneWord.Statement (.iminImmS x0 x1 x2 x3) := fun x0 x1 x2 x3 => .inl ⟨_, _, _, rfl, rfl, by decide⟩
theorem OneWord.iminImmU : ∀ x0 x1 x2 x3, OneWord.Statement (.iminImmU x0 x1 x2 x3) := fun x0 x1 x2 x3 => .inl ⟨_, _, _, rfl, rfl, by decide⟩
theorem OneWord.imaxImmS : ∀ x0 x1 x2 x3, OneWord.Statement (.imaxImmS x0 x1 x2 x3) := fun x0 x1 x2 x3 => .inl ⟨_, _, _, rfl, rfl, by decide⟩
theorem OneWord.imaxImmU : ∀ x0 x1 x2 x3, OneWord.Statement (.imaxImmU x0 x1 x2 x3) := fun x0 x1 x2 x3 => .inl ⟨_, _, _, rfl, rfl, by decide⟩
theorem OneWord.andImm : ∀ x0 x1 x2 x3, OneWord.Statement (.andImm x0 x1 x2 x3) := fun x0 x1 x2 x3 => .inl ⟨_, _, _, rfl, rfl, by decide⟩
theorem OneWord.orImm : ∀ x0 x1 x2 x3, OneWord.Statement (.orImm x0 x1 x2 x3) := fun x0 x1 x2 x3 => .inl ⟨_, _, _, rfl, rfl, by decide⟩
theorem OneWord.xorImm : ∀ x0 x1 x2 x3, OneWord.Statement (.xorImm x0 x1 x2 x3) := fun x0 x1 x2 x3 => .inl ⟨_, _, _, rfl, rfl, by decide⟩
theorem OneWord.andnImm : ∀ x0 x1 x2 x3, OneWord.Statement (.andnImm x0 x1 x2 x3) := fun x0 x1 x2 x3 => .inl ⟨_, _, _, rfl, rfl, by decide⟩
theorem OneWord.ornImm : ∀ x0 x1 x2 x3, OneWord.Statement (.ornImm x0 x1 x2 x3) := fun x0 x1 x2 x3 => .inl ⟨_, _, _, rfl, rfl, by decide⟩
theorem OneWord.shlImm : ∀ x0 x1 x2 x3, OneWord.Statement (.shlImm x0 x1 x2 x3) := fun x0 x1 x2 x3 => .inl ⟨_, _, _, rfl, rfl, by decide⟩
theorem OneWord.shrImm : ∀ x0 x1 x2 x3, OneWord.Statement (.shrImm x0 x1 x2 x3) := fun x0 x1 x2 x3 => .inl ⟨_, _, _, rfl, rfl, by decide⟩
theorem OneWord.sarImm : ∀ x0 x1 x2 x3, OneWord.Statement (.sarImm x0 x1 x2 x3) := fun x0 x1 x2 x3 => .inl ⟨_, _, _, rfl, rfl, by decide⟩
theorem OneWord.rotlImm : ∀ x0 x1 x2 x3, OneWord.Statement (.rotlImm x0 x1 x2 x3) := fun x0 x1 x2 x3 => .inl ⟨_, _, _, rfl, rfl, by decide⟩
theorem OneWord.movi : ∀ x0 x1 x2, OneWord.Statement (.movi x0 x1 x2) := fun x0 x1 x2 => .inl ⟨_, _, _, rfl, rfl, by decide⟩
theorem OneWord.moviB64 : ∀ x0 x1 x2, OneWord.Statement (.moviB64 x0 x1 x2) := fun x0 x1 x2 => .inl ⟨_, _, _, rfl, rfl, by decide⟩
theorem OneWord.leaImm : ∀ x0 x1 x2 x3, OneWord.Statement (.leaImm x0 x1 x2 x3) := fun x0 x1 x2 x3 => .inl ⟨_, _, _, rfl, rfl, by decide⟩
theorem OneWord.leaWImm : ∀ x0 x1 x2 x3, OneWord.Statement (.leaWImm x0 x1 x2 x3) := fun x0 x1 x2 x3 => .inl ⟨_, _, _, rfl, rfl, by decide⟩
theorem OneWord.isetp : ∀ x0 x1 x2 x3 x4 x5 x6 x7 x8, OneWord.Statement (.isetp x0 x1 x2 x3 x4 x5 x6 x7 x8) := fun x0 x1 x2 x3 x4 x5 x6 x7 x8 => .inl ⟨_, _, _, rfl, rfl, by decide⟩
theorem OneWord.isetpImm : ∀ x0 x1 x2 x3 x4, OneWord.Statement (.isetpImm x0 x1 x2 x3 x4) := fun x0 x1 x2 x3 x4 => .inl ⟨_, _, _, rfl, rfl, by decide⟩
theorem OneWord.plop : ∀ x0 x1 x2 x3 x4 x5, OneWord.Statement (.plop x0 x1 x2 x3 x4 x5) := fun x0 x1 x2 x3 x4 x5 => .inl ⟨_, _, _, rfl, rfl, by decide⟩
theorem OneWord.p2v : ∀ x0 x1, OneWord.Statement (.p2v x0 x1) := fun x0 x1 => .inl ⟨_, _, _, rfl, rfl, by decide⟩
theorem OneWord.v2p : ∀ x0 x1 x2, OneWord.Statement (.v2p x0 x1 x2) := fun x0 x1 x2 => .inl ⟨_, _, _, rfl, rfl, by decide⟩
theorem OneWord.sadd : ∀ x0 x1 x2 x3, OneWord.Statement (.sadd x0 x1 x2 x3) := fun x0 x1 x2 x3 => .inl ⟨_, _, _, rfl, rfl, by decide⟩
theorem OneWord.ssub : ∀ x0 x1 x2 x3, OneWord.Statement (.ssub x0 x1 x2 x3) := fun x0 x1 x2 x3 => .inl ⟨_, _, _, rfl, rfl, by decide⟩
theorem OneWord.smul : ∀ x0 x1 x2 x3, OneWord.Statement (.smul x0 x1 x2 x3) := fun x0 x1 x2 x3 => .inl ⟨_, _, _, rfl, rfl, by decide⟩
theorem OneWord.sshl : ∀ x0 x1 x2 x3, OneWord.Statement (.sshl x0 x1 x2 x3) := fun x0 x1 x2 x3 => .inl ⟨_, _, _, rfl, rfl, by decide⟩
theorem OneWord.sshr : ∀ x0 x1 x2 x3, OneWord.Statement (.sshr x0 x1 x2 x3) := fun x0 x1 x2 x3 => .inl ⟨_, _, _, rfl, rfl, by decide⟩
theorem OneWord.sshrS : ∀ x0 x1 x2 x3, OneWord.Statement (.sshrS x0 x1 x2 x3) := fun x0 x1 x2 x3 => .inl ⟨_, _, _, rfl, rfl, by decide⟩
theorem OneWord.sand : ∀ x0 x1 x2 x3, OneWord.Statement (.sand x0 x1 x2 x3) := fun x0 x1 x2 x3 => .inl ⟨_, _, _, rfl, rfl, by decide⟩
theorem OneWord.sor : ∀ x0 x1 x2 x3, OneWord.Statement (.sor x0 x1 x2 x3) := fun x0 x1 x2 x3 => .inl ⟨_, _, _, rfl, rfl, by decide⟩
theorem OneWord.sxor : ∀ x0 x1 x2 x3, OneWord.Statement (.sxor x0 x1 x2 x3) := fun x0 x1 x2 x3 => .inl ⟨_, _, _, rfl, rfl, by decide⟩
theorem OneWord.smov : ∀ x0 x1 x2, OneWord.Statement (.smov x0 x1 x2) := fun x0 x1 x2 => .inl ⟨_, _, _, rfl, rfl, by decide⟩
theorem OneWord.smovi : ∀ x0 x1 x2, OneWord.Statement (.smovi x0 x1 x2) := fun x0 x1 x2 => .inl ⟨_, _, _, rfl, rfl, by decide⟩
theorem OneWord.sli : ∀ x0 x1 x2 x3, OneWord.Statement (.sli x0 x1 x2 x3) := fun x0 x1 x2 x3 => .inl ⟨_, _, _, rfl, rfl, by decide⟩
theorem OneWord.ssetp : ∀ x0 x1 x2 x3 x4, OneWord.Statement (.ssetp x0 x1 x2 x3 x4) := fun x0 x1 x2 x3 x4 => .inl ⟨_, _, _, rfl, rfl, by decide⟩
theorem OneWord.s2v : ∀ x0 x1 x2 x3, OneWord.Statement (.s2v x0 x1 x2 x3) := fun x0 x1 x2 x3 => .inl ⟨_, _, _, rfl, rfl, by decide⟩
theorem OneWord.vread : ∀ x0 x1 x2 x3 x4, OneWord.Statement (.vread x0 x1 x2 x3 x4) := fun x0 x1 x2 x3 x4 => .inl ⟨_, _, _, rfl, rfl, by decide⟩
theorem OneWord.fadd : ∀ x0 x1 x2 x3 x4, OneWord.Statement (.fadd x0 x1 x2 x3 x4) := fun x0 x1 x2 x3 x4 => .inl ⟨_, _, _, rfl, rfl, by decide⟩
theorem OneWord.fsub : ∀ x0 x1 x2 x3 x4, OneWord.Statement (.fsub x0 x1 x2 x3 x4) := fun x0 x1 x2 x3 x4 => .inl ⟨_, _, _, rfl, rfl, by decide⟩
theorem OneWord.fmul : ∀ x0 x1 x2 x3 x4, OneWord.Statement (.fmul x0 x1 x2 x3 x4) := fun x0 x1 x2 x3 x4 => .inl ⟨_, _, _, rfl, rfl, by decide⟩
theorem OneWord.ffma : ∀ x0 x1 x2 x3 x4 x5, OneWord.Statement (.ffma x0 x1 x2 x3 x4 x5) := fun x0 x1 x2 x3 x4 x5 => .inl ⟨_, _, _, rfl, rfl, by decide⟩
theorem OneWord.fmin : ∀ x0 x1 x2 x3 x4 x5, OneWord.Statement (.fmin x0 x1 x2 x3 x4 x5) := fun x0 x1 x2 x3 x4 x5 => .inl ⟨_, _, _, rfl, rfl, by decide⟩
theorem OneWord.fmax : ∀ x0 x1 x2 x3 x4 x5, OneWord.Statement (.fmax x0 x1 x2 x3 x4 x5) := fun x0 x1 x2 x3 x4 x5 => .inl ⟨_, _, _, rfl, rfl, by decide⟩
theorem OneWord.fround : ∀ x0 x1 x2 x3 x4, OneWord.Statement (.fround x0 x1 x2 x3 x4) := fun x0 x1 x2 x3 x4 => .inl ⟨_, _, _, rfl, rfl, by decide⟩
theorem OneWord.fclass : ∀ x0 x1 x2 x3 x4, OneWord.Statement (.fclass x0 x1 x2 x3 x4) := fun x0 x1 x2 x3 x4 => .inl ⟨_, _, _, rfl, rfl, by decide⟩
theorem OneWord.frcp : ∀ x0 x1 x2 x3, OneWord.Statement (.frcp x0 x1 x2 x3) := fun x0 x1 x2 x3 => .inl ⟨_, _, _, rfl, rfl, by decide⟩
theorem OneWord.frsq : ∀ x0 x1 x2 x3, OneWord.Statement (.frsq x0 x1 x2 x3) := fun x0 x1 x2 x3 => .inl ⟨_, _, _, rfl, rfl, by decide⟩
theorem OneWord.fsqrt : ∀ x0 x1 x2 x3 x4, OneWord.Statement (.fsqrt x0 x1 x2 x3 x4) := fun x0 x1 x2 x3 x4 => .inl ⟨_, _, _, rfl, rfl, by decide⟩
theorem OneWord.fex2 : ∀ x0 x1 x2 x3, OneWord.Statement (.fex2 x0 x1 x2 x3) := fun x0 x1 x2 x3 => .inl ⟨_, _, _, rfl, rfl, by decide⟩
theorem OneWord.flg2 : ∀ x0 x1 x2 x3, OneWord.Statement (.flg2 x0 x1 x2 x3) := fun x0 x1 x2 x3 => .inl ⟨_, _, _, rfl, rfl, by decide⟩
theorem OneWord.fsin : ∀ x0 x1 x2 x3, OneWord.Statement (.fsin x0 x1 x2 x3) := fun x0 x1 x2 x3 => .inl ⟨_, _, _, rfl, rfl, by decide⟩
theorem OneWord.fcos : ∀ x0 x1 x2 x3, OneWord.Statement (.fcos x0 x1 x2 x3) := fun x0 x1 x2 x3 => .inl ⟨_, _, _, rfl, rfl, by decide⟩
theorem OneWord.ftanh : ∀ x0 x1 x2 x3, OneWord.Statement (.ftanh x0 x1 x2 x3) := fun x0 x1 x2 x3 => .inl ⟨_, _, _, rfl, rfl, by decide⟩
theorem OneWord.padd2 : ∀ x0 x1 x2 x3 x4 x5, OneWord.Statement (.padd2 x0 x1 x2 x3 x4 x5) := fun x0 x1 x2 x3 x4 x5 => .inl ⟨_, _, _, rfl, rfl, by decide⟩
theorem OneWord.pmul2 : ∀ x0 x1 x2 x3 x4 x5, OneWord.Statement (.pmul2 x0 x1 x2 x3 x4 x5) := fun x0 x1 x2 x3 x4 x5 => .inl ⟨_, _, _, rfl, rfl, by decide⟩
theorem OneWord.pfma2 : ∀ x0 x1 x2 x3 x4 x5 x6, OneWord.Statement (.pfma2 x0 x1 x2 x3 x4 x5 x6) := fun x0 x1 x2 x3 x4 x5 x6 => .inl ⟨_, _, _, rfl, rfl, by decide⟩
theorem OneWord.pdot2 : ∀ x0 x1 x2 x3 x4 x5 x6, OneWord.Statement (.pdot2 x0 x1 x2 x3 x4 x5 x6) := fun x0 x1 x2 x3 x4 x5 x6 => .inl ⟨_, _, _, rfl, rfl, by decide⟩
theorem OneWord.dadd : ∀ x0 x1 x2 x3 x4, OneWord.Statement (.dadd x0 x1 x2 x3 x4) := fun x0 x1 x2 x3 x4 => .inl ⟨_, _, _, rfl, rfl, by decide⟩
theorem OneWord.dmul : ∀ x0 x1 x2 x3 x4, OneWord.Statement (.dmul x0 x1 x2 x3 x4) := fun x0 x1 x2 x3 x4 => .inl ⟨_, _, _, rfl, rfl, by decide⟩
theorem OneWord.dfma : ∀ x0 x1 x2 x3 x4 x5, OneWord.Statement (.dfma x0 x1 x2 x3 x4 x5) := fun x0 x1 x2 x3 x4 x5 => .inl ⟨_, _, _, rfl, rfl, by decide⟩
theorem OneWord.dmin : ∀ x0 x1 x2 x3 x4 x5, OneWord.Statement (.dmin x0 x1 x2 x3 x4 x5) := fun x0 x1 x2 x3 x4 x5 => .inl ⟨_, _, _, rfl, rfl, by decide⟩
theorem OneWord.dmax : ∀ x0 x1 x2 x3 x4 x5, OneWord.Statement (.dmax x0 x1 x2 x3 x4 x5) := fun x0 x1 x2 x3 x4 x5 => .inl ⟨_, _, _, rfl, rfl, by decide⟩
theorem OneWord.drcpa : ∀ x0 x1 x2 x3, OneWord.Statement (.drcpa x0 x1 x2 x3) := fun x0 x1 x2 x3 => .inl ⟨_, _, _, rfl, rfl, by decide⟩
theorem OneWord.cvtf : ∀ x0 x1 x2 x3, OneWord.Statement (.cvtf x0 x1 x2 x3) := fun x0 x1 x2 x3 => .inl ⟨_, _, _, rfl, rfl, by decide⟩
theorem OneWord.cvti : ∀ x0 x1 x2 x3, OneWord.Statement (.cvti x0 x1 x2 x3) := fun x0 x1 x2 x3 => .inl ⟨_, _, _, rfl, rfl, by decide⟩
theorem OneWord.cvtif : ∀ x0 x1 x2 x3, OneWord.Statement (.cvtif x0 x1 x2 x3) := fun x0 x1 x2 x3 => .inl ⟨_, _, _, rfl, rfl, by decide⟩
theorem OneWord.mxpack : ∀ x0 x1 x2 x3 x4 x5 x6, OneWord.Statement (.mxpack x0 x1 x2 x3 x4 x5 x6) := fun x0 x1 x2 x3 x4 x5 x6 => .inl ⟨_, _, _, rfl, rfl, by decide⟩
theorem OneWord.mxunpack : ∀ x0 x1 x2 x3 x4 x5 x6 x7 x8, OneWord.Statement (.mxunpack x0 x1 x2 x3 x4 x5 x6 x7 x8) := fun x0 x1 x2 x3 x4 x5 x6 x7 x8 => .inl ⟨_, _, _, rfl, rfl, by decide⟩
theorem OneWord.fsetp : ∀ x0 x1 x2 x3 x4 x5 x6 x7, OneWord.Statement (.fsetp x0 x1 x2 x3 x4 x5 x6 x7) := fun x0 x1 x2 x3 x4 x5 x6 x7 => .inl ⟨_, _, _, rfl, rfl, by decide⟩
theorem OneWord.dsetp : ∀ x0 x1 x2 x3 x4 x5 x6 x7, OneWord.Statement (.dsetp x0 x1 x2 x3 x4 x5 x6 x7) := fun x0 x1 x2 x3 x4 x5 x6 x7 => .inl ⟨_, _, _, rfl, rfl, by decide⟩
theorem OneWord.ld : ∀ x0 x1 x2, OneWord.Statement (.ld x0 x1 x2) := fun x0 x1 x2 => .inl ⟨_, _, _, rfl, rfl, by decide⟩
theorem OneWord.st : ∀ x0 x1 x2, OneWord.Statement (.st x0 x1 x2) := fun x0 x1 x2 => .inl ⟨_, _, _, rfl, rfl, by decide⟩
theorem OneWord.ldp : ∀ x0 x1 x2, OneWord.Statement (.ldp x0 x1 x2) := fun x0 x1 x2 => .inl ⟨_, _, _, rfl, rfl, by decide⟩
theorem OneWord.atom : ∀ x0 x1 x2, OneWord.Statement (.atom x0 x1 x2) := fun x0 x1 x2 => .inl ⟨_, _, _, rfl, rfl, by decide⟩
theorem OneWord.red : ∀ x0 x1 x2, OneWord.Statement (.red x0 x1 x2) := fun x0 x1 x2 => .inl ⟨_, _, _, rfl, rfl, by decide⟩
theorem OneWord.fenceAcq : ∀ x0 x1 x2, OneWord.Statement (.fenceAcq x0 x1 x2) := fun x0 x1 x2 => .inl ⟨_, _, _, rfl, rfl, by decide⟩
theorem OneWord.fenceRel : ∀ x0 x1 x2, OneWord.Statement (.fenceRel x0 x1 x2) := fun x0 x1 x2 => .inl ⟨_, _, _, rfl, rfl, by decide⟩
theorem OneWord.fenceAr : ∀ x0 x1 x2, OneWord.Statement (.fenceAr x0 x1 x2) := fun x0 x1 x2 => .inl ⟨_, _, _, rfl, rfl, by decide⟩
theorem OneWord.fenceFull : ∀ x0 x1 x2, OneWord.Statement (.fenceFull x0 x1 x2) := fun x0 x1 x2 => .inl ⟨_, _, _, rfl, rfl, by decide⟩
theorem OneWord.prefetch : ∀ x0 x1 x2 x3 x4, OneWord.Statement (.prefetch x0 x1 x2 x3 x4) := fun x0 x1 x2 x3 x4 => .inl ⟨_, _, _, rfl, rfl, by decide⟩
theorem OneWord.hflush : ∀ x0 x1, OneWord.Statement (.hflush x0 x1) := fun x0 x1 => .inl ⟨_, _, _, rfl, rfl, by decide⟩
theorem OneWord.cp : ∀ x0 x1 x2, OneWord.Statement (.cp x0 x1 x2) := fun x0 x1 x2 => .inl ⟨_, _, _, rfl, rfl, by decide⟩
theorem OneWord.cp2d : ∀ x0 x1 x2, OneWord.Statement (.cp2d x0 x1 x2) := fun x0 x1 x2 => .inl ⟨_, _, _, rfl, rfl, by decide⟩
theorem OneWord.cpretile : ∀ x0 x1, OneWord.Statement (.cpretile x0 x1) := fun x0 x1 => .inl ⟨_, _, _, rfl, rfl, by decide⟩
theorem OneWord.cpkey : ∀ x0 x1, OneWord.Statement (.cpkey x0 x1) := fun x0 x1 => .inl ⟨_, _, _, rfl, rfl, by decide⟩
theorem OneWord.cpfill : ∀ x0 x1 x2, OneWord.Statement (.cpfill x0 x1 x2) := fun x0 x1 x2 => .inl ⟨_, _, _, rfl, rfl, by decide⟩
theorem OneWord.cpbank : ∀ x0 x1 x2, OneWord.Statement (.cpbank x0 x1 x2) := fun x0 x1 x2 => .inl ⟨_, _, _, rfl, rfl, by decide⟩
theorem OneWord.qpush : ∀ x0 x1 x2 x3 x4 x5, OneWord.Statement (.qpush x0 x1 x2 x3 x4 x5) := fun x0 x1 x2 x3 x4 x5 => .inl ⟨_, _, _, rfl, rfl, by decide⟩
theorem OneWord.qpop : ∀ x0 x1 x2 x3 x4 x5, OneWord.Statement (.qpop x0 x1 x2 x3 x4 x5) := fun x0 x1 x2 x3 x4 x5 => .inl ⟨_, _, _, rfl, rfl, by decide⟩
theorem OneWord.qtryPush : ∀ x0 x1 x2 x3 x4 x5 x6, OneWord.Statement (.qtryPush x0 x1 x2 x3 x4 x5 x6) := fun x0 x1 x2 x3 x4 x5 x6 => .inl ⟨_, _, _, rfl, rfl, by decide⟩
theorem OneWord.qtryPop : ∀ x0 x1 x2 x3 x4 x5 x6, OneWord.Statement (.qtryPop x0 x1 x2 x3 x4 x5 x6) := fun x0 x1 x2 x3 x4 x5 x6 => .inl ⟨_, _, _, rfl, rfl, by decide⟩
theorem OneWord.qstat : ∀ x0 x1 x2 x3, OneWord.Statement (.qstat x0 x1 x2 x3) := fun x0 x1 x2 x3 => .inl ⟨_, _, _, rfl, rfl, by decide⟩
theorem OneWord.bra : ∀ x0 x1 x2, OneWord.Statement (.bra x0 x1 x2) := fun x0 x1 x2 => .inl ⟨_, _, _, rfl, rfl, by decide⟩
theorem OneWord.dbra : ∀ x0 x1 x2 x3, OneWord.Statement (.dbra x0 x1 x2 x3) := fun x0 x1 x2 x3 => .inl ⟨_, _, _, rfl, rfl, by decide⟩
theorem OneWord.brx : ∀ x0 x1 x2, OneWord.Statement (.brx x0 x1 x2) := fun x0 x1 x2 => .inl ⟨_, _, _, rfl, rfl, by decide⟩
theorem OneWord.call : ∀ x0 x1 x2 x3, OneWord.Statement (.call x0 x1 x2 x3) := fun x0 x1 x2 x3 => .inl ⟨_, _, _, rfl, rfl, by decide⟩
theorem OneWord.callR : ∀ x0 x1 x2, OneWord.Statement (.callR x0 x1 x2) := fun x0 x1 x2 => .inl ⟨_, _, _, rfl, rfl, by decide⟩
theorem OneWord.ret : ∀ x0 x1 x2, OneWord.Statement (.ret x0 x1 x2) := fun x0 x1 x2 => .inl ⟨_, _, _, rfl, rfl, by decide⟩
theorem OneWord.exit : ∀ x0, OneWord.Statement (.exit x0) := fun x0 => .inl ⟨_, _, _, rfl, rfl, by decide⟩
theorem OneWord.nop : ∀ x0, OneWord.Statement (.nop x0) := fun x0 => .inl ⟨_, _, _, rfl, rfl, by decide⟩
theorem OneWord.sleep : ∀ x0 x1, OneWord.Statement (.sleep x0 x1) := fun x0 x1 => .inl ⟨_, _, _, rfl, rfl, by decide⟩
theorem OneWord.phase : ∀ x0 x1 x2, OneWord.Statement (.phase x0 x1 x2) := fun x0 x1 x2 => .inl ⟨_, _, _, rfl, rfl, by decide⟩
theorem OneWord.voteAll : ∀ x0 x1 x2 x3, OneWord.Statement (.voteAll x0 x1 x2 x3) := fun x0 x1 x2 x3 => .inl ⟨_, _, _, rfl, rfl, by decide⟩
theorem OneWord.voteAny : ∀ x0 x1 x2 x3, OneWord.Statement (.voteAny x0 x1 x2 x3) := fun x0 x1 x2 x3 => .inl ⟨_, _, _, rfl, rfl, by decide⟩
theorem OneWord.voteUni : ∀ x0 x1 x2 x3, OneWord.Statement (.voteUni x0 x1 x2 x3) := fun x0 x1 x2 x3 => .inl ⟨_, _, _, rfl, rfl, by decide⟩
theorem OneWord.ballot : ∀ x0 x1 x2 x3, OneWord.Statement (.ballot x0 x1 x2 x3) := fun x0 x1 x2 x3 => .inl ⟨_, _, _, rfl, rfl, by decide⟩
theorem OneWord.xlaneLane : ∀ x0 x1 x2 x3 x4, OneWord.Statement (.xlaneLane x0 x1 x2 x3 x4) := fun x0 x1 x2 x3 x4 => .inl ⟨_, _, _, rfl, rfl, by decide⟩
theorem OneWord.xlaneRot : ∀ x0 x1 x2 x3 x4, OneWord.Statement (.xlaneRot x0 x1 x2 x3 x4) := fun x0 x1 x2 x3 x4 => .inl ⟨_, _, _, rfl, rfl, by decide⟩
theorem OneWord.xlaneXor : ∀ x0 x1 x2 x3 x4, OneWord.Statement (.xlaneXor x0 x1 x2 x3 x4) := fun x0 x1 x2 x3 x4 => .inl ⟨_, _, _, rfl, rfl, by decide⟩
theorem OneWord.xlaneRev : ∀ x0 x1 x2 x3, OneWord.Statement (.xlaneRev x0 x1 x2 x3) := fun x0 x1 x2 x3 => .inl ⟨_, _, _, rfl, rfl, by decide⟩
theorem OneWord.redq : ∀ x0 x1 x2 x3 x4 x5, OneWord.Statement (.redq x0 x1 x2 x3 x4 x5) := fun x0 x1 x2 x3 x4 x5 => .inl ⟨_, _, _, rfl, rfl, by decide⟩
theorem OneWord.scanq : ∀ x0 x1 x2 x3 x4 x5, OneWord.Statement (.scanq x0 x1 x2 x3 x4 x5) := fun x0 x1 x2 x3 x4 x5 => .inl ⟨_, _, _, rfl, rfl, by decide⟩
theorem OneWord.matchSame : ∀ x0 x1 x2 x3, OneWord.Statement (.matchSame x0 x1 x2 x3) := fun x0 x1 x2 x3 => .inl ⟨_, _, _, rfl, rfl, by decide⟩
theorem OneWord.matchPeers : ∀ x0 x1 x2 x3, OneWord.Statement (.matchPeers x0 x1 x2 x3) := fun x0 x1 x2 x3 => .inl ⟨_, _, _, rfl, rfl, by decide⟩
theorem OneWord.matchLead : ∀ x0 x1 x2 x3, OneWord.Statement (.matchLead x0 x1 x2 x3) := fun x0 x1 x2 x3 => .inl ⟨_, _, _, rfl, rfl, by decide⟩
theorem OneWord.join : ∀ x0 x1 x2, OneWord.Statement (.join x0 x1 x2) := fun x0 x1 x2 => .inl ⟨_, _, _, rfl, rfl, by decide⟩
theorem OneWord.leave : ∀ x0 x1 x2, OneWord.Statement (.leave x0 x1 x2) := fun x0 x1 x2 => .inl ⟨_, _, _, rfl, rfl, by decide⟩
theorem OneWord.gbar : ∀ x0 x1 x2, OneWord.Statement (.gbar x0 x1 x2) := fun x0 x1 x2 => .inl ⟨_, _, _, rfl, rfl, by decide⟩
theorem OneWord.pbar : ∀ x0 x1 x2 x3, OneWord.Statement (.pbar x0 x1 x2 x3) := fun x0 x1 x2 x3 => .inl ⟨_, _, _, rfl, rfl, by decide⟩
theorem OneWord.regclaim : ∀ x0 x1, OneWord.Statement (.regclaim x0 x1) := fun x0 x1 => .inl ⟨_, _, _, rfl, rfl, by decide⟩
theorem OneWord.regrel : ∀ x0 x1, OneWord.Statement (.regrel x0 x1) := fun x0 x1 => .inl ⟨_, _, _, rfl, rfl, by decide⟩
theorem OneWord.sget : ∀ x0 x1 x2 x3 x4, OneWord.Statement (.sget x0 x1 x2 x3 x4) := fun x0 x1 x2 x3 x4 => .inl ⟨_, _, _, rfl, rfl, by decide⟩
theorem OneWord.bmode : ∀ x0 x1 x2 x3, OneWord.Statement (.bmode x0 x1 x2 x3) := fun x0 x1 x2 x3 => .inl ⟨_, _, _, rfl, rfl, by decide⟩
theorem OneWord.bclr : ∀ x0 x1 x2 x3, OneWord.Statement (.bclr x0 x1 x2 x3) := fun x0 x1 x2 x3 => .inl ⟨_, _, _, rfl, rfl, by decide⟩
theorem OneWord.bwait : ∀ x0 x1 x2 x3, OneWord.Statement (.bwait x0 x1 x2 x3) := fun x0 x1 x2 x3 => .inl ⟨_, _, _, rfl, rfl, by decide⟩
theorem OneWord.bkey : ∀ x0 x1 x2 x3 x4 x5 x6 x7, OneWord.Statement (.bkey x0 x1 x2 x3 x4 x5 x6 x7) := fun x0 x1 x2 x3 x4 x5 x6 x7 => .inl ⟨_, _, _, rfl, rfl, by decide⟩
theorem OneWord.bkscale : ∀ x0 x1 x2 x3 x4 x5 x6 x7, OneWord.Statement (.bkscale x0 x1 x2 x3 x4 x5 x6 x7) := fun x0 x1 x2 x3 x4 x5 x6 x7 => .inl ⟨_, _, _, rfl, rfl, by decide⟩
theorem OneWord.bmvm : ∀ x0 x1 x2 x3 x4 x5 x6 x7 x8, OneWord.Statement (.bmvm x0 x1 x2 x3 x4 x5 x6 x7 x8) := fun x0 x1 x2 x3 x4 x5 x6 x7 x8 => .inl ⟨_, _, _, rfl, rfl, by decide⟩
theorem OneWord.bexec : ∀ x0 x1 x2 x3 x4 x5 x6, OneWord.Statement (.bexec x0 x1 x2 x3 x4 x5 x6) := fun x0 x1 x2 x3 x4 x5 x6 => .inl ⟨_, _, _, rfl, rfl, by decide⟩
theorem OneWord.bcw : ∀ x0 x1 x2 x3 x4, OneWord.Statement (.bcw x0 x1 x2 x3 x4) := fun x0 x1 x2 x3 x4 => .inl ⟨_, _, _, rfl, rfl, by decide⟩
theorem OneWord.bct : ∀ x0 x1 x2 x3 x4, OneWord.Statement (.bct x0 x1 x2 x3 x4) := fun x0 x1 x2 x3 x4 => .inl ⟨_, _, _, rfl, rfl, by decide⟩
theorem OneWord.btw : ∀ x0 x1 x2 x3 x4, OneWord.Statement (.btw x0 x1 x2 x3 x4) := fun x0 x1 x2 x3 x4 => .inl ⟨_, _, _, rfl, rfl, by decide⟩
theorem OneWord.btt : ∀ x0 x1 x2 x3 x4, OneWord.Statement (.btt x0 x1 x2 x3 x4) := fun x0 x1 x2 x3 x4 => .inl ⟨_, _, _, rfl, rfl, by decide⟩
theorem OneWord.bcnt : ∀ x0 x1 x2 x3 x4 x5, OneWord.Statement (.bcnt x0 x1 x2 x3 x4 x5) := fun x0 x1 x2 x3 x4 x5 => .inl ⟨_, _, _, rfl, rfl, by decide⟩
theorem OneWord.bfirst : ∀ x0 x1 x2 x3 x4 x5, OneWord.Statement (.bfirst x0 x1 x2 x3 x4 x5) := fun x0 x1 x2 x3 x4 x5 => .inl ⟨_, _, _, rfl, rfl, by decide⟩
theorem OneWord.bacc : ∀ x0 x1 x2 x3 x4 x5 x6, OneWord.Statement (.bacc x0 x1 x2 x3 x4 x5 x6) := fun x0 x1 x2 x3 x4 x5 x6 => .inl ⟨_, _, _, rfl, rfl, by decide⟩
theorem OneWord.bcodex : ∀ x0 x1 x2 x3 x4, OneWord.Statement (.bcodex x0 x1 x2 x3 x4) := fun x0 x1 x2 x3 x4 => .inl ⟨_, _, _, rfl, rfl, by decide⟩
theorem OneWord.sysrd : ∀ x0 x1 x2, OneWord.Statement (.sysrd x0 x1 x2) := fun x0 x1 x2 => .inl ⟨_, _, _, rfl, rfl, by decide⟩
theorem OneWord.syswr : ∀ x0 x1 x2, OneWord.Statement (.syswr x0 x1 x2) := fun x0 x1 x2 => .inl ⟨_, _, _, rfl, rfl, by decide⟩
theorem OneWord.trap : ∀ x0 x1, OneWord.Statement (.trap x0 x1) := fun x0 x1 => .inl ⟨_, _, _, rfl, rfl, by decide⟩
theorem OneWord.eret : ∀ x0, OneWord.Statement (.eret x0) := fun x0 => .inl ⟨_, _, _, rfl, rfl, by decide⟩
theorem OneWord.eretNext : ∀ x0, OneWord.Statement (.eretNext x0) := fun x0 => .inl ⟨_, _, _, rfl, rfl, by decide⟩
theorem OneWord.brk : ∀ x0 x1, OneWord.Statement (.brk x0 x1) := fun x0 x1 => .inl ⟨_, _, _, rfl, rfl, by decide⟩
theorem OneWord.bunbind : ∀ x0, OneWord.Statement (.bunbind x0) := fun x0 => .inl ⟨_, _, _, rfl, rfl, by decide⟩
theorem OneWord.bindnow : ∀ x0 x1, OneWord.Statement (.bindnow x0 x1) := fun x0 x1 => .inl ⟨_, _, _, rfl, rfl, by decide⟩
theorem OneWord.recoveryImage : ∀ x0 x1, OneWord.Statement (.recoveryImage x0 x1) := fun _ _ => .inr ⟨rfl, rfl⟩
theorem OneWord.thermalThrottle : ∀ x0 x1, OneWord.Statement (.thermalThrottle x0 x1) := fun _ _ => .inr ⟨rfl, rfl⟩
theorem OneWord.islandFreqChange : ∀ x0 x1, OneWord.Statement (.islandFreqChange x0 x1) := fun _ _ => .inr ⟨rfl, rfl⟩
theorem OneWord.trustAlarm : ∀ x0, OneWord.Statement (.trustAlarm x0) := fun _ => .inr ⟨rfl, rfl⟩
theorem OneWord.serviceReverify : ∀ x0, OneWord.Statement (.serviceReverify x0) := fun _ => .inr ⟨rfl, rfl⟩
theorem OneWord.versionAdvance : ∀ x0 x1, OneWord.Statement (.versionAdvance x0 x1) := fun _ _ => .inr ⟨rfl, rfl⟩
theorem OneWord.getCertificate : ∀ x0 x1, OneWord.Statement (.getCertificate x0 x1) := fun _ _ => .inr ⟨rfl, rfl⟩
theorem OneWord.challenge : ∀ x0, OneWord.Statement (.challenge x0) := fun _ => .inr ⟨rfl, rfl⟩
theorem OneWord.getMeasurements : ∀ x0, OneWord.Statement (.getMeasurements x0) := fun _ => .inr ⟨rfl, rfl⟩
theorem OneWord.spdmUnsupported : ∀ x0, OneWord.Statement (.spdmUnsupported x0) := fun _ => .inr ⟨rfl, rfl⟩
theorem OneWord.softError : ∀ x0 x1, OneWord.Statement (.softError x0 x1) := fun _ _ => .inr ⟨rfl, rfl⟩
theorem OneWord.expanderFailure : ∀ x0, OneWord.Statement (.expanderFailure x0) := fun _ => .inr ⟨rfl, rfl⟩
theorem OneWord.ack : ∀ x0 x1, OneWord.Statement (.ack x0 x1) := fun _ _ => .inr ⟨rfl, rfl⟩
theorem OneWord.nak : ∀ x0 x1, OneWord.Statement (.nak x0 x1) := fun _ _ => .inr ⟨rfl, rfl⟩
theorem OneWord.allow : ∀ x0 x1 x2, OneWord.Statement (.allow x0 x1 x2) := fun _ _ _ => .inr ⟨rfl, rfl⟩
theorem OneWord.retrainComplete : ∀ x0 x1 x2, OneWord.Statement (.retrainComplete x0 x1 x2) := fun _ _ _ => .inr ⟨rfl, rfl⟩
theorem OneWord.remoteRequest : ∀ x0, OneWord.Statement (.remoteRequest x0) := fun _ => .inr ⟨rfl, rfl⟩
theorem OneWord.errArrive : ∀ x0 x1, OneWord.Statement (.errArrive x0 x1) := fun _ _ => .inr ⟨rfl, rfl⟩
theorem OneWord.hostWindowWrite : ∀ x0 x1, OneWord.Statement (.hostWindowWrite x0 x1) := fun _ _ => .inr ⟨rfl, rfl⟩
theorem OneWord.sweepWrite : ∀ x0, OneWord.Statement (.sweepWrite x0) := fun _ => .inr ⟨rfl, rfl⟩
theorem OneWord.tlbinvPage : ∀ x0 x1 x2, OneWord.Statement (.tlbinvPage x0 x1 x2) := fun _ _ _ => .inr ⟨rfl, rfl⟩
theorem OneWord.tlbinvAll : ∀ x0 x1, OneWord.Statement (.tlbinvAll x0 x1) := fun _ _ => .inr ⟨rfl, rfl⟩
theorem OneWord.leasecfgWrite : ∀ x0, OneWord.Statement (.leasecfgWrite x0) := fun _ => .inr ⟨rfl, rfl⟩
theorem OneWord.registerWrite : ∀ x0 x1, OneWord.Statement (.registerWrite x0 x1) := fun _ _ => .inr ⟨rfl, rfl⟩
theorem OneWord.migrationStart : ∀ x0 x1 x2 x3, OneWord.Statement (.migrationStart x0 x1 x2 x3) := fun _ _ _ _ => .inr ⟨rfl, rfl⟩
theorem OneWord.mdieRetire : ∀ x0 x1, OneWord.Statement (.mdieRetire x0 x1) := fun _ _ => .inr ⟨rfl, rfl⟩
theorem OneWord.wayresWrite : ∀ x0 x1 x2 x3, OneWord.Statement (.wayresWrite x0 x1 x2 x3) := fun _ _ _ _ => .inr ⟨rfl, rfl⟩
theorem OneWord.racvaWrite : ∀ x0 x1, OneWord.Statement (.racvaWrite x0 x1) := fun _ _ => .inr ⟨rfl, rfl⟩
theorem OneWord.bindctlWrite : ∀ x0 x1, OneWord.Statement (.bindctlWrite x0 x1) := fun _ _ => .inr ⟨rfl, rfl⟩
theorem OneWord.contextCreate : ∀ x0 x1, OneWord.Statement (.contextCreate x0 x1) := fun _ _ => .inr ⟨rfl, rfl⟩
theorem OneWord.contextKill : ∀ x0 x1, OneWord.Statement (.contextKill x0 x1) := fun _ _ => .inr ⟨rfl, rfl⟩
theorem OneWord.contextConfig : ∀ x0 x1, OneWord.Statement (.contextConfig x0 x1) := fun _ _ => .inr ⟨rfl, rfl⟩
theorem OneWord.notifyStore : ∀ x0 x1 x2, OneWord.Statement (.notifyStore x0 x1 x2) := fun _ _ _ => .inr ⟨rfl, rfl⟩
theorem OneWord.hnotify : ∀ x0 x1, OneWord.Statement (.hnotify x0 x1) := fun _ _ => .inr ⟨rfl, rfl⟩
theorem OneWord.query : ∀ x0 x1, OneWord.Statement (.query x0 x1) := fun _ _ => .inr ⟨rfl, rfl⟩
theorem OneWord.presp : ∀ x0 x1, OneWord.Statement (.presp x0 x1) := fun _ _ => .inr ⟨rfl, rfl⟩
theorem OneWord.preemptRequest : ∀ x0, OneWord.Statement (.preemptRequest x0) := fun _ => .inr ⟨rfl, rfl⟩
theorem OneWord.queueEnable : ∀ x0 x1, OneWord.Statement (.queueEnable x0 x1) := fun _ _ => .inr ⟨rfl, rfl⟩
theorem OneWord.queueDisable : ∀ x0 x1, OneWord.Statement (.queueDisable x0 x1) := fun _ _ => .inr ⟨rfl, rfl⟩
theorem OneWord.packageReset : OneWord.Statement .packageReset := .inr ⟨rfl, rfl⟩
theorem OneWord.hotReset : OneWord.Statement .hotReset := .inr ⟨rfl, rfl⟩
theorem OneWord.functionLevelReset : OneWord.Statement .functionLevelReset := .inr ⟨rfl, rfl⟩
theorem OneWord.thermalTrip : OneWord.Statement .thermalTrip := .inr ⟨rfl, rfl⟩
theorem OneWord.islandPauseEnd : OneWord.Statement .islandPauseEnd := .inr ⟨rfl, rfl⟩
theorem OneWord.timeCompare : OneWord.Statement .timeCompare := .inr ⟨rfl, rfl⟩
theorem OneWord.getVersion : OneWord.Statement .getVersion := .inr ⟨rfl, rfl⟩
theorem OneWord.getCapabilities : OneWord.Statement .getCapabilities := .inr ⟨rfl, rfl⟩
theorem OneWord.negotiateAlgorithms : OneWord.Statement .negotiateAlgorithms := .inr ⟨rfl, rfl⟩
theorem OneWord.getDigests : OneWord.Statement .getDigests := .inr ⟨rfl, rfl⟩
theorem OneWord.patrolScrub : OneWord.Statement .patrolScrub := .inr ⟨rfl, rfl⟩
theorem OneWord.flitSend : OneWord.Statement .flitSend := .inr ⟨rfl, rfl⟩
theorem OneWord.flitReceive : OneWord.Statement .flitReceive := .inr ⟨rfl, rfl⟩
theorem OneWord.ackTimer : OneWord.Statement .ackTimer := .inr ⟨rfl, rfl⟩
theorem OneWord.replayTimeout : OneWord.Statement .replayTimeout := .inr ⟨rfl, rfl⟩
theorem OneWord.retraining : OneWord.Statement .retraining := .inr ⟨rfl, rfl⟩
theorem OneWord.bridgeReqTimeout : OneWord.Statement .bridgeReqTimeout := .inr ⟨rfl, rfl⟩
theorem OneWord.remoteReqTimeout : OneWord.Statement .remoteReqTimeout := .inr ⟨rfl, rfl⟩
theorem OneWord.readHome : OneWord.Statement .readHome := .inr ⟨rfl, rfl⟩
theorem OneWord.writeHome : OneWord.Statement .writeHome := .inr ⟨rfl, rfl⟩
theorem OneWord.wmaskHome : OneWord.Statement .wmaskHome := .inr ⟨rfl, rfl⟩
theorem OneWord.atomHome : OneWord.Statement .atomHome := .inr ⟨rfl, rfl⟩
theorem OneWord.redHome : OneWord.Statement .redHome := .inr ⟨rfl, rfl⟩
theorem OneWord.dataArrive : OneWord.Statement .dataArrive := .inr ⟨rfl, rfl⟩
theorem OneWord.doneArrive : OneWord.Statement .doneArrive := .inr ⟨rfl, rfl⟩
theorem OneWord.walkComplete : OneWord.Statement .walkComplete := .inr ⟨rfl, rfl⟩
theorem OneWord.sweep : OneWord.Statement .sweep := .inr ⟨rfl, rfl⟩
theorem OneWord.tlbinvComplete : OneWord.Statement .tlbinvComplete := .inr ⟨rfl, rfl⟩
theorem OneWord.migrationSwitch : OneWord.Statement .migrationSwitch := .inr ⟨rfl, rfl⟩
theorem OneWord.migrationTimeout : OneWord.Statement .migrationTimeout := .inr ⟨rfl, rfl⟩
theorem OneWord.notifyWaitRelease : OneWord.Statement .notifyWaitRelease := .inr ⟨rfl, rfl⟩
theorem OneWord.notifyEffect : OneWord.Statement .notifyEffect := .inr ⟨rfl, rfl⟩
theorem OneWord.hnotifyEffect : OneWord.Statement .hnotifyEffect := .inr ⟨rfl, rfl⟩
theorem OneWord.recordCheck : OneWord.Statement .recordCheck := .inr ⟨rfl, rfl⟩
theorem OneWord.residencyCheck : OneWord.Statement .residencyCheck := .inr ⟨rfl, rfl⟩
theorem OneWord.pageRequestWrite : OneWord.Statement .pageRequestWrite := .inr ⟨rfl, rfl⟩
theorem OneWord.layoutCheck : OneWord.Statement .layoutCheck := .inr ⟨rfl, rfl⟩
theorem OneWord.launchRetire : OneWord.Statement .launchRetire := .inr ⟨rfl, rfl⟩
theorem OneWord.groupPlace : OneWord.Statement .groupPlace := .inr ⟨rfl, rfl⟩
theorem OneWord.dispatchSteal : OneWord.Statement .dispatchSteal := .inr ⟨rfl, rfl⟩
theorem OneWord.reservation : OneWord.Statement .reservation := .inr ⟨rfl, rfl⟩
theorem OneWord.collect : OneWord.Statement .collect := .inr ⟨rfl, rfl⟩
theorem OneWord.engineStopAck : OneWord.Statement .engineStopAck := .inr ⟨rfl, rfl⟩
theorem OneWord.drainComplete : OneWord.Statement .drainComplete := .inr ⟨rfl, rfl⟩
theorem OneWord.saveComplete : OneWord.Statement .saveComplete := .inr ⟨rfl, rfl⟩
theorem OneWord.restore : OneWord.Statement .restore := .inr ⟨rfl, rfl⟩
theorem OneWord.shareClearDone : OneWord.Statement .shareClearDone := .inr ⟨rfl, rfl⟩
theorem OneWord.blockClearDone : OneWord.Statement .blockClearDone := .inr ⟨rfl, rfl⟩
theorem OneWord.claimGrant : OneWord.Statement .claimGrant := .inr ⟨rfl, rfl⟩
theorem OneWord.runArbitration : OneWord.Statement .runArbitration := .inr ⟨rfl, rfl⟩
theorem OneWord.promotion : OneWord.Statement .promotion := .inr ⟨rfl, rfl⟩
theorem OneWord.lateFault : OneWord.Statement .lateFault := .inr ⟨rfl, rfl⟩
theorem OneWord.launchFatal : OneWord.Statement .launchFatal := .inr ⟨rfl, rfl⟩
theorem OneWord.phaseExpiry : OneWord.Statement .phaseExpiry := .inr ⟨rfl, rfl⟩
theorem OneWord.sleepExpiry : OneWord.Statement .sleepExpiry := .inr ⟨rfl, rfl⟩
theorem OneWord.pbarArrival : OneWord.Statement .pbarArrival := .inr ⟨rfl, rfl⟩
theorem OneWord.bankConversionStart : OneWord.Statement .bankConversionStart := .inr ⟨rfl, rfl⟩
theorem OneWord.bankConversionComplete : OneWord.Statement .bankConversionComplete := .inr ⟨rfl, rfl⟩
theorem OneWord.bankItemBegin : OneWord.Statement .bankItemBegin := .inr ⟨rfl, rfl⟩
theorem OneWord.passEnd : OneWord.Statement .passEnd := .inr ⟨rfl, rfl⟩
theorem OneWord.bexecStart : OneWord.Statement .bexecStart := .inr ⟨rfl, rfl⟩
theorem OneWord.mpEnd : OneWord.Statement .mpEnd := .inr ⟨rfl, rfl⟩
theorem OneWord.mpCap : OneWord.Statement .mpCap := .inr ⟨rfl, rfl⟩
theorem OneWord.bcodexAccept : OneWord.Statement .bcodexAccept := .inr ⟨rfl, rfl⟩
theorem OneWord.codexWriteComplete : OneWord.Statement .codexWriteComplete := .inr ⟨rfl, rfl⟩
theorem OneWord.buildStart : OneWord.Statement .buildStart := .inr ⟨rfl, rfl⟩
theorem OneWord.buildComplete : OneWord.Statement .buildComplete := .inr ⟨rfl, rfl⟩
theorem OneWord.folioResidency : OneWord.Statement .folioResidency := .inr ⟨rfl, rfl⟩
theorem OneWord.folioIterationStart : OneWord.Statement .folioIterationStart := .inr ⟨rfl, rfl⟩
theorem OneWord.folioIterationRetire : OneWord.Statement .folioIterationRetire := .inr ⟨rfl, rfl⟩
theorem OneWord.folioExit : OneWord.Statement .folioExit := .inr ⟨rfl, rfl⟩
theorem OneWord.sliceEnd : OneWord.Statement .sliceEnd := .inr ⟨rfl, rfl⟩
theorem OneWord.chunkStart : OneWord.Statement .chunkStart := .inr ⟨rfl, rfl⟩
theorem OneWord.chunkComplete : OneWord.Statement .chunkComplete := .inr ⟨rfl, rfl⟩
theorem OneWord.engineSteal : OneWord.Statement .engineSteal := .inr ⟨rfl, rfl⟩
theorem OneWord.commandComplete : OneWord.Statement .commandComplete := .inr ⟨rfl, rfl⟩
theorem OneWord.queueSlotArrive : OneWord.Statement .queueSlotArrive := .inr ⟨rfl, rfl⟩
theorem OneWord.queueRefillComplete : OneWord.Statement .queueRefillComplete := .inr ⟨rfl, rfl⟩
theorem OneWord.arrivalTrigger : OneWord.Statement .arrivalTrigger := .inr ⟨rfl, rfl⟩
theorem OneWord.gwctReached : OneWord.Statement .gwctReached := .inr ⟨rfl, rfl⟩
theorem OneWord.backInvalidateResponse : OneWord.Statement .backInvalidateResponse := .inr ⟨rfl, rfl⟩
theorem OneWord.hostReadCompletion : OneWord.Statement .hostReadCompletion := .inr ⟨rfl, rfl⟩
theorem OneWord.stealComplete : OneWord.Statement .stealComplete := .inr ⟨rfl, rfl⟩

end Sys2Proof.Laws
end

