-- ==== Sys2Proof/Tests/Slice0.lean ====
section
/-! SUPPORT. Tests: ill-formed words are refused, words written out from the spec's encodings decode, values of the
spec's tables, and for every statement a state that meets its hypotheses. -/

namespace Sys2Proof.Tests

open Sys2Proof.Machine

/-- The last word of its run, unguarded. -/
def plain : Head := { b := true, e := false, gn := false, gp := 7 }
/-- Fields of zeros. -/
def fp0 : FpMod := { rm := 0, ftz := false, na := false, nb := false, nc := false }
/-- A 32-bit access of space `.g`. -/
def m0 : MemFields := { vo := 255, sb := 1, size := 2, space := 0, order := 0, scope := 0, la := 0, off := 0 }
/-- A copy of scalar registers 1 to 4. -/
def c0 : CopyFields :=
  { vs := 5, sa := 1, sd := 2, sl := 3, fslot := 0, acq := false, rel := false, scope := 0, la := 0 }
/-- A conversion of FP32 to FP32, or of an `s32`. -/
def v0 : CvtFields :=
  { ff := 7, sel := 7, spos := 0, rm := 0, ftz := false, sat := false, dpos := 0, fs := false, fslot := 0 }
/-- That of an integer type. -/
def v1 : CvtFields := { v0 with sel := 4 }

-- ## Ill-formed words (R323): one for each check

theorem test_guard_reserved : (Instr.nop { plain with gn := true }).wf = false := by decide
theorem test_run_ending_needs_b : (Instr.exit { plain with b := false }).wf = false := by decide
theorem test_fields_refused :
    ([.iaddx plain false 1 0 0 0 0, .imadw plain true 1 0 0 0, .mov plain true 1 0, .lea plain false true 0 0 0 0,
      .moviB64 plain 1 0, .leaWImm plain 0 1 0, .isetp plain 6 false false 0 0 0 0 0, .ssetp plain 10 0 0 (.imm 0),
      .s2v plain 3 0 0, .vread plain 2 0 1 0, .fadd plain { fp0 with nc := true } 0 0 0,
      .fmin plain { fp0 with rm := 1 } false 0 0 0, .fround plain { fp0 with na := true } false 0 0,
      .fclass plain 0 true 0 0, .dadd plain fp0 1 0 0, .dfma plain fp0 0 0 0 1, .dmin plain { fp0 with rm := 1 } false 0 0 0,
      .drcpa plain false 1 0, .cvtf plain { v0 with ff := 0 } 0 0, .cvti plain { v1 with sat := true } 0 0,
      .cvtif plain { v1 with sel := 8 } 0 0, .mxunpack plain 5 0 false 0 false 0 0 0, .fsetp plain 12 false 0 0 0 0 0,
      .dsetp plain 0 false 0 0 0 1 0, .ld plain 0 { m0 with space := 4 }, .st plain 0 { m0 with size := 6 },
      .ldp plain 0 { m0 with sb := 4 }, .atom plain 0 { m0 with size := 0 }, .red plain 0 { m0 with off := 0x0800 },
      .fenceAcq plain 5 0, .cp plain false { c0 with scope := 1 }, .cp2d plain false { c0 with sl := 63 },
      .cpretile plain { c0 with scope := 1 }, .qpush plain 0 0 false 1 0, .qtryPop plain 0 0 0 false 1 0, .brx plain 0 1,
      .xlaneLane plain 6 0 0 (.imm 0), .redq plain 12 0 false 0 0, .matchSame plain true 0 1, .sget plain 13 false false 0,
      .bclr plain 0 0 0, .bwait plain 1 true 0, .bkscale plain 0 0 12 false 0 0 0, .bmvm plain 0 0 0 7 1 0 0 0,
      .bexec plain 0 0 0 0 1 0, .bacc plain 0 0 0 6 false 0, .bcodex plain 31 0 0 0, .sysrd plain 0 7,
      .syswr plain 0x108 0] : List Instr).all (fun i => !i.wf) = true := by decide

-- ## Decoding (Tables 14.1 and 14.2, and the encoding table of each family)

-- B 1, E 0, GN 0, GP 7, OP 0x00; VD 6, VA 6, VB 10, VC 0, FN 0, MOD 3
theorem test_decode_iadd : decodeTableWord 64
    0b1_0_0_111_0000000_00000110_00000110_00001010_00000000_00000000000_00000011
    = some (.iadd plain true true 6 6 10) := by decide
-- OP 0x11; VD 1, VA 2, FN3 2, IMM32 0xFF
theorem test_decode_xor_imm : decodeTableWord 64
    0b1_0_0_111_0010001_00000001_00000010_010_00000000000000000000000011111111
    = some (.xorImm plain 1 2 0xFF) := by decide
-- OP 0x38; VD p1, VA 4, VB 5, VC 0, FN 2 lt, MOD SGN
theorem test_decode_isetp : decodeTableWord 64
    0b1_0_0_111_0111000_00000001_00000100_00000101_00000000_00000000010_00000001
    = some (.isetp plain 2 true false 0 1 0 4 5) := by decide
-- OP 0x73; SD 3, SA 3, SB 0, IMM with SFN 2, IMM21
theorem test_decode_sli : decodeTableWord 64
    0b1_0_0_111_1110011_000011_000011_000000_100000000010_010110011110001001101
    = some (.sli plain 3 3 0x0B3C4D) := by decide
-- OP 0x22; VD 1, VA 2, VB 3, VC 4, FN 0, MOD FTZ
theorem test_decode_ffma : decodeTableWord 64
    0b1_0_0_111_0100010_00000001_00000010_00000011_00000100_00000000000_00000100
    = some (.ffma plain { fp0 with ftz := true } 1 2 3 4) := by decide
-- OP 0x60; VD 7, VA p1, FN 3
theorem test_decode_ballot : decodeTableWord 64
    0b1_0_0_111_1100000_00000111_00000001_00000000_00000000_00000000011_00000000
    = some (.ballot plain false 7 1) := by decide
-- OP 0x5F; VD 0, VA 0, FN3 0, IMM32 100
theorem test_decode_sleep : decodeTableWord 64
    0b1_0_0_111_1011111_00000000_00000000_000_00000000000000000000000001100100
    = some (.sleep plain 100) := by decide
theorem test_decode_reserved_field : decodeTableWord 64
    0b1_0_0_111_1011110_00_0000_00000000_0000000000001_000000000000000000000000 = none := by decide
theorem test_decode_reserved_opcode : decodeTableWord 64 0x1FF8000000000000 = none := by decide

-- ## Words that perform

/-- A word is the next of a run, performs there, and what it sees meets a test. -/
def seen (i : Instr) (s : State) (p : Ictx → Bool) : Bool :=
  match i.head with
  | none => false
  | some h => match s.issuing h with
    | none => false
    | some x => !h.e && x.q.live && !pathHeld x && !coverStalls x h i && !illegalWord x h i && !portStalls x i
        && !runYields x i && !lateResult x i && !slipsBank x i && x.lanes != 0
        && (List.range 32).all (fun n => (x.q.th n).badV == []) && (x.badBlock i).isNone && p x

/-- What `seen` shows: the hypotheses of the statements about words are met together. -/
theorem seen_spec {i : Instr} {s : State} {p : Ictx → Bool} (h : seen i s p = true) :
    ∃ hd x, Performs i hd s x ∧ Sees i hd s x ∧ p x = true := by
  unfold seen at h
  split at h
  · exact absurd h (by decide)
  · rename_i hd hh
    split at h
    · exact absurd h (by decide)
    · rename_i x hx
      simp only [Bool.and_eq_true, Bool.not_eq_true', bne_iff_ne, ne_eq, List.all_eq_true, List.mem_range, beq_iff_eq,
        Option.isNone_iff_eq_none] at h
      obtain ⟨⟨⟨⟨⟨⟨⟨⟨⟨⟨⟨⟨he, hl⟩, h1⟩, h2⟩, h3⟩, h4⟩, h5⟩, h6⟩, h7⟩, h8⟩, h9⟩, h10⟩, hp⟩ := h
      have hP : Performs i hd s x := ⟨hh, hx, hl, h1, h2, h3, h4, h5, h6, h7, h8, fun n hn => h9 n (BitVec.lt_of_getLsbD hn), h10⟩
      refine ⟨hd, x, hP, ⟨x, hP, ?_⟩, hp⟩
      simp [enterRegion, he]

/-- Launch 7 of context 1, with a range at 0x10000 and no handler. -/
def launch1 : Launch :=
  { ctx := 1, lid := 7, state := .running, quires := 1, recOk := true,
    rcd := { code := 0x1000, nbank := 2, pwBase := [0x10000, 0x20000, 0, 0], pwSize := [64, 0, 2, 0],
             fslot := [0, 0x7, 0x4], binds := [some (0, false), some (1, true), none, none] },
    ranges := [{ base := 0x10000, npage := 1, rd := true, wr := true, ex := true }] }
/-- Its quire of slot 0: lane 0 stands at the word, the other lanes have exited. -/
def quire1 : Quire :=
  { live := true, lk := lkOf 1 7, blocks := 4, active := true, sr := [(1, 0x10000), (2, 0x10080), (3, 64)],
    threads := (0, ({ pc := 0x1000 } : Thread)) :: (List.range 31).map (fun k => (k + 1, ({ exited := true } : Thread))) }
/-- Core 0 with that quire, its run and a share of two banks. -/
def core1 : Core :=
  { quires := [(0, quire1)], run := some { a := { lanes := 1, pc := 0x1000 }, shadow := quire1 },
    shares := [(0, { lk := lkOf 1 7, banks := [2, 5] })] }
/-- The state in which they stand. -/
def part (k : Core) (l : Launch) : State :=
  { State.reset with now := 1000, cores := [(0, k)], launches := [(lkOf 1 7, l)], agenda := [] }
/-- `part` with the quire changed. -/
def withQuire (q : Quire) : State := part { core1 with quires := [(0, q)] } launch1
/-- The state most words are tried in. -/
def s1 : State := part core1 launch1
/-- A state with the word's thread changed. -/
def withThread (t : Thread) : State := withQuire { quire1 with threads := quire1.threads.set 0 { t with pc := 0x1000 } }
/-- A state with the two banks of the share in a mode. -/
def withBanks (m : BMode) : State := part { core1 with banks := [(2, { mode := m }), (5, { mode := m })] } launch1

theorem witness_integer : ([
    .iadd plain false false 0 0 0, .isub plain true true 0 0 0, .iaddx plain true 0 0 0 0 0, .imul plain 0 0 0, .imulh plain true 0 0 0,
    .imad plain 0 0 0 0, .imadw plain true 0 0 0 0, .imin plain false 0 0 0, .imax plain true 0 0 0, .iabs plain true 0 0,
    .and plain 0 0 0, .or plain 0 0 0, .xor plain 0 0 0, .andn plain 0 0 0, .orn plain 0 0 0, .not plain 0 0,
    .shl plain 0 0 0, .shr plain 0 0 0, .sar plain 0 0 0, .rotl plain 0 0 0, .popc plain 0 0, .clz plain 0 0, .ctz plain 0 0,
    .brev plain 0 0, .bfe plain false 0 0 0, .bfi plain 0 0 0 0, .bytex plain 0 0 0 0, .sel plain false 0 0 0 0,
    .mov plain true 0 0, .lea plain true true 0 0 0 0, .iaddImm plain 0 0 0, .isubImm plain 0 0 0, .imulImm plain 0 0 0,
    .iminImmS plain 0 0 0, .iminImmU plain 0 0 0, .imaxImmS plain 0 0 0, .imaxImmU plain 0 0 0, .andImm plain 0 0 0,
    .orImm plain 0 0 0, .xorImm plain 0 0 0, .andnImm plain 0 0 0, .ornImm plain 0 0 0, .shlImm plain 0 0 0,
    .shrImm plain 0 0 0, .sarImm plain 0 0 0, .rotlImm plain 0 0 0, .movi plain 0 0, .moviB64 plain 0 0, .leaImm plain 0 0 0,
    .leaWImm plain 0 0 0, .isetp plain 5 true true 2 0 0 0 0, .isetpImm plain 7 0 0 0, .plop plain 0 0 0 0 0, .p2v plain 0,
    .v2p plain 0 0] : List Instr).all (fun i => seen i s1 (fun _ => true)) = true := by decide
theorem witness_scalar : ([
    .sadd plain 0 0 (.imm 1), .ssub plain 0 0 (.reg 1), .smul plain 0 0 (.imm 1), .sshl plain 0 0 (.imm 1), .sshr plain 0 0 (.imm 1),
    .sshrS plain 0 0 (.imm 1), .sand plain 0 0 (.imm 1), .sor plain 0 0 (.imm 1), .sxor plain 0 0 (.imm 1), .smov plain 0 0,
    .smovi plain 0 0, .sli plain 0 0 0, .ssetp plain 9 0 0 (.imm 1), .s2v plain 2 0 0, .vread plain 2 0 0 0] :
    List Instr).all (fun i => seen i s1 (fun _ => true)) = true := by decide
theorem witness_float : ([
    .fadd plain fp0 0 0 0, .fsub plain fp0 0 0 0, .fmul plain fp0 0 0 0, .ffma plain fp0 0 0 0 0, .fmin plain fp0 false 0 0 0,
    .fmax plain fp0 true 0 0 0, .fround plain fp0 false 0 0, .fclass plain 3 true 0 0, .frcp plain false 0 0,
    .frsq plain false 0 0, .fsqrt plain 0 false 0 0, .fex2 plain false 0 0, .flg2 plain false 0 0, .fsin plain false 0 0,
    .fcos plain false 0 0, .ftanh plain false 0 0, .padd2 plain fp0 false 0 0 0, .pmul2 plain fp0 false 0 0 0,
    .pfma2 plain fp0 false 0 0 0 0, .pdot2 plain fp0 false 0 0 0 0, .dadd plain fp0 0 0 0, .dmul plain fp0 0 0 0,
    .dfma plain fp0 0 0 0 0, .dmin plain fp0 false 0 0 0, .dmax plain fp0 false 0 0 0, .drcpa plain false 0 0,
    .cvtf plain v0 0 0, .cvti plain v1 0 0, .cvtif plain v1 0 0, .mxunpack plain 0 0 false 0 false 0 0 0,
    .fsetp plain 11 false 0 0 0 0 0, .dsetp plain 11 false 0 0 0 0 0] : List Instr).all (fun i => seen i s1 (fun _ => true))
    = true := by decide
theorem witness_block_pack :
    seen (.mxpack plain 0 false 0 0 0 0) s1 (fun x => slotEF (x.fslot 0) == 0)
    && seen (.mxpack plain 3 false 2 0 0 0) s1 (fun x => slotEF (x.fslot 2) == 4)
    && seen (.mxpack plain 0 false 1 0 0 0) s1 (fun x => slotEF (x.fslot 1) == 7) = true := by decide
theorem witness_exchange : ([
    .voteAll plain false 0 0, .voteAny plain false 0 0, .voteUni plain false 0 0, .ballot plain false 0 0,
    .xlaneLane plain 5 0 0 (.imm 0), .xlaneRot plain 5 0 0 (.imm 0), .xlaneXor plain 5 0 0 (.imm 0), .xlaneRev plain 5 0 0,
    .redq plain 11 0 true 0 0, .scanq plain 9 0 true 0 0, .redq plain 0 0 false 0 0, .redq plain 4 0 false 0 0,
    .redq plain 3 0 false 0 0, .matchSame plain true 0 0, .matchPeers plain false 0 0, .matchLead plain false 0 0] :
    List Instr).all (fun i => seen i s1 (fun _ => true)) = true := by decide

/-- An operand pair that is no word address. -/
def odd1 : State := withThread { v := [(0, 4)] }
theorem witness_transfers :
    ([.bra plain 0 0, .dbra plain 0 0 0] : List Instr).all (fun i => seen i s1 (fun _ => true))
    && ([.brx plain 0 0, .ret plain 0 0, .callR plain 0 0] : List Instr).all (fun i =>
        seen i s1 (fun x => (lanesOf x.lanes).all (fun n => decide (((x.q.th n).pair 0).toNat % 8 = 0))))
    && seen (.call plain 0 0 0) s1 (fun x => decide (x.pc.toNat % 8 = 0))
    && ([.brx plain 0 0, .ret plain 0 0, .callR plain 0 0] : List Instr).all (fun i =>
        seen i odd1 (fun x => (lanesOf x.lanes).any (fun n => decide (((x.q.th n).pair 0).toNat % 8 ≠ 0)))) = true := by decide
theorem witness_control :
    ([.nop plain, .sleep plain 0, .sleep plain 1, .phase plain 0 0, .phase plain 0 1] : List Instr).all (fun i =>
      seen i s1 (fun _ => true))
    && seen (.exit plain) s1 (fun x => (List.range 32).all (fun n => x.lanes.getLsbD n || (x.q.th n).exited))
    && seen (.exit plain) (withQuire { quire1 with threads := quire1.threads.set 31 {} })
        (fun x => !(x.q.th 31).exited && !x.lanes.getLsbD 31) = true := by decide

-- ## Groups, barriers, register blocks, special registers

/-- Core 0 with its quire in some groups, and some group records. -/
def withGroups (q : List Nat) (g : Tab Group) : State :=
  part { core1 with quires := [(0, { quire1 with groups := q })], groups := g } launch1
theorem witness_join :
    seen (.join plain 0 (.imm 3)) (withGroups [3] []) (fun x => x.q.groups.contains (x.groupNo (.imm 3)))
    && seen (.join plain 0 (.imm 4)) (withGroups [0, 1, 2, 3] []) (fun x => x.q.groups.length == 4)
    && seen (.join plain 0 (.imm 4)) (withGroups [] ((List.range 64).map (fun n => (n + 100, {}))))
        (fun x => (x.s.core 0).groups.length == 64 && (x.s.core 0).groups.find (groupKey 0 4) == none)
    && seen (.join plain 0 (.imm 4)) (withGroups [] []) (fun x => (x.s.core 0).groups.find (groupKey 0 4) == none)
    && seen (.join plain 0 (.imm 4)) (withGroups [] [(groupKey 0 4, { members := 32 })])
        (fun x => (x.s.core 0).groups.find (groupKey 0 4) == some { members := 32 })
    && seen (.join plain 0 (.imm 4)) (withGroups [] [(groupKey 0 4, { members := 31 })])
        (fun x => (x.s.core 0).groups.find (groupKey 0 4) == some { members := 31 })
    && seen (.join plain 0 (.imm 4)) (withGroups [] [(groupKey 0 4, { members := 2, arrived := 1 })])
        (fun x => (x.s.core 0).groups.find (groupKey 0 4) == some { members := 2, arrived := 1 }) = true := by decide
theorem witness_leave_and_barriers :
    ([.leave plain 0 (.imm 3), .gbar plain 0 (.imm 3)] : List Instr).all (fun i =>
      seen i (withGroups [] []) (fun x => !x.q.groups.contains (x.groupNo (.imm 3)))
      && seen i (withGroups [3] []) (fun x => x.q.groups.contains (x.groupNo (.imm 3)) && x.q.waits.isEmpty))
    && ([.leave plain 0 (.imm 3), .gbar plain 0 (.imm 3)] : List Instr).all (fun i =>
      seen i (withQuire { quire1 with groups := [3], waits := [{ kind := .gbar 3 }] }) (fun x =>
        x.q.waits == [{ kind := .gbar 3 }] && x.groupNo (.imm 3) == 3))
    && seen (.pbar plain 0 0 3) s1 (fun _ => true) = true := by decide
theorem witness_last_arrival :
    let s := withGroups [3] [(groupKey 0 3, { members := 2, arrived := 1 })]
    let u := withGroups [3] [(groupKey 0 3, { members := 2, arrived := 0 })]
    (s.quire 0 0).live = true ∧ ((s.core 0).group (s.quire 0 0).share 3) = { members := 2, arrived := 1 }
    ∧ (u.quire 0 0).live = true ∧ ((u.core 0).group (u.quire 0 0).share 3) = { members := 2, arrived := 0 } := by decide
theorem witness_blocks :
    seen (.regrel plain (.imm 3)) s1 (fun _ => true)
    && seen (.regclaim plain (.imm 3)) (withQuire { quire1 with waits := [{ kind := .claim 1 }] }) (fun x =>
        x.q.waits.any QWait.isClaim && x.blockNo (.imm 3) == 3)
    && seen (.regclaim plain (.imm 0)) s1 (fun x => x.q.waits.isEmpty && x.blockNo (.imm 0) == 0)
    && seen (.regclaim plain (.imm 28)) s1 (fun x => x.q.waits.isEmpty && x.q.blocks + x.blockNo (.imm 28) == 32)
    && seen (.regclaim plain (.imm 29)) s1 (fun x => x.q.waits.isEmpty && x.q.blocks + x.blockNo (.imm 29) == 33)
    = true := by decide
theorem witness_special_registers :
    (List.range 13).all (fun n => seen (.sget plain (BitVec.ofNat 4 n) false false 0) s1 (fun _ => true))
    && seen (.sget plain 11 false true 0) s1 (fun _ => true)
    && [2, 3, 4, 5, 6, 7, 12].all (fun n => seen (.sget plain n true false 0) s1 (fun _ => true)) = true := by decide

-- ## Accesses, fences, prefetches

/-- The access of a format M word as LaneAccesses has it. -/
def accOf (k : ReqKind) (m : MemFields) : AccWord :=
  { kind := k, space := m.space.toNat, aop := if k = .read ∨ k = .write then 0 else m.aop,
    result := if k = .read ∨ k = .atom then .load m.size.toNat 0 else .discard,
    regs := if k = .read ∨ k = .atom then rBytes (sizeBytes m.size.toNat) 0 else [] }
/-- The four lane accesses of a word's fields, with their access words. -/
def accesses (m : MemFields) : List (Instr × AccWord) :=
  [(.ld plain 0 m, accOf .read m), (.st plain 0 m, accOf .write m), (.atom plain 0 m, accOf .atom m), (.red plain 0 m, accOf .red m)]
/-- Addresses of the lanes of such a word. -/
def lanesAt (x : Ictx) (m : MemFields) : List LaneAcc := x.accesses m 0 (sizeBytes m.size.toNat) (fun _ => [])
theorem witness_walks :
    (accesses m0).all (fun e => seen e.1 s1 (fun x => (x.accessFault e.2 (lanesAt x m0)).isNone && !(lanesAt x m0).isEmpty
      && (x.s.core 0).tlb.isEmpty && (x.s.die 0).tlb.isEmpty)) = true := by decide
theorem witness_sends :
    let m := { m0 with space := 1, sb := 0 }
    (accesses m).all (fun e => seen e.1 s1 (fun x =>
      (x.accessFault e.2 (lanesAt x m)).isNone && !(lanesAt x m).isEmpty && (x.s.heldOf x.core).isEmpty)) = true := by decide
theorem witness_access_causes :
    let at_ (v : Word) (b : BMode) : State :=
      part { core1 with banks := [(2, { mode := b })],
                        quires := [(0, { quire1 with threads := quire1.threads.set 0 { pc := 0x1000, v := [(0, v)] } })] } launch1
    let f (m : MemFields) (v : Word) (b : BMode) (c : Cause) : Bool :=
      (accesses m).all (fun e => seen e.1 (at_ v b) (fun x => (x.accessFault e.2 (lanesAt x m)).map Prod.fst == some c))
    (f { m0 with space := 1, sb := 0, vo := 0 } 0x40000 .storage .bankbound && f { m0 with vo := 0, space := 2 } 2 .storage .align
      && f { m0 with space := 1, sb := 0 } 0 .compute .bankmode && f { m0 with vo := 0 } 0x10000 .storage .lease) = true := by decide
theorem witness_parameter_loads :
    let m (w : SReg) : MemFields := { m0 with sb := w }
    let size (x : Ictx) (w : Nat) : Nat := (x.s.launch x.q.lk).rcd.pwSize.getD w 0
    seen (.ldp plain 0 (m 1)) s1 (fun x => size x 1 == 0)
    && seen (.ldp plain 0 (m 0)) s1 (fun x => size x 0 != 0 && (x.s.core 0).tlb.isEmpty && (x.s.die 0).tlb.isEmpty)
    && seen (.ldp plain 0 { m 2 with off := 2 }) s1 (fun x => size x 2 == 2 && x.s.reqs.isEmpty) = true := by decide
theorem witness_fences_quiet :
    ([.fenceAcq plain 4 0, .fenceRel plain 4 0, .fenceAr plain 3 0, .fenceFull plain 2 0, .hflush plain 0] : List Instr).all
      (fun i => seen i s1 (fun x => x.s.reqs.isEmpty && x.s.waits.isEmpty && decide ((x.s.die 0).gwctMax ≤ x.s.nowAt 0)
        && (List.range 32).all (fun n => (x.q.th n).outst.isEmpty))) = true := by decide
theorem witness_fences_wait :
    let s : State := { s1 with reqs := [(0, { kind := .read, core := 0, slot := 0, lane := 0 })] }
    ([.fenceAcq plain 4 0, .fenceRel plain 4 0, .fenceAr plain 3 0, .fenceFull plain 2 0] : List Instr).all
      (fun i => seen i s (fun x => x.lanes == 1 && decide (0 < x.s.fresh)
        && x.s.reqs.any (fun e => e.1 == 0 && e.2.isLoad && e.2.ofQuire x.core x.slot && e.2.lane == 0))) = true := by decide
theorem witness_prefetch :
    seen (.prefetch plain false 255 0 0) s1 (fun x => !(x.s.launch x.q.lk).leased (x.ea 0 255 0 0).toNat 1)
    && seen (.prefetch plain true 255 1 0) s1 (fun x => (x.s.launch x.q.lk).leased (x.ea 1 255 0 0).toNat 1
        && (x.s.core 0).tlb.isEmpty && (x.s.die 0).tlb.isEmpty) = true := by decide

-- ## Copies and queues

theorem witness_copies : ([
    .cp plain false c0, .cp2d plain true c0, .cpfill plain false c0, .cpbank plain false c0, .cpretile plain c0, .cpkey plain c0] :
    List Instr).all (fun i => seen i s1 (fun _ => true)) = true := by decide
theorem witness_command :
    let x : Cmd := { kind := .cp, sa := 0x10000, sd := 0x10080, sl := 64, lk := lkOf 1 7 }
    (∀ y ∈ (s1.core 0).cmds, y.id ≠ s1.fresh) ∧ x.fits 2 = true ∧ { x with sl := 0x10000000000 }.fits 2 = false := by decide
/-- A queue with `n` slots in its SRAM, at both ends of the word's quire. -/
def withQueues (n : Nat) : State :=
  let q : Queue := { v := true, ctx := 1, nslot := 2, quota := 1, ring := 0x10000, sram := List.replicate n (List.replicate 128 7, false) }
  { s1 with queues := [(0, q), (1, q)] }
theorem witness_queues :
    let full (x : Ictx) (q : Nat) : Bool := decide ((x.s.queue q).nslot + (x.s.queue q).quota ≤ (x.s.queue q).occ)
    seen (.qpush plain 0 0 false 0 0) (withQueues 2) (fun x => x.endOf 0 false == some 0 && !full x 0)
    && seen (.qpush plain 0 0 false 0 0) (withQueues 3) (fun x => x.endOf 0 false == some 0 && full x 0)
    && seen (.qpush plain 1 0 false 0 0) (withQueues 2) (fun x => x.endOf 1 false == none)
    && seen (.qpop plain 1 0 false 0 0) (withQueues 1) (fun x => x.endOf 1 true == some 1 && !(x.s.queue 1).headBad)
    && seen (.qpop plain 0 0 false 0 0) (withQueues 1) (fun x => x.endOf 0 true == none)
    && seen (.qtryPush plain 0 0 0 false 0 0) (withQueues 2) (fun x => x.endOf 0 false == some 0 && !full x 0)
    && seen (.qtryPush plain 0 0 0 false 0 0) (withQueues 3) (fun x => x.endOf 0 false == some 0 && full x 0)
    && seen (.qtryPop plain 1 0 0 false 0 0) (withQueues 1) (fun x =>
        x.endOf 1 true == some 1 && !(x.s.queue 1).headBad && !(x.s.queue 1).sram.isEmpty)
    && seen (.qtryPop plain 1 0 0 false 0 0) (withQueues 0) (fun x => x.endOf 1 true == some 1 && (x.s.queue 1).sram.isEmpty)
    && seen (.qstat plain 1 0 0) (withQueues 1) (fun x => x.s.binding x.q 1 == some (1, true))
    && seen (.qstat plain 2 0 0) (withQueues 1) (fun x => x.s.binding x.q 2 == none) = true := by decide
theorem witness_slot :
    ((withQueues 1).queue 1).sram = [(List.replicate 128 7, false)] ∧ ((withQueues 1).quire 0 0).live = true := by decide

-- ## Banks and microprograms

/-- The bank words that only need a bank of the share. -/
def bankWords (b : BitVec 4) : List Instr :=
  [.bclr plain b 15 0, .bkscale plain b 0 11 false 0 0 0, .bacc plain b 0 0 5 false 0, .bmode plain b true 0]
theorem witness_bank_words :
    (bankWords 1).all (fun i => seen i (withBanks .compute) (fun x => ((x.s.core 0).shareOf x.q).banks.length == 2))
    && (bankWords 2).all (fun i => seen i (withBanks .compute) (fun x => ((x.s.core 0).shareOf x.q).banks.length == 2))
    && ([.bkey plain 2 0 0 0 0 0 0, .bmvm plain 2 0 0 0 7 0 31 0, .bexec plain 2 0 0 0 255 0, .bwait plain 2 false 0] :
        List Instr).all (fun i => seen i (withBanks .compute) (fun x => ((x.s.core 0).shareOf x.q).banks.length == 2))
    && seen (.bkey plain 1 0 0 0 0 0 0) (withBanks .compute) (fun x => decide (0 < formKeys (slotEF (x.fslot 0))))
    && seen (.bkey plain 1 1 0 11 0 0 0) (withBanks .compute) (fun x => decide (formKeys (slotEF (x.fslot 1)) ≤ 11))
    && seen (.bmvm plain 1 0 0 0 7 0 31 0) (withBanks .compute) (fun x => decide (0 < formKeys (slotEF (x.fslot 0))))
    && seen (.bmvm plain 1 0 0 0 7 0 31 0) (withBanks .storage) (fun _ => true)
    && seen (.bmvm plain 1 0 0 0 7 0 31 0) (withBanks .toStor) (fun _ => true)
    && seen (.bmvm plain 1 1 11 0 7 0 31 0) (withBanks .compute) (fun x => decide (formKeys (slotEF (x.fslot 1)) ≤ 11))
    && seen (.bexec plain 1 0 0 0 255 0) (withBanks .compute) (fun x => (x.s.core 0).mayExec x.q.lk 0)
    && seen (.bexec plain 1 0 0 0 255 0) (withBanks .storage) (fun _ => true)
    && seen (.bexec plain 1 40 0 0 255 0) (withBanks .compute) (fun x => !(x.s.core 0).mayExec x.q.lk 40) = true := by decide
theorem witness_bank_modes :
    seen (.bmode plain 1 true 0) (withBanks .compute) (fun x => (x.s.bank 0 ((x.s.core 0).physBank x.q 1)).mode == .compute)
    && seen (.bmode plain 1 false 0) (withBanks .compute) (fun x => (x.s.bank 0 ((x.s.core 0).physBank x.q 1)).mode == .compute)
    && seen (.bmode plain 1 true 0) (withBanks .toComp) (fun x => (x.s.bank 0 ((x.s.core 0).physBank x.q 1)).mode == .toComp)
    && (match (withBanks .toComp).issuing plain with
        | some x => x.lanes != 0 && (x.s.bank 0 ((x.s.core 0).physBank x.q 1)).mode == .toComp && !pathHeld x
            && !coverStalls x plain (.bmode plain 1 false 0) && !illegalWord x plain (.bmode plain 1 false 0)
        | none => false)
    && seen (.bwait plain 1 false 0) (withBanks .compute) (fun x => x.s.bwaitOver x.core x.slot x.s.fresh 5)
    && seen (.bwait plain 1 false 0)
        (part { core1 with banks := [(5, { queue := [{ work := .bclr 1, slot := 0, lk := lkOf 1 7 }] })] } launch1)
        (fun x => !x.s.bwaitOver x.core x.slot x.s.fresh 5) = true := by decide
/-- A quire whose s1 holds a microword of a mnemonic. -/
def withMicroword (op : Nat) : State :=
  part { core1 with banks := [(2, { mode := .compute })],
                    quires := [(0, { quire1 with sr := [(1, BitVec.ofNat 64 (op * 2 ^ 60))] })] } launch1
theorem witness_microwords :
    let w (op : Nat) (x : Ictx) : Bool := wordOk 256 (x.sh.s 1) && mwOp (x.sh.s 1) == op
    ([.bcw plain 0 1 2 0, .bct plain 0 1 2 0, .btw plain 0 1 2 0, .btt plain 0 1 2 0, .bcnt plain 0 0 1 2 0,
      .bfirst plain 0 0 1 2 0] : List Instr).zipIdx.all (fun e => seen e.1 (withMicroword e.2) (w e.2)
        && seen e.1 (withMicroword 15) (fun x => !w e.2 x) && seen e.1 (withBanks .storage) (fun _ => true)) = true
    ∧ seen (.bcw plain 2 1 2 0) (withBanks .compute) (fun x => ((x.s.core 0).shareOf x.q).banks.length == 2) = true := by decide
/-- A quire with scalar registers 1 and 2, and slot 32 of an owner. -/
def withCodex (a n : Dword) (o : Option Nat) : State :=
  part { core1 with quires := [(0, { quire1 with sr := [(1, a), (2, n)] })], codex := [(32, { owner := o })] } launch1
theorem witness_bcodex :
    let i : Instr := .bcodex plain 32 1 2 0
    let own (x : Ictx) : Option Nat := ((x.s.core 0).codex.get {} 32).owner
    seen i (withCodex 0x10004 1 none) (fun x => (x.sh.s 1).toNat % 8 != 0)
    && seen i (withCodex 0x10000 1 (some 9)) (fun x => own x == some 9)
    && seen i (withCodex 0x10000 0 none) (fun x => own x == none && x.sh.s 2 == 0)
    && seen i (withCodex 0x10000 257 (some (lkOf 1 7))) (fun x => own x == some x.q.lk && x.sh.s 2 == 257)
    && seen i (withCodex 0x10000 2 none) (fun x => own x == none && (x.s.core 0).tlb.isEmpty && (x.s.die 0).tlb.isEmpty
        && (x.s.core 0).restoreFor.isNone
        && (List.range 2).all (fun j => (x.s.launch x.q.lk).leased (0x10000 + 8 * j) 8))
    && seen i { withCodex 0x10000 2 none with
          restoring := some 9, launches := [(9, { saved := [{ core := 0, codex := [(32, {})] }] }), (lkOf 1 7, launch1)] }
        (fun x => x.s.restoring == some 9 && x.q.lk != 9
          && (x.s.launch 9).saved.any (fun y => y.core == x.core && y.codex.any (fun e => e.1 == 32))) = true := by
  decide

-- ## System words and faults

theorem witness_system :
    ([.sysrd plain 0 0x107, .syswr plain 0x001 1, .syswr plain 0x002 1, .syswr plain 0x005 1, .syswr plain 0x010 1,
      .syswr plain 0x017 1, .syswr plain 0x000 1, .syswr plain 0x107 1, .trap plain 0, .bunbind plain, .bindnow plain 0] :
      List Instr).all (fun i => seen i s1 (fun _ => true)) = true := by decide
/-- A launch with a handler, and whether lane 0 is in it. -/
def withHandler (b : Bool) : State :=
  part { core1 with quires := [(0, { quire1 with threads := quire1.threads.set 0 { pc := 0x1000, handler := b } })] }
    { launch1 with rcd := { launch1.rcd with handler := 0x100 } }
theorem witness_traps :
    let inside (x : Ictx) : Bool := (lanesOf x.lanes).all (fun n => (x.q.th n).handler)
    let no (x : Ictx) : Bool := (x.s.launch x.q.lk).rcd.handler == noHandler
    seen (.brk plain 0) (withHandler false) (fun x => !no x && !inside x) && seen (.brk plain 0) (withHandler true) inside
    && seen (.brk plain 0) s1 no && seen (.eret plain) (withHandler true) inside
    && seen (.eret plain) (withHandler false) (fun x => !inside x) && seen (.eretNext plain) (withHandler true) inside
    && seen (.eretNext plain) (withHandler false) (fun x => !inside x) = true := by decide
theorem witness_handler_entry :
    let s := withHandler false
    let p : Pend := { cause := .user, deliv := 3, mask := 1 }
    p.cause.isFatal = false ∧ p.cause ≠ .ecc ∧ (s.launch (s.quire 0 0).lk).rcd.handler ≠ noHandler
    ∧ (s.core 0).resident = none ∧ p.deliv < 4 ∧ ((s.quire 0 0).th 0).handler = false := by decide
theorem witness_fatal_faults :
    (s1.core 0).resident = none ∧ Cause.lease.isFatal = true ∧ (s1.launch (s1.quire 0 0).lk).rcd.handler = noHandler
    ∧ (((withHandler true).quire 0 0).th 0).handler = true ∧ ((withHandler true).core 0).resident = none := by decide
theorem witness_system_values : ((State.reset.core 0).heatAt (State.reset.core 0).bindSel.toNat).lk ≠ 1 := by decide

-- ## Floating point on values

theorem witness_minimum :
    (fp32.read false 0x7FC00000).isNan = true ∧ (fp32.read false 0x7F800001).isSig = true
    ∧ (fp32.read false 0x80000000).isNan = false ∧ (fp32.read false 0x3F800000).isNan = false := by decide
/-- The hypotheses of the completion statement of FloatSelectRoundClassify, met by each of its words. -/
theorem witness_select_round_classify : ([
    .fmin plain fp0 false 0 0 0, .fmax plain fp0 true 0 0 0, .dmin plain fp0 true 0 0 0, .dmax plain fp0 false 0 0 0,
    .fround plain fp0 true 0 0, .fclass plain 0 false 0 0, .fclass plain 1 false 0 0, .fclass plain 2 true 0 0,
    .fclass plain 3 false 0 0] : List Instr).all (fun i => seen i s1 (fun _ => true)) = true := by decide
theorem witness_rounding :
    (FVal.fin true 5 (-1)).toInt .rne 1 0 (-128) 127 = (-2, fNX) ∧ (FVal.fin false 5 (-1)).toInt .rup 1 0 (-128) 127 = (3, fNX)
    ∧ (FVal.fin true 5 (-1)).toInt .rtz 1 0 (-128) 127 = (-2, fNX) ∧ (FVal.fin true 5 (-1)).toInt .rdn 1 0 (-128) 127 = (-3, fNX)
    ∧ (FVal.fin false 3 0).toInt .rne 1 0 (-128) 127 = (3, 0) ∧ (FVal.fin false 1 7).toInt .rne 1 0 (-128) 127 = (127, fNV) := by
  decide
theorem witness_words_general :
    let s := s1
    (∃ x, s.issuing plain = some x ∧ pathHeld x = false ∧ coverStalls x plain (.nop plain) = false
      ∧ illegalWord x plain (.brx plain 0 1) = true ∧ coverStalls x plain (.brx plain 0 1) = false)
    ∧ s.issuingAt 0 plain = s.issuing plain ∧ (Instr.exit plain).runEnding = true := by
  refine ⟨⟨_, rfl, by decide, by decide, by decide, by decide⟩, rfl, by decide⟩
theorem witness_no_participant :
    let h : Head := { plain with gn := true, gp := 0 }
    let s := withThread { p := 1 }
    ∃ x, (Instr.nop h).head = some h ∧ s.issuing h = some x ∧ x.q.live = true ∧ pathHeld x = false
      ∧ coverStalls x h (.nop h) = false ∧ illegalWord x h (.nop h) = false ∧ portStalls x (.nop h) = false
      ∧ runYields x (.nop h) = false ∧ lateResult x (.nop h) = false ∧ x.lanes = 0 := by
  refine ⟨_, rfl, rfl, by decide, by decide, by decide, by decide, by decide, by decide, by decide, by decide⟩

-- ## Steps and device steps

/-- Tables that map the first GiB of context 1 to M-die 1, for reads and writes. -/
def tables : List Host.Cell := memPuts (memPuts [] 0x20000 (toLe 8 0x3000001)) 0x30000 (toLe 8 0x2057)
/-- The physical address of 0x10000 there. -/
def page1 : Nat := 2 ^ 36 + 0x10000
/-- A ready part with context 1 and nothing due. -/
def w0 : State :=
  { State.reset with ready := true, agenda := [], now := 2000000, mem := tables, ctxs := [(1, { v := true, root := 2 })] }
/-- `w0` at a unit, and what of it. -/
def at_ (s : State) (u : Nat) (sub : Nat := 0) (item : Nat := 0) : State := { s with here := { unit := u, sub := sub, item := item } }

theorem witness_step :
    let s := State.reset.withFetchWord 64 0x9EF0000000000000
    let u := s.refresh
    s.power = true ∧ (∀ d ∈ u.agenda, u.now < d.tick) ∧ u.paused.contains (islandOf u.focus) = false
    ∧ (u.core u.focus).resident = none ∧ (match (u.core u.focus).run with
        | none => false
        | some r => r.stalled != some u.events && !u.overlong u.focus ((u.core u.focus).quire r.slot) r.a.pc
            && (match (u.fetch u.focus ((u.core u.focus).quire r.slot) r.a.pc).1 with
                | .ok w => w == 0x9EF0000000000000
                | _ => false)) = true
    ∧ decodeTableWord 64 0x9EF0000000000000 = some (.nop plain) := by decide
theorem witness_fetch :
    let s := State.reset.withFetchWord 64 0
    let e : TlbEntry := { ctx := 0, va := wordVa, lg := 16, leaf := wordLeaf }
    let pa := physOf e.leaf e.lg 0x10000
    (s.launch wordQuire.lk).leased 0x10000 8 = true
    ∧ (s.core 0).tlb.find? (fun e => e.covers (s.launch wordQuire.lk).ctx 0x10000) = some e ∧ e.aged = false
    ∧ leafPermits e.leaf .fetch = true ∧ s.homeOf pa ≠ .hole ∧ pa % 8 = 0 ∧ s.unreachable (dieOf 0) pa = false ∧ s.readWaits (dieOf 0) pa = false
    ∧ s.poison.contains (pa / 128) = false ∧ (s.core 0).icache.find (pa / 128) = none
    ∧ (s.die (dieOf 0)).cache.find (pa / 128) = none := by decide
theorem witness_invariant : Memory.wf State.reset.mem = true ∧ Memory.wf w0.mem = true ∧ State.reset.power = true ∧ { State.reset with power := false }.power = false := by
  decide
theorem witness_words : (Instr.nop plain).isWord = true ∧ (Instr.nop plain).wf = true := by decide
theorem witness_illegal_word :
    decodeTableWord 64 0x9EE8000000000000 = some (.exit plain) ∧ (Instr.exit plain).runEnding = true
    ∧ decodeTableWord 64 0xBAF0000000000000 ≠ none ∧ (0xBAF0000000000000 : Dword).getLsbD 61 = true := by decide

-- Requests at their homes

/-- A request for four bytes of M-die 1. -/
def rq : Req :=
  { core := 0, lk := lkOf 1 7, ctx := 1, ins := 9, va := 0x10000, pa := page1, size := 4, data := [1, 2, 3, 4], mask := [true] }
/-- It, as the one request there is. -/
def withReq (r : Req) : State := { w0 with reqs := [(5, r)], here := { unit := 5 } }
/-- What AtHome asks of it. -/
def atHome (s : State) (r : Req) : Bool :=
  s.here.unit == 5 && s.reqs.find 5 == some r && r.stage == .home && (s.deadDie r).isNone && !s.lineBusy 5 r && (s.movedBy r).isNone
theorem atHome_spec {s : State} {r : Req} (h : atHome s r = true) : AtHome s 5 r := by
  simp only [atHome, Bool.and_eq_true, beq_iff_eq, Option.isNone_iff_eq_none, Bool.not_eq_true'] at h
  obtain ⟨⟨⟨⟨⟨h1, h2⟩, h3⟩, h4⟩, h5⟩, h6⟩ := h
  exact ⟨h1, h2, h3, h4, h5, h6⟩
theorem witness_reads_at_home :
    let h : Req := { rq with pa := 0x800000000000 }
    let a : Req := { rq with stage := .host, kind := .atom }
    atHome (withReq rq) rq = true ∧ isRegArea rq.pa = false ∧ (withReq rq).homeOf rq.pa = .hbm 1
    ∧ atHome (withReq h) h = true ∧ isRegArea h.pa = false ∧ (withReq h).homeOf h.pa = .host
    ∧ (withReq { rq with stage := .host }).reqs.find 5 = some { rq with stage := .host }
    ∧ (withReq a).reqs.find 5 = some a ∧ Memory.wf (withReq a).mem = true ∧ (withReq a).poison.contains a.line = false
    ∧ a.agent = .thread ∧ (withReq a).atomSpoilt a = false := by decide
theorem witness_writes_at_home :
    let w : Req := { rq with kind := .write }
    let m : Req := { rq with kind := .wmask }
    let v : Req := { w with pa := 0x080000000100 }
    let s : State := { withReq v with hostCached := [v.line] }
    let t : State := { withReq { v with stage := .snoop } with hostCached := [v.line] }
    atHome (withReq w) w = true ∧ (withReq w).mustSnoop w = false ∧ atHome (withReq m) m = true ∧ (withReq m).mustSnoop m = false
    ∧ Memory.wf (withReq w).mem = true ∧ (withReq w).homeOf w.pa ≠ .hole ∧ isRegArea w.pa = false
    ∧ atHome s v = true ∧ isRegArea v.pa = false ∧ s.homeOf v.pa ≠ .hole ∧ s.mustSnoop v = true
    ∧ t.reqs.find 5 = some { v with stage := .snoop } ∧ v.agent = .thread ∧ Memory.wf t.mem = true := by decide
theorem witness_atomics_at_home :
    let a : Req := { rq with kind := .atom }
    let r : Req := { rq with kind := .red }
    let p (x : Req) : State := { withReq x with poison := [x.line] }
    (∀ e ∈ [(withReq a, a), (withReq r, r), (p a, a), (p r, r)], atHome e.1 e.2 = true ∧ isRegArea e.2.pa = false
      ∧ e.1.homeOf e.2.pa = .hbm 1 ∧ e.1.mustSnoop e.2 = false ∧ Memory.wf e.1.mem = true)
    ∧ (withReq a).poison.contains a.line = false ∧ (p a).poison.contains a.line = true ∧ (withReq a).atomSpoilt a = false
    ∧ (p r).atomSpoilt r = false ∧ r.agent = .thread
    ∧ (let g : Req := { r with agent := .logic }
       atHome (p g) g = true ∧ (p g).poison.contains g.line = true) := by decide
theorem witness_responses :
    let r : Req := { rq with stage := .resp, answer := [1, 2, 3, 4] }
    let n : Ins := { core := 0, slot := 0, path := 1, lanes := 1, result := .load 2 5, left := 1 }
    let q : Quire := { live := true, threads := [(0, { outst := [{ id := 9, regs := [5] }] })] }
    let s : State := { withReq r with ins := [(9, n)], cores := [(0, { quires := [(0, q)] })] }
    let d : Req := { r with kind := .write, gwct := 7 }
    s.reqs.find 5 = some r ∧ r.srcDev = none ∧ r.prefetch = false ∧ r.status = 0 ∧ r.brings = true ∧ d.brings = false ∧ s.ins.find 9 = some n ∧ n.bad = 0
    ∧ n.arrives = 0 ∧ (∀ e ∈ s.reqs, e.2.stage ≠ .hold) ∧ ((s.quire 0 0).th 0).awaits 9 = true
    ∧ (at_ s 9 1).ins.find 9 = some n ∧ (at_ s 9 1).here = { unit := 9, sub := 1 }
    ∧ (withReq d).reqs.find 5 = some d ∧ (withReq d).ins.find 9 = none ∧ d.core < 640 ∧ d.kind ≠ .read := by decide
theorem witness_request_failures :
    let m : Req := { rq with stage := .remote }
    let p : Req := { rq with prefetch := true }
    (withReq rq).reqs.find 5 = some rq ∧ rq.stage ∈ [Stage.snoop, .host, .held, .home, .resp] ∧ rq.issued + 200000 ≤ (withReq rq).now
    ∧ rq.lost = false ∧ rq.prefetch = false ∧ rq.srcDev = none ∧ (withReq p).reqs.find 5 = some p
    ∧ (withReq m).reqs.find 5 = some m ∧ m.lost = false ∧ m.issued + 1000000 ≤ (withReq m).now := by decide

-- From a notify store to READY

/-- A launch of context 1 that X-die 0 holds. -/
def l0 : Launch := { ctx := 1, lid := 7, recPtr := 0x10000, ranges := [{ base := 0x100000, npage := 1, ex := true }] }
/-- `w0` with it, at it. -/
def withLaunch (l : Launch) : State := { w0 with launches := [(lkOf 1 7, l)], here := { unit := lkOf 1 7 } }
/-- A record of one group, with its one declared range, as bytes of memory. -/
def recordBytes : List Byte :=
  toLe 8 0x100000 ++ toLe 4 0 ++ toLe 4 0xFFFFFFFF ++ toLe 4 1 ++ [1, 1] ++ toLe 9 0 ++ [1] ++ toLe 112 0 ++ toLe 8 0x10100
    ++ toLe 2 1 ++ toLe 102 0 ++ toLe 8 0x100000 ++ toLe 8 (1 + 2 ^ 36)
theorem witness_page_writes :
    let s64 : State := { w0 with launches := (List.range 64).map (fun n => (lkOf 1 n, { l0 with lid := n })) }
    let n : Notify := { recPtr := 0x10000 }
    let sw : State := at_ { w0 with ctxs := [(1, { w0.ctx 1 with waiting := [n] })] } 1
    (w0.ctx 1).waiting = [] ∧ w0.heldOfCtx 1 < 64 ∧ (w0.ctx 1).v = true ∧ w0.ready = true ∧ w0.bridgeDown = false
    ∧ (w0.ctx 2).v = false ∧ (w0.ctx 2).waiting = [] ∧ w0.heldOfCtx 2 < 64 ∧ 64 ≤ s64.heldOfCtx 1
    ∧ (sw.ctx sw.here.unit).waiting = [n] ∧ sw.heldOfCtx sw.here.unit < 64 ∧ (sw.ctx sw.here.unit).v = true := by decide
theorem witness_notify_effect :
    let s := withLaunch l0
    let h (v : Dword) : State := at_ { w0 with ctxs := [(1, { w0.ctx 1 with hnotify := [v] })] } 1
    s.launches.find s.here.unit = some l0 ∧ l0.state = .queued ∧ l0.ending = none ∧ s.hlx ≤ s.now
    ∧ s.now < { s with hlx := 3000000 }.hlx ∧ ((h 0x10000).ctx 1).hnotify = [0x10000] ∧ ((h 1).ctx 1).hnotify = [1]
    ∧ (h 1).hlx ≤ (h 1).now ∧ (h 1).reqs = [] ∧ ((h 1).die 24).gwctMax ≤ (h 1).nowAt 24
    ∧ (({ h 1 with reqs := [(5, { rq with agent := .host })] } : State).req 5).agent = .host
    ∧ (match (((h 0x10000).setCtx 1 { (h 0x10000).ctx 1 with hnotify := [] }).logicPa 1 0x10000 .atomic) with
        | (.ok pa, w) => w.homeOf pa == .hbm 1 && Memory.wf w.mem && !w.unreachable 24 pa && !w.poison.contains (pa / 128)
            && w.lineFree pa && !{ w with hostCached := [pa / 128] }.lineFree pa
        | _ => false) = true := by decide
set_option maxRecDepth 4000 in
theorem witness_record_check :
    let s : State := { withLaunch l0 with mem := memPuts tables page1 recordBytes }
    s.launches.find s.here.unit = some l0 ∧ l0.recPtr.toNat % 256 = 0 ∧ (withLaunch { l0 with recPtr := 1 }).launches ≠ []
    ∧ (match s.logicRead 1 0x10000 256 with
        | (.ok bs, u) => bs.getD 0x1F 0 == 1 && (match u.checkRecord (lkOf 1 7) bs with
            | (.ok l, _) => l.rcd.deps == [] && l.ranges == l0.ranges
            | _ => false)
        | _ => false) = true := by decide
theorem witness_leasing :
    let s (b : Nat) : State :=
      withLaunch { l0 with state := .leasing, ranges := [{ base := b, npage := 1, rd := true }], asks := [(0x4000, 1, 1)] }
    let p (x : State) : State := { x with prqLog2 := 6 }
    let asks (x : State) : Found (List (Nat × Nat × Nat)) := (x.lookRanges 1 (x.launch (lkOf 1 7)).ranges).1
    asks (s 0x10000) = .ok [] ∧ asks (s 0x40000000) = .ok [(0x4000, 1, 1)] ∧ (s 0x40000000).prqOn = false
    ∧ asks (p (s 0x40000000)) = .ok [(0x4000, 1, 1)] ∧ (p (s 0)).prqOn = true ∧ (p (s 0)).prqFull = false ∧ Memory.wf (p (s 0)).mem = true := by decide
theorem witness_layouts :
    let l : Launch := { l0 with state := .checking, layouts := [{ shape := 0x10000 }], ranges := [{ base := 0x10000, npage := 1 }] }
    ((withLaunch { l with layouts := [] }).layoutsMeet { l with layouts := [] } []).1 = .ok ()
    ∧ ((withLaunch l).layoutsMeet l l.layouts).1 = .no := by decide
theorem witness_page_requests :
    let l : Launch := { l0 with state := .leasing, asks := [(0x4000, 1, 1)] }
    let s : State := { withLaunch l with prqLog2 := 6 }
    s.launches.find (lkOf 1 7) = some l ∧ s.prqOn = true ∧ s.prqFull = false ∧ s.lineFree s.prqSlot = true ∧ Memory.wf s.mem = true
    ∧ s.prqTail = s.prqHead ∧ ({ s with hostCached := [s.prqSlot / 128] } : State).prqOn = true
    ∧ ({ s with hostCached := [s.prqSlot / 128] } : State).lineFree s.prqSlot = false := by decide
theorem witness_page_responses :
    let l : Launch := { l0 with state := .leasing, requests := [(0, 1, 1, 1)] }
    let s : State := { withLaunch l with ctxs := [(1, { w0.ctx 1 with rids := [(0, 7)] })] }
    (s.ctx 2).v = false ∧ bitsOf (ridOf 1 0 0) 18 6 = 1 ∧ bitsOf (ridOf 1 0 0) 24 8 = (s.ctx 1).gen.toNat
    ∧ (∃ e ∈ (s.ctx 1).rids, e.1 = bitsOf (ridOf 1 0 0) 0 18)
    ∧ s.launches.find? (fun e => e.2.ctx == 1 && e.2.state == .leasing && e.2.ending.isNone
        && e.2.requests.any (fun r => r.1 == bitsOf (ridOf 1 0 0) 0 18)) = some (lkOf 1 7, l)
    ∧ l.asks = [] ∧ (BitVec.ofNat 64 (2 ^ 32 + ridOf 1 0 0)).getLsbD 32 = true ∧ (s.missing 1 1 [1]).1 = .ok [] := by decide

-- Dispatch and the resources of cores

/-- A launch with groups for die 0. -/
def l1 : Launch :=
  { launch1 with state := .ready, quires := 0, unplaced := [(0, [0, 1]), (1, [2, 3, 4])], rcd := { groups := 5, qpg := 2 } }
theorem witness_placement :
    let s := at_ { withLaunch l1 with now := 5000 } 0
    (s.die 0).failed = false ∧ (s.die 0).lastPlace = 0 ∧ s.placement 0 = some (0, lkOf 1 7, 0) := by decide
theorem witness_steal_and_reserve :
    let s := at_ (withLaunch { l1 with unplaced := [(1, [2, 3, 4])] }) 0
    let t : State := { s with dies := [(0, { stealing := some (lkOf 1 7, 1, [3, 4]) })] }
    let u := at_ (withLaunch l1) 0
    (s.die 0).stealing = none ∧ s.firstWaiting 0 = none ∧ s.loot 0 = some (lkOf 1 7, 1, [4])
    ∧ (t.die 0).stealing = some (lkOf 1 7, 1, [3, 4]) ∧ t.launches.find (lkOf 1 7) ≠ none
    ∧ u.firstWaiting 0 = some (lkOf 1 7, l1) ∧ (u.die 0).resv = none ∧ l1.since 0 + 4096 ≤ u.now
    ∧ u.roomiest ((u.coresFrom 0 (lkOf 1 7) 0).filter (fun c => (u.core c).reserved.isNone)) = some 0 := by decide
theorem witness_resources :
    let q : Quire := { live := true, waits := [{ kind := .claim 3 }] }
    let s : State := at_ { w0 with cores := [(0, { shares := [(1, { banks := [2], clearing := true })], clearing := [(4, [9])],
                                                   claims := [6], quires := [(6, q)], freeBlocks := 5 })] } 0 1
    (s.core 0).shares.find 1 = some { banks := [2], clearing := true } ∧ (s.bank 0 2).busy = false ∧ (s.bank 0 2).queue = []
    ∧ (s.core 0).clearing = [(4, [9])] ∧ s.ins.find 9 = none ∧ (s.core 0).claims = [6]
    ∧ (s.quire 0 6).waits.map QWait.kind = [.claim 3] ∧ 3 + s.restoreNeed 0 ≤ (s.core 0).freeBlocks := by decide
theorem witness_arrival :
    let x : Queue := { v := true, ctx := 1, nslot := 2, alrec := 0x40000000, arm := true, wmark := 1, sram := [([], false)] }
    let s := at_ { w0 with queues := [(3, x)] } 3
    s.queue 3 = x ∧ x.triggers = true ∧ (s.ctx x.ctx).v = true ∧ s.ready = true ∧ s.bridgeDown = false
    ∧ s.arrivalRoom x = true ∧ s.stoppingOn 3 = false := by decide

-- Run boundaries

/-- Core 0 between runs, its quire ready, with its first two lanes at given places. -/
def between (a b : Thread) (l : Launch) : State :=
  let q : Quire := { quire1 with ready := true, threads := (quire1.threads.set 0 a).set 1 b }
  at_ (part { core1 with run := none, quires := [(0, q)] } l) 0
theorem witness_run_boundary :
    let ok (s : State) : Bool := (s.core 0).boundary && Core.fillActive 8 (s.core 0) == s.core 0 && (s.core 0).swap?.isNone
      && (s.core 0).served none == some 0 && (s.pendGroup 0 (s.quire 0 0)).isNone
    let paths (s : State) : Option (Dword × Option Dword) :=
      (s.quire 0 0).paths (s.eligible 0 (s.quire 0 0)) (s.soloRun 0 (s.quire 0 0))
    let s := between { pc := 0x1000 } { exited := true } launch1
    let t := between { pc := 0x1000 } { pc := 0x1008 } launch1
    ok s = true ∧ paths s = some (0x1000, none) ∧ ok t = true ∧ paths t = some (0x1000, some 0x1008) := by decide
/-- A core on which a promotion is due. -/
def promoting : Core :=
  { promo := 64, quires := (List.range 9).map (fun n => (n, ({ live := true, active := decide (n < 8), ready := true, entered := n } : Quire))) }
theorem witness_promotion :
    promoting.promotes = true ∧ promoting.oldestPending = some 8 ∧ firstBy (fun j => (promoting.quire j).entered) promoting.actives = some 0 := by
  decide
theorem witness_phase_expiry :
    let q : Quire := { quire1 with timer := { armed := true, budget := 1, margin := 8 } }
    let s : State := { withQuire q with now := 2000 }
    q.live = true ∧ q.timer.armed = true
    ∧ q.timer.budget.toNat * q.timer.margin / 4 + 4096 < s.timerCount 0 q.timer ∧ (q.th 0).exited = false
    ∧ (s.launch q.lk).rcd.handler = noHandler ∧ (s.core 0).resident = none
    ∧ ((withHandler false).launch q.lk).rcd.handler ≠ noHandler
    ∧ (∀ i < 32, (q.th i).exited = false → (q.th i).handler = false)
    ∧ s.timerCount 0 { q.timer with budget := 0xFFFFFFFF } ≤ ({ q.timer with budget := 0xFFFFFFFF } : PhaseTimer).limit
    ∧ ({ q with waits := [{ kind := .gbar 3 }] } : Quire).waits.any QWait.isBarrier = true ∧ (at_ s 0 0 1).here.item ≠ 0
    ∧ q.waits.any QWait.isBarrier = false ∧ s.inIteration 0 0 (maskOf q.liveLanes) = []
    ∧ (let r : Resident := { folio := 1, threads := [(0, 0)], cur := some (0, 0, {}) }
       ({ s with cores := [(0, { s.core 0 with resident := some r })] } : State).inIteration 0 0 (maskOf q.liveLanes) ≠ []) := by
  decide

-- Contexts, and the ends of launches

theorem witness_contexts :
    let l : Launch := { l0 with state := .leasing }
    let s : State := { withLaunch l with ctxs := [(1, { w0.ctx 1 with kept := [(7, l.state.code, 0)] })] }
    (w0.ctx 2).v = false ∧ (w0.ctx 1).v = true ∧ w0.launches = [] ∧ s.launches = [(lkOf 1 7, l)] ∧ s.cores = []
    ∧ (l.lid, l.state.code, 0) ∈ (s.ctx 1).kept ∧ (s.ctx 1).v = true := by decide
/-- A launch that has nothing left to do, with a retire add at 0x10000 or none. -/
def ended (p : Dword) : Launch := { l0 with state := .running, recOk := true, rcd := { retPtr := p, retAdd := 5 } }
theorem witness_retirement :
    let s := withLaunch (ended 0)
    let t := withLaunch (ended 0x10000)
    let u := t.setLaunch (lkOf 1 7) { ended 0x10000 with retiring := true, stopping := false }
    s.mayRetire (lkOf 1 7) (ended 0) = true ∧ (ended 0).adds = false ∧ s.waitOver (s.retireWait (lkOf 1 7)) = true
    ∧ t.mayRetire (lkOf 1 7) (ended 0x10000) = true ∧ (ended 0x10000).adds = true ∧ u.waitOver (u.retireWait (lkOf 1 7)) = true
    ∧ (match u.logicPa 1 0x10000 .atomic with
        | (.ok pa, w) => !isRegArea pa && Memory.wf w.mem && !w.unreachable 24 pa && !w.poison.contains (pa / 128)
            && w.lineFree pa && !{ w with hostCached := [pa / 128] }.lineFree pa
        | _ => false) = true := by decide
theorem witness_fatal_causes :
    let s (l : Launch) : State := { withLaunch l with fatal := [(lkOf 1 7, { cause := .ecc })] }
    ∀ l ∈ [l0, { l0 with ending := some .fKilled }], (s l).fatal.find? (fun e => e.1 == lkOf 1 7) ≠ none
      ∧ (s l).launches.find (lkOf 1 7) = some l := by decide
theorem witness_sleepers :
    let q : Quire := { quire1 with threads := quire1.threads.set 0 { wait := some { reason := .sleep, deadline := 5 } } }
    q.live = true ∧ (q.th 0).wait = some { reason := .sleep, deadline := 5 } ∧ 5 ≤ (withQuire q).nowAt (dieOf 0) := by decide
/-- A quire that has sent an arrival with a count at barrier 3, and the barrier. -/
def atBarrier (n : Nat) (b : PBar) : State :=
  at_ (part { core1 with quires := [(0, { quire1 with waits := [{ kind := .pbar 3, lanes := 1, vd := 5, count := n }] })] }
    { launch1 with pbars := [(3, b)] }) 0 0 3
theorem witness_package_barriers :
    let ok (s : State) (n : Nat) (b : PBar) : Bool := (s.quire 0 0).waits == [{ kind := .pbar 3, lanes := 1, vd := 5, count := n }]
      && (s.launch (s.quire 0 0).lk).pbar 3 == b && s.waits.isEmpty
    ok (atBarrier 0 {}) 0 {} ∧ ok (atBarrier (2 ^ 29 + 1) {}) (2 ^ 29 + 1) {} ∧ ok (atBarrier 2 { n := some 3 }) 2 { n := some 3 }
    ∧ ok (atBarrier 3 {}) 3 {} ∧ ok (atBarrier 3 { n := some 3, arrived := 2 }) 3 { n := some 3, arrived := 2 }
    ∧ ok (atBarrier (2 ^ 29) { arrived := 2 ^ 29 - 1 }) (2 ^ 29) { arrived := 2 ^ 29 - 1 } := by decide

-- Pre-emption

/-- Two launches of context 1, the first on core 0. -/
def pair1 : State :=
  let a : Launch := { l0 with state := .running }
  let b : Launch := { l0 with lid := 8, state := .ready, rcd := { prio := 1 } }
  { w0 with launches := [(lkOf 1 7, a), (lkOf 1 8, b)], ctxs := [(1, { w0.ctx 1 with pvic := true, pmax := 3 })],
            cores := [(0, { shares := [(0, { lk := lkOf 1 7 })], freeBlocks := 0 })], dies := [(0, { resv := some (0, lkOf 1 8, 100) })] }
theorem witness_preemption :
    let l := pair1.launch (lkOf 1 7)
    pair1.launches.find (lkOf 1 7) = some l ∧ l.state = .running ∧ l.stopping = false ∧ l.ending = none ∧ l.retiring = false
    ∧ (pair1.die 0).resv = some (0, lkOf 1 8, 100) ∧ 100 + 4096 ≤ pair1.now ∧ pair1.askStands 0 = false
    ∧ pair1.victimOn 0 (pair1.launch (lkOf 1 8)) = some (lkOf 1 7) ∧ pair1.fits 0 (lkOf 1 8) = false ∧ (pair1.ctx 1).pvic = true
    ∧ (w0.ctx 1).pvic = false := by decide
theorem witness_engines_stop :
    let l : Launch := { l0 with state := .running, stopping := true }
    let m : Launch := { l with collecting := List.range 16, acked := (List.range 15).map (fun n => n + 1) }
    let f : Launch := { l with acked := List.range 16 }
    let s := at_ (withLaunch l) 3 0 (lkOf 1 7)
    let t := at_ (withLaunch m) 0
    s.launches.find s.here.item = some l ∧ l.collecting.contains 3 = false
    ∧ (t.launches.filter (fun e => e.2.stopping && e.2.collecting.contains 0 && !e.2.acked.contains 0)).map Prod.fst = [lkOf 1 7]
    ∧ (∀ n < 40, t.coreStopped (40 * 0 + n) (lkOf 1 7) = true) ∧ t.cores = [] ∧ 15 ≤ m.acked.length
    ∧ t.waitOver { t.retireWait (lkOf 1 7) with goal := .drain (lkOf 1 7) } = true
    ∧ (withLaunch f).launches.find (lkOf 1 7) = some f ∧ 16 ≤ f.acked.length := by decide
/-- A launch saved with one share of one quire. -/
def saved1 : Launch :=
  { launch1 with state := .preempted, saved := [{ core := 0, share := 0, quires := [(0, { quire1 with active := false })] }] }
theorem witness_save_and_restore :
    let l : Launch := { launch1 with stopping := true, drained := true }
    let s : State := at_ (part core1 l) (lkOf 1 7)
    let t : State := { withLaunch saved1 with here := {} }
    let u : State := { t with restoring := some (lkOf 1 7) }
    s.launches.find (lkOf 1 7) = some l ∧ (s.sharesOf (lkOf 1 7)).length = 1 ∧ (s.core 0).slotsOf (lkOf 1 7) = [0]
    ∧ t.writtenBack = none ∧ t.nextRestore = some (lkOf 1 7) ∧ t.launch (lkOf 1 7) = saved1 ∧ saved1.ending = none
    ∧ u.restoring = some (lkOf 1 7) ∧ u.launch (lkOf 1 7) = saved1 ∧ saved1.state = .preempted
    ∧ saved1.saved.all ((t.reserveFor (lkOf 1 7)).shareFits (lkOf 1 7))
    ∧ saved1.saved.all (fun x => x.cmds.isEmpty && decide (x.quires.map Prod.fst).Nodup && x.quires.all (fun e => e.2.waits.isEmpty))
    ∧ (at_ t 0 1 (lkOf 1 7)).here.sub = 1 ∧ (at_ t 0 1 (lkOf 1 7)).here.item = lkOf 1 7 := by decide

-- Translation and placement

theorem witness_walks_complete :
    let s : State := at_ { w0 with walks := [(0, 1, 1)] } 0 1 0x10000
    let t : State := at_ { w0 with walks := [(0, 1, 0x4000)] } 0 1 0x40000000
    s.here = { unit := 0, sub := 1, item := 0x10000 } ∧ (0, 1, 0x10000 / 65536) ∈ s.walks
    ∧ (s.walk 0 1 0x10000).1 = .leaf 0x2057 30 0x30000 ∧ (0, 1, 0x40000000 / 65536) ∈ t.walks
    ∧ (t.walk 0 1 0x40000000).1 = .perm ∧ t.joined 0 1 (0x40000000 / 65536) = [] := by decide
theorem witness_sweeps : Memory.wf w0.mem = true ∧ w0.sweepPeriod ≠ 0 ∧ w0.poison = []
    ∧ (5 : Dword).extractLsb' 0 32 ≠ 0 := by decide
theorem witness_invalidation :
    let v : TlbInv := { page := 1, ctx := 1, pend := true }
    let s : State := at_ { w0 with tlbinv := [(0, v)] } 0
    (w0.tlbinv.get {} 0).pend = false ∧ (s.tlbinv.get {} 0).pend = true ∧ s.tlbinv.find 0 = some v
    ∧ s.moves.find (0 - 2) = none := by decide

/-- `w0` with a leaf of a 2 MiB page at 0 and of one of 64 KiB at 2 MiB, on M-die 1; the second under a move to
M-die 2, or not. -/
def movable (m : Bool) : State :=
  let t := memPuts (memPuts (memPuts tables 0x30000 (toLe 8 0x4000001)) 0x40000 (toLe 8 0x2057)) 0x40008 (toLe 8 0x5000001)
  let u := memPuts t 0x50000 (toLe 8 (0x202057 + if m then 0x4000 else 0))
  let x : Move := { ctx := 1, va := 0x200000, lg := 16, entryPa := 0x50000, old := 0x206057, new := 0x206097 }
  at_ { w0 with mem := u, moves := if m then [(3, x)] else [] } 3
theorem witness_moves_start :
    let s := movable false
    s.leafOf 1 0 = some (0x2057, 21, 0x40000) ∧ s.leafOf 1 0x200000 = some (0x202057, 16, 0x50000) ∧ s.moves.find 3 = none
    ∧ (0x202057 : Dword) &&& migBit = 0 ∧ mayMove 3 16 0x202057 (placedAt 0x202057 0x200090) = true
    ∧ s.leafOk 16 (placedAt 0x202057 0x200090) = true ∧ Memory.wf s.mem = true
    ∧ ∀ m, ({ s with ctxs := [(1, { root := 2 })] } : State).holdsTables m = false := by
  refine ⟨by decide, by decide, by decide, by decide, by decide, by decide, by decide, fun m => by rfl⟩
theorem witness_moves_switch :
    let s := movable true
    let m := s.moves.get {} 3
    let e := BitVec.ofNat 64 (s.num m.entryPa 8)
    s.moves.find 3 = some m ∧ m.switched = false ∧ (e ^^^ m.old) &&& ~~~heatBits = 0 ∧ Memory.wf s.mem = true ∧ m.entryPa % 8 = 0
    ∧ 2 ^ m.lg / 4096 = 16 ∧ m.start + 100000 ≤ s.now
    ∧ ∀ k < 16, physOf m.new m.lg (m.va + 4096 * k) % 4096 = 0 ∧ physOf m.new m.lg (m.va + 4096 * k) / 4096 ≠ m.entryPa / 4096
      ∧ ∀ j < 16, physOf m.old m.lg (m.va + 4096 * j) % 4096 = 0
        ∧ physOf m.new m.lg (m.va + 4096 * k) ≠ physOf m.old m.lg (m.va + 4096 * j)
        ∧ (j ≠ k → physOf m.new m.lg (m.va + 4096 * k) ≠ physOf m.new m.lg (m.va + 4096 * j)) := by decide
theorem witness_retired_mdie : ({ w0 with ctxs := [] } : State).scan 3 = ([], []) ∧ (3 : Nat) < 8 ∧ (31 : Nat) ≤ 32 := by decide
/-- A fold keeps what each of its steps keeps. -/
theorem foldl_keeps {α β : Type} (p : β → Prop) (f : β → α → β) (h : ∀ b a, p b → p (f b a)) :
    ∀ (l : List α) (b : β), p b → p (l.foldl f b)
  | [], _, hb => hb
  | a :: l, b, hb => foldl_keeps p f h l (f b a) (h b a hb)
/-- The table of a scan that lies on the M-die is the host's to move. -/
theorem scanFrom_own (s : State) (m ctx l base va : Nat) (h : s.homeOf base = .hbm m) :
    { kind := 1, ctx := ctx, va := va } ∈ (s.scanFrom m ctx (l + 1) base va).1 := by
  unfold State.scanFrom
  refine foldl_keeps (fun (a : List Stuck × List (Nat × Nat × Dword)) => { kind := 1, ctx := ctx, va := va } ∈ a.1) _ ?_ _ _ ?_
  · intro a n ha
    dsimp only
    repeat' split
    all_goals first | exact ha | exact List.mem_append_left _ ha
  · simp [h]
theorem witness_stuck_mdie : (w0.scan 0).1 ≠ [] := by
  intro h
  have hm := scanFrom_own w0 0 1 3 0x20000 0 (by decide)
  have : (w0.scan 0).1 = [] ++ (w0.scanFrom 0 1 4 0x20000 0).1 := rfl
  rw [this, List.nil_append] at h
  rw [h] at hm
  exact absurd hm List.not_mem_nil
theorem witness_host_writes :
    (0x100 : Nat) + 2 ≤ 262144 ∧ (∀ k < 2, isRegArea (2 ^ 43 + 0x100 + k) = false) ∧ (262142 : Nat) + 2 ≤ 262144
    ∧ (∀ k < 2, isRegArea (2 ^ 43 + 262142 + k) = false)
    ∧ (∀ k < 2, w0.lineWaits 32 ((2 ^ 43 + 0x100 + k) / 128) = []) := by decide

-- Bridges and Hyley links

/-- `w0` at a link in a state. -/
def withLink (n : Nat) (l : Link) : State := at_ { w0 with links := [(n, l)] } n
/-- A request flit that did not come by a link. -/
def flit1 : Flit := { cls := 1, typ := 1, dst := 1, last := false }
theorem witness_sends_flits :
    let l (q r : List Flit) : Link := { linkq := q, resend := r, txq := [flit1], allow := [(0, 5, 0)] }
    let f : Flit := { cls := 0, typ := 1, dst := 0 }
    ((withLink 5 (l [f] [])).link 5).linkq = [f] ∧ ((withLink 5 (l [] [flit1])).link 5).resend = [flit1]
    ∧ (l [] []).retry.length < 512 ∧ flit1.up = none
    ∧ (l [] []).burst.1 ≠ w0.now ∧ (l [] []).lanes ≠ 0 ∧ (l [] []).training = false := by decide
theorem witness_turn : ({ txq := [flit1] } : Link).turn 5 = some (1, flit1) := by
  have hr : ∀ c, ({ txq := [flit1] } : Link).room 5 c = true := fun c => by simp [Link.room] <;> omega
  unfold Link.turn Link.ready
  simp only [hr]
  rfl
set_option maxRecDepth 20000 in
theorem witness_receives_flits :
    let l (f : Flit) : Link := { wire := [f], expected := 5 }
    let ok (f : Flit) : Bool := (l f).lanes != 0 && !(l f).training && (l f).wire == [f]
    let sealed (f : Flit) : Flit := { f with crc := crc32c f.image }
    let a := sealed { flit1 with seq := 5 }
    let old := sealed { flit1 with seq := 3 }
    let far := sealed { flit1 with seq := 7 }
    let bad := { a with crc := a.crc + 1 }
    (ok a && ok old && ok far && ok bad) = true ∧ (a.crcBad || old.crcBad || far.crcBad) = false ∧ bad.crcBad = true
    ∧ (l a).drop.contains (a.cls, a.msg) = false ∧ a.malformed (decide (1024 ≤ 5)) = false ∧ a.seq = (l a).expected
    ∧ (5 + 4096 - old.seq) % 4096 ≤ 512 ∧ 512 < (5 + 4096 - far.seq) % 4096 := by decide
theorem witness_acknowledgement :
    let l : Link := { unacked := 3, lastAck := 5, retry := [flit1], allow := [(2, 5, 3)] }
    let s := withLink 5 l
    (s.link 5).allow.find 2 = some (5, 3) ∧ (s.link 5).unacked ≠ 0 ∧ (s.link 5).lastAck + 32 ≤ s.now ∧ backLink 5 ≠ 5
    ∧ (s.link 5).retry ≠ [] ∧ (s.link 5).lanes ≠ 0 ∧ (s.link 5).training = false ∧ (s.link 5).lastHeard + 1000 ≤ s.now := by decide
theorem witness_training :
    let s (n : Nat) := withLink n { training := true }
    ((withLink 5 {}).link 5).lanes ≠ 0 ∧ ((withLink 5 {}).link 5).training = false ∧ ((s 5).link 5).training = true
    ∧ ((s 5).link 5).lanes ≠ 0 ∧ (5 : Nat) < 1024 ∧ ((s 1024).link 1024).training = true ∧ ((s 1024).link 1024).lanes ≠ 0
    ∧ (1024 : Nat) ≤ 1024 := by decide
theorem witness_remote_requests :
    let r : RemoteReq := { srcDev := 3, tag := 1, kind := .read, ctx := 1, va := 0x10000, size := 8, aop := 0, data := [], mask := [], xdie := 0 }
    let made (s : State) (r : RemoteReq) : State := ({ s with fresh := s.fresh + 1 } : State).setReq s.fresh
      { kind := r.kind, die := 24 + r.xdie % 2, ctx := r.ctx, space := 2, va := r.va, size := r.size, data := r.data,
        mask := r.mask, aop := r.aop, srcDev := some r.srcDev, tag := r.tag, farDie := r.srcDie, issued := s.now }
    let u := made w0 r
    (w0.ctx r.ctx).v = true ∧ (u.walk (24 + r.xdie % 2) r.ctx r.va).1 = .leaf 0x2057 30 0x30000
    ∧ leafPermits 0x2057 .load = true ∧ w0.homeOf (physOf 0x2057 30 r.va) ≠ .hole
    ∧ r.size ≤ 2 ^ (w0.homeOf (physOf 0x2057 30 r.va)).granule ∧ (w0.ctx 2).v = false ∧ w0.bridgeDown = false := by decide
theorem witness_remote_refusals :
    let r : Req := { kind := .atom, die := 24, ctx := 1, space := 2, va := 0x10000, size := 64, srcDev := some 3, issued := 2000000 }
    let found (s : State) (va : Nat) : WalkRes := ((({ s with fresh := 1 } : State).setReq 0 { r with va := va }).walk 24 1 va).1
    found w0 0x40000000 = .perm ∧ found { w0 with poison := [0x30000 / 128] } 0x10000 = .ecc
    ∧ (match found { w0 with dies := [(16, { failed := true })] } 0x10000 with
        | .link n => n == 16
        | _ => false) = true ∧ leafPermits 0x2053 .store = false
    ∧ 2 ^ (w0.homeOf (physOf 0x2057 30 0x10000)).granule < 64 := by decide
theorem witness_remote_ports :
    let p : State := { w0 with ports := [(3, [0, 2])] }
    3 ≠ w0.domDev.toNat ∧ w0.ports.get [] 3 = [] ∧ p.ports.get [] 3 = [0, 2]
    ∧ (firstLink 24 (32 + 0)).isSome = true ∧ (firstLink 24 (32 + 2)).isSome = true := by decide

-- The package

/-- `w0` with firmware that runs, and keys. -/
def booted (r : Bool) : State := { w0 with trust := { w0.trust with booted := true, record := r } }
theorem witness_package :
    Memory.wf w0.mem = true ∧ { w0 with power := false }.power = false ∧ (booted false).trust.booted = true
    ∧ (booted false).trust.erased = false ∧ { (booted false).trust with erased := true }.erased = true
    ∧ w0.trust.booted = false ∧ (booted false).trust.fuse true < 64 ∧ (booted false).trust.record = false
    ∧ (booted true).trust.record = true
    ∧ (let i : Image := { content := [], ecdsa := [], lms := [], svn := 0 }
       { w0.trust with service := some i }.service = some i) := by decide
theorem witness_free_values (s : State) (b : Bool) (g : Image) :
    ((-2 ≤ Config.deviation s.undefs ∧ Config.deviation s.undefs ≤ 2) ∨ Config.deviation s.undefs < -2 ∨ 2 < Config.deviation s.undefs)
    ∧ (s.trust.accepts b g = true ∨ s.trust.accepts b g = false) := by
  refine ⟨by omega, by cases s.trust.accepts b g <;> simp⟩
theorem witness_islands :
    w0.paused.contains 3 = false ∧ w0.islandMhz 3 ≠ 800 ∧ 800 % 100 = 0 ∧ w0.paused = [] ∧ 800 < w0.islandMhz 2 ∧ 800 < w0.islandMhz 3
    ∧ { w0 with paused := [3] }.paused.contains 3 = true ∧ (w0.die 5).failed = false
    ∧ w0.limited 3 800 = 800 ∧ w0.paused.contains (16 + 16) = false ∧ 800 < w0.islandMhz (16 + 16) ∧ 800 < w0.islandMhz (25 + 16)
    ∧ w0.islandMhz 3 = w0.limited 3 (w0.islandMhz 3) ∧ (∀ i ∈ islandsOf 5, w0.islandMhz i ≤ 4000)
    ∧ (∀ e ∈ w0.dies, e.2.failed = false → -2 ≤ e.2.dev ∧ e.2.dev ≤ 2 ∧ -2 ≤ e.2.devFrom ∧ e.2.devFrom ≤ 2)
    ∧ (withReq rq).launches = [] ∧ (s1.quire 0 0).live = true ∧ (0 : Nat) < 4 * (s1.quire 0 0).blocks
    ∧ ((withBanks .compute).bank 0 2).mode = .compute
    ∧ ((w0.setCore 0 { w0.core 0 with l1 := [(3, {})], icache := [(4, {})] }).core 0).l1.find 3 = some {}
    ∧ ((w0.setDie 0 { w0.die 0 with cache := [(3, {})] }).die 0).cache.find 3 = some {}
    ∧ patrolled (.l1Copy 0 3 2) = false ∧ (w0.link 5).wire = [] ∧ ((withLink 5 { wire := [flit1] }).link 5).wire = [flit1]
    ∧ w0.geomAnnex = 0 ∧ { w0 with geomAnnex := 4 }.geomAnnex.getLsbD 2 = true ∧ patrolled (.bankWord 0 2 3 4) = true
    ∧ (w0.bank 0 2).mode = .storage := by decide

-- The work of banks

/-- Bank 2 of core 0 with one item of launch 7 at the head of its order. -/
def withItem (w : Work) (k : Bank) : State :=
  at_ (part { core1 with banks := [(2, { k with queue := [{ work := w, lk := lkOf 1 7, ins := 9 }] })] } launch1) 0 2
/-- The queue of that bank holds that one item. -/
def headIs (s : State) (w : Work) : Bool := (s.bank 0 2).queue == [{ work := w, lk := lkOf 1 7, ins := 9 }]
theorem witness_conversions :
    let s := withItem (.conv true) { mode := .toComp }
    let t := withItem (.conv false) { mode := .toStor, busy := true }
    headIs s (.conv true) = true ∧ (s.bank 0 2).busy = false ∧ s.paused.contains (islandOf 0) = false ∧ s.accessBefore 0 2 9 = false
    ∧ headIs t (.conv false) = true ∧ (t.bank 0 2).busy = true := by decide
theorem witness_items :
    let ws : List Work := [.bclr 15, .bkey 0 2 3 [(5, 6, true)], .bkscale 4 [(1, 2)], .micro 0 [0, 0, 0, 0] none, .bmvm 0 1 0 7 0 31]
    let r : Req := { rq with kind := .write, space := 1, stage := .bank, bank := 2 }
    let a : State := { withItem (.access [5]) {} with reqs := [(5, r)] }
    let b := withItem (.bmvm 0 1 0 7 0 31) { mode := .compute, busy := true }
    let c := withItem (.bmvm 0 1 0 7 0 31) { mode := .compute, busy := true, badG := [8] }
    (∀ w ∈ ws, headIs (withItem w { mode := .compute }) w = true) ∧ headIs a (.access [5]) = true ∧ a.reqs.find 5 = some r
    ∧ r.ins = 9 ∧ a.ins.find r.ins = none ∧ (∀ e ∈ a.reqs, e.2.stage ≠ .hold) ∧ (∀ e ∈ a.reqs, e.2.kind = .write) ∧ (b.bank 0 2).busy = true ∧ (b.bank 0 2).failing 0 31 = [] ∧ (c.bank 0 2).failing 0 31 ≠ [] := by decide
/-- Bank 2 in a microprogram of slot 32 whose words are `ws`, with a count and an end. -/
def inProgram (ws : List Dword) (n : Nat) (o : Option Bool) : State :=
  let m : Micro := { cx := 32, words := ws, xc := n, ending := o }
  { withItem (.bexec 32 [0, 0, 0, 0] 1 1 [] 5) { mode := .compute, busy := true, micro := some m } with
    ins := [(9, { lanes := 1, path := 1 })] }
theorem witness_microprograms :
    let w : Work := .bexec 32 [0, 0, 0, 0] 1 1 [] 5
    let s : State := withItem w { mode := .compute }
    let c : CxSlot := { first := { words := [0x8000000000000000], bad := false } }
    let s : State := s.setCore 0 { s.core 0 with codex := [(32, c)] }
    let run (t : State) : Option (Bank × Micro × Bool) := (t.bank 0 2).micro.map (fun m => microRun (64 - m.xc % 64) (t.bank 0 2) m)
    let a := inProgram [0x8000000000000000] 0 none
    let b := inProgram [0x4000000000000000] 65535 none
    headIs s w = true ∧ (s.bank 0 2).busy = false ∧ ((s.core 0).slotWords 32).2 = false ∧ s.completing 0 32 = none ∧ headIs a w = true ∧ a.dead (lkOf 1 7) = false
    ∧ ((s.setCore 0 { s.core 0 with codex := [(32, { c with first := { words := [], bad := true } })] }).core 0).slotWords 32 = ([], true)
    ∧ ({ s with agenda := [{ tick := 0, here := { sub := 32, item := 9 }, what := .codexWriteComplete }] } : State).completing 0 32
        = some 9
    ∧ a.paused.contains (islandOf 0) = false ∧ (run a).map (fun x => x.2.2) = some true
    ∧ (run b).map (fun x => (x.2.2, x.2.1.xc)) = some (false, 65536)
    ∧ a.stopsAt { cx := 32 } (lkOf 1 7) [] = false
    ∧ ({ a with launches := [(lkOf 1 7, { launch1 with stopping := true })] } : State).stopsAt { cx := 32, xc := 64 } (lkOf 1 7) [] = true
    ∧ (∀ o ∈ [true, false], ((inProgram [] 3 (some o)).bank 0 2).micro.map Micro.ending = some (some o))
    ∧ (inProgram [] 3 (some true)).ins.find 9 = some { lanes := 1, path := 1 } := by decide
theorem witness_codex_store :
    let s : State := at_ (part { core1 with codex := [(32, { writing := some ([0x8000000000000000], 9) })] } launch1) 0 32 9
    ((s.core 0).codex.get {} 32).writing = some ([0x8000000000000000], 9) := by decide

-- Stream queues

/-- A descriptor of a queue from die 0 to core 3 of die 1, with 8 slots. -/
def desc : Nat := 1 * 2 ^ 8 + 1 * 2 ^ 20 + 3 * 2 ^ 24 + 8 * 2 ^ 41 + 4 * 2 ^ 50
set_option maxRecDepth 4000 in
theorem witness_descriptors :
    let x : Queue := { wmark := 1 }
    let s : State := { w0 with queues := [(3, x)] }
    let w := (BitVec.ofNat 64 desc ||| 1#64).toNat
    let y := x.take0 w
    let b (n : Nat) : State := { w0 with queues := [(3, { v := true, binds := n })] }
    (s.queue 3).v = false ∧ w / 2 % 2 = 0 ∧ reserved0 w = false ∧ y.fieldsOk = true ∧ (∀ e ∈ s.queues, e.1 ≠ 3 → y.overlaps e.2 = false)
    ∧ y.route ≠ [] ∧ y.route.all (fun n => (s.link n).freeStream.isSome) = true ∧ reserved0 4 = true
    ∧ (x.take0 (BitVec.ofNat 64 1).toNat).fieldsOk = false ∧ ((b 0).queue 3).v = true ∧ ((b 0).queue 3).binds = 0
    ∧ ((b 1).queue 3).v = true ∧ ((b 1).queue 3).binds ≠ 0
    ∧ (x.take0 w).overlaps { y with v := true } = true := by decide
/-- A queue of context 1 with a ring at 0x10000. -/
def ringed (f : List Slot) (m n : Nat) (r : Bool) : State :=
  let x : Queue := { v := true, ctx := 1, nslot := 8, ring := 0x10000, quota := 4, consumer := some (lkOf 1 7), flying := f,
                     sram := List.replicate m ([1], false), spilled := n, refilling := r }
  at_ { withLaunch launch1 with
        queues := [(3, x)], cores := [(0, { core1 with run := none, tlb := [{ ctx := 1, va := 0, lg := 30, leaf := 0x2057 }] })] } 3
theorem witness_slots :
    let f : Slot := { bytes := [1, 2], stage := 2 }
    let ring (s : State) (k : Nat) (refill : Bool) : Bool := match s.ringPa 3 k refill with
      | (.ok pa, w) => Memory.wf w.mem && w.lineFree pa && (w.lineWaits 32 (pa / 128)).isEmpty && !w.moving pa true
          && !{ w with hostCached := [pa / 128] }.lineFree pa
      | _ => false
    let a := ringed [f] 2 0 false
    let b := ringed [] 8 3 false
    let c := ringed [] 2 1 true
    (a.queue 3).flying = [f] ∧ (a.queue 3).frozen = false ∧ (a.queue 3).sram.length < (a.queue 3).nslot ∧ (a.queue 3).spilled = 0
    ∧ (b.queue 3).nslot ≤ (b.queue 3).sram.length ∧ (b.queue 3).spilled < (b.queue 3).quota ∧ ring b 3 false = true
    ∧ (c.queue 3).refilling = true ∧ (c.queue 3).frozen = false ∧ (c.queue 3).spilled ≠ 0 ∧ (c.queue 3).sram.length < (c.queue 3).nslot ∧ ring c 0 true = true := by decide

-- Copy engines

/-- A copy of 64 bytes from 0x10000 to 0x10080, of quire 0. -/
def cmd1 : Cmd :=
  { id := 4, kind := .cp, sa := 0x10000, sd := 0x10080, sl := 64, vs := 5, lk := lkOf 1 7, slot := 0, nchunks := 1, todo := [0] }
/-- Core 0 with a command, at chunk 0 of it, in `w0` with launch 7 running. -/
def withCmd (x : Cmd) : State :=
  at_ { w0 with cores := [(0, { core1 with cmds := [x], run := none, tlb := [{ ctx := 1, va := 0, lg := 30, leaf := 0x2057 }] })], launches := [(lkOf 1 7, launch1)] } 0 4 0
theorem witness_chunks_start :
    let s := withCmd cmd1
    let t := at_ (withCmd { cmd1 with todo := [0, 1, 2] }) 1
    s.paused.contains (islandOf 0) = false ∧ s.inFlight 0 < 4 ∧ s.nextChunk 0 = some (0, cmd1, 0) ∧ t.engineIdle 1 = true
    ∧ ((List.range 40).flatMap (fun i => if 40 * dieOf 1 + i = 1 then [] else
        ((t.core (40 * dieOf 1 + i)).cmds.filter (fun y => y.ready && decide (2 ≤ y.todo.length)
          && !(t.launch y.lk).halted)).map (fun y => (40 * dieOf 1 + i, y)))).foldl richer none
        = some (0, { cmd1 with todo := [0, 1, 2] }) := by decide
theorem witness_chunks_performed :
    let y (x : Cmd) : Cmd := { x with todo := [], flying := [(0, 0)] }
    let ok (x : Cmd) : Bool := ((withCmd x).core 0).cmd? 4 == some x && x.flying.find? (fun f => f.2 == 0) == some (0, 0)
      && (withCmd x).chunkGate 0 x 0 == .go
    let pa (r : Except Cause Nat × State) : Bool := match r with
      | (.ok p, w) => !isRegArea p && Memory.wf w.mem
      | _ => false
    let f := y { cmd1 with kind := .cpfill }
    let c := y cmd1
    let b := y { cmd1 with kind := .cpbank, sa := 0 }
    let d := y { cmd1 with db := true, sd := 0 }
    (ok f && ok c && ok b && ok d) = true ∧ f.segs 0 = [(0x10000, 0x10080, 64)] ∧ pa ((withCmd f).enginePa 0 f 0x10080 64 true) = true
    ∧ c.segs 0 = [(0x10000, 0x10080, 64)]
    ∧ (match (withCmd c).engineSpan 0 c 0x10000 64 with
        | (.ok bs, u) => pa (u.enginePa 0 c 0x10080 bs.length true)
        | _ => false) = true
    ∧ (withCmd b).cmdBank 0 b b.sa.toNat = some 2
    ∧ (match (withCmd d).gather 0 d 0 with
        | (.ok _, u) => u.cmdBank 0 d d.sd.toNat == some 2
        | _ => false) = true := by decide
theorem witness_commands_complete :
    let x := { cmd1 with todo := [] }
    let s := withCmd x
    let r := { x with rel := true, scope := 4, gwct := 5 }
    let e := { x with failed := some .engine }
    let d : State := { withCmd e with launches := [(lkOf 1 7, { launch1 with ending := some .fFault })] }
    (d.core 0).cmd? 4 = some e ∧ (d.launch e.lk).ending.isSome = true ∧ e.flying = [] ∧ x.got = []
    ∧ (s.core 0).cmd? s.here.sub = some x ∧ (s.launch x.lk).ending = none ∧ x.releasing = false ∧ x.stolen = [] ∧ x.ready = true
    ∧ x.failed = none ∧ r.gwct ≤ s.nowAt (dieOf 0) ∧ s.cmdQuire 0 x = true ∧ x.vs ≠ 0
    ∧ s.cmdQuire 0 { x with slot := 9 } = false := by decide

-- The Binder

/-- A loop of one addition at 0x10000, counted to the threshold, on core 0. -/
def hot (e : Bool) : State :=
  let ws := [Instr.iadd { plain with e := e } false false 1 1 2, .bra plain 0 0xFFFFFF].flatMap encode
  let e : TlbEntry := { ctx := 1, va := 0, lg := 30, leaf := 0x205B }
  let n : Heat := { state := .counting, lk := lkOf 1 7, header := 0x10000, latch := some 0x10008, count := 5000 }
  let k : Core := { core1 with run := none, tlb := [e], heat := [(3, n)] }
  let m := memPuts (memPuts tables 0x30000 (toLe 8 0x205B)) page1 (ws.flatMap (fun w => toLe 8 w.toNat))
  at_ { w0 with mem := m, cores := [(0, k)], launches := [(lkOf 1 7, launch1)] } 0
theorem witness_folio_builds :
    let built (s : State) : Except (Option Nat) Folio := (s.tryBody 0 3 ((s.core 0).heatAt 3)).1
    (hot true).buildable 0 = some 3
    ∧ (match built (hot true) with
        | .ok f => decide (f.words.length = 2)
        | _ => false) = true
    ∧ (match built (hot false) with
        | .error r => r == some 8
        | _ => false) = true
    ∧ (match built ((hot true).setCore 0 { (hot true).core 0 with tlb := [] }) with
        | .error r => r.isNone
        | _ => false) = true := by decide
/-- Core 0 with an armed folio at the word of lane 0, and a resident folio or none. -/
def withFolio (r : Option Resident) (t : Thread) : State :=
  let f : Folio := { header := 0x1000, latch := 0x1008, lk := lkOf 1 7 }
  let q : Quire := { quire1 with threads := quire1.threads.set 0 { t with pc := 0x1000 } }
  at_ (part { core1 with run := none, quires := [(0, q)], folios := [(1, f)], resident := r } launch1) 0
theorem witness_residence :
    let r : Resident := { folio := 1, threads := [(0, 0)] }
    let s := withFolio (some r) {}
    (withFolio none {}).nextFolio 0 = some (1, [(0, 0)]) ∧ s.paused.contains (islandOf 0) = false
    ∧ s.sliceCycles 0 r < 4096 ∧ 4096 ≤ { s with now := 2000 }.sliceCycles 0 r
    ∧ (s.core 0).runGoes r = false ∧ r.draining = false ∧ r.iters.all (fun e => !((s.quire 0 e.1).th e.2.1).faulted) ∧ s.nextStarter 0 r = some (0, 0) := by decide
theorem witness_folio_exits :
    let r : Resident := { folio := 1, threads := [(0, 0)], cur := some (0, 0, {}) }
    let s := withFolio (some r) {}
    let t := withFolio (some r) { pends := [{ cause := .ecc }] }
    let u : State := s.setQuire 0 0 ((s.quire 0 0).setTh 0 { pc := 0x1010 })
    let d : Resident := { folio := 1, threads := [(0, 0)], draining := true }
    let w := withFolio (some d) {}
    let faulted (s : State) (e : Nat × Nat × Thread) : Bool := ((s.quire 0 e.1).th e.2.1).faulted
    let ends (s : State) (r : Resident) (i : Instr) : Option (Nat × Nat) :=
      (((s.core 0).offRun r).find? (fun e => s.endOf (s.core 0) r e == .step i)).map (fun e => (e.1, e.2.1))
    ((s.core 0).resident == some r && r.iters.find? (faulted s) == none && ends s r .folioIterationRetire == some (0, 0)) = true
    ∧ ((t.core 0).resident == some r && (r.iters.find? (faulted t)).map Prod.fst == some 0) = true
    ∧ ((u.core 0).resident == some r && r.iters.find? (faulted u) == none && ends u r .folioExit == some (0, 0)) = true
    ∧ ((w.core 0).resident == some d && ends w d .folioExit == none) = true
    ∧ d.threads.find? (fun t => !d.iterates t && w.mustLeave 0 d t) = some (0, 0) := by decide

-- Waits

/-- `w0` with a wait, at it. -/
def waiting (g : Goal) (n : Nat) : State := at_ { w0 with waits := [(6, { goal := g, need := n })] } 6
theorem witness_waits :
    (∀ g ∈ [Goal.hostWrite 3, .drain (lkOf 1 7), .fence 0 0 0 9 false 4], (waiting g 5).waits.find 6 = some { goal := g, need := 5 }
      ∧ 5 ≤ (waiting g 5).nowAt 0 ∧ (waiting g 5).nowAt 0 < 3000000)
    ∧ (waiting (.fence 0 0 0 9 false 4) 5).reqs = []
    ∧ ({ waiting (.fence 0 0 0 9 false 4) 5 with waits := [] } : State).acquiring 0 0 0 9 = false := by decide

-- ## The spec's worked examples

-- the examples of R50 in chapter 2: bridges of a route
theorem test_routes :
    (route 5 25).length = 3 ∧ (route 5 17).length = 2 ∧ (route 15 19).length = 4 ∧ (route 15 16).length = 7 := by decide
-- Table 3.6: FRAME 0x120, interleaved
theorem test_interleaved_homes :
    ([0x4001C000, 0x4001D000, 0x4001E000, 0x4001F000].map (physOf 0x1202003 16))
      = [0x5000241000, 0x4000241000, 0x7000241000, 0x6000241000] := by decide
-- R152: BUDGET 10,000 and M = 8
theorem test_phase_limit : ({ budget := 10000, margin := 8 } : PhaseTimer).limit = 24096 := by decide
-- the example of R340
theorem test_bfe : bfeW true 0xE50 0x404 = 5 ∧ bfeW true 0xE50 0x407 = 0xFFFFFFFC := by decide
-- the text at Table 9.7: the elements of a block of FP4 in half-units, and its key-scale entry
theorem test_fp4_block :
    alignBlock 0x14 (scaleOf 0x14 0x201) [.rne, .rne] [3, 12] = ([3, -4], -1, false)
    ∧ alignBlock 0x14 (scaleOf 0x14 0x1FA) [.rne, .rne] [5, 9] = ([6, -1], -1, false)
    ∧ ((({} : Bank).putScales 0 [(0, 0x201)]).putAln 0 0 (-1) false).kscale.get 0 0 = 0x00FFF201 := by decide
-- Table 13.4: EF 2, SM 1, FTZ 1; under RTZ q3 is 7; under SR it is 8 when the draw is below 2^23
theorem test_aligned_fp8 :
    let fs : Dword := 0x112
    let f (r : Rnd) : List Int × Int × Bool := alignBlock fs (scaleOf fs 0x24) (List.replicate 5 r) [0x5C, 0x2B, 0x81, 0x3F, 2]
    f .rne = ([96, 1, 0, 8, 0], -2, false) ∧ (f .rtz).1.getD 3 0 = 7 ∧ (f (.sr (2 ^ 23 - 1))).1.getD 3 0 = 8
    ∧ (f (.sr (2 ^ 23))).1.getD 3 0 = 7 := by decide
-- Table 16.10
theorem test_decode_block_words :
    decodeTableWord 64 0x0198604068180000 = some (.mxpack { b := false, e := false, gn := false, gp := 0 } 0 false 3 12 8 13)
    ∧ (decodeTableWord 64 0x81A0A06068000200).isSome = true := by decide

end Sys2Proof.Tests
end

section
/-! SUPPORT. Lane words: what a lane writes for each shape of its result, and the word whose lane result has that
shape. -/

namespace Sys2Proof.Machine

-- ## What a lane writes

@[simp] theorem Thread.raise_zero (t : Thread) : t.raise 0 = t := by simp [Thread.raise]

/-- A result without a draw: its registers, then its predicates, then its flags. -/
theorem Thread.write_noDraw {t : Thread} (hb : t.badV = []) (v : List (Nat × Word)) (p : List (Nat × Bool)) (fl : Word) :
    t.write { v := v, p := p, fl := fl }
      = (p.foldl (fun t e => t.setPred e.1 e.2) (v.foldl (fun t e => t.setReg e.1 e.2) t)).raise fl := by
  rw [Thread.write, Thread.setRegs_sound t v hb]
  rfl

theorem Thread.write_out1 {t : Thread} (hb : t.badV = []) (d : VReg) (x : Word) : t.write (out1 d x) = t.setReg d.toNat x := by
  rw [out1, t.write_noDraw hb]
  exact Thread.raise_zero _

theorem Thread.write_out2 {t : Thread} (hb : t.badV = []) (d : VReg) (x : Dword) : t.write (out2 d x) = t.setPair d x := by
  rw [out2, t.write_noDraw hb]
  exact Thread.raise_zero _

theorem Thread.write_regPred {t : Thread} (hb : t.badV = []) (d : VReg) (p : PReg) (x : Word) (b : Bool) :
    t.write { v := [(d.toNat, x)], p := [(p.toNat, b)] } = (t.setReg d.toNat x).setPred p.toNat b := by
  rw [t.write_noDraw hb]
  exact Thread.raise_zero _

/-- The clamp of the model is the one between two bounds in order (R333). -/
theorem clamp_eq_max_min (x : Int) {lo hi : Int} (h : lo ≤ hi) : clamp x lo hi = max lo (min x hi) := by
  unfold clamp
  split
  · omega
  · split <;> omega

theorem Thread.write_satOut {t : Thread} (hb : t.badV = []) (d : VReg) (n : Int) {lo hi : Int} (h : lo ≤ hi) :
    t.write (satOut d n lo hi) = t.setSat d n lo hi := by
  rw [satOut, t.write_noDraw hb, clamp_eq_max_min n h, Thread.setSat]
  by_cases hn : max lo (min n hi) = n <;> simp [hn, flagIf, fIS, Thread.setInt]

-- ## Lane words by the shape of their result

section
variable {i : Instr} {h : Head} {d : VReg}

/-- A lane word whose result is one register. -/
theorem setReg_gives {f g : Thread → Word} (hv : ∀ t, f t = g t)
    (hi : i.head = some h := by rfl) (hw : ∀ s, exec i s = laneWord i h s (fun t => out1 d (f t)) := by intro; rfl)
    (hf : ∀ t r, f { t with repc := r } = f t := by intros; rfl) :
    GivesLane i (fun t => t.setReg d.toNat (g t)) :=
  laneWord_gives hi hw (fun t hb => by rw [Thread.write_out1 hb, hv]) (fun t r => by rw [hf])

/-- A lane word whose result is a pair. -/
theorem setPair_gives {f g : Thread → Dword} (hv : ∀ t, f t = g t)
    (hi : i.head = some h := by rfl) (hw : ∀ s, exec i s = laneWord i h s (fun t => out2 d (f t)) := by intro; rfl)
    (hf : ∀ t r, f { t with repc := r } = f t := by intros; rfl) :
    GivesLane i (fun t => t.setPair d (g t)) :=
  laneWord_gives hi hw (fun t hb => by rw [Thread.write_out2 hb, hv]) (fun t r => by rw [hf])

/-- A lane word whose result is an integer clamped to a range. -/
theorem setSat_gives {f : Thread → Int} {lo up : Int} (hle : lo ≤ up) (hi : i.head = some h := by rfl)
    (hw : ∀ s, exec i s = laneWord i h s (fun t => satOut d (f t) lo up) := by intro; rfl)
    (hf : ∀ t r, f { t with repc := r } = f t := by intros; rfl) :
    GivesLane i (fun t => t.setSat d (f t) lo up) :=
  laneWord_gives hi hw (fun t hb => Thread.write_satOut hb d (f t) hle) (fun t r => by rw [hf])

/-- A lane word whose result is a sum and its carry out (R335). -/
theorem setSum_gives {p : PReg} {f g : Thread → Nat} (hv : ∀ t, f t = g t) (hi : i.head = some h := by rfl)
    (hw : ∀ s, exec i s = laneWord i h s (fun t =>
      { v := [(d.toNat, BitVec.ofNat 32 (f t))], p := [(p.toNat, decide (2 ^ 32 ≤ f t))] }) := by intro; rfl)
    (hf : ∀ t r, f { t with repc := r } = f t := by intros; rfl) :
    GivesLane i (fun t => (t.setNat d (g t)).setPred p.toNat (decide (2 ^ 32 ≤ g t))) :=
  laneWord_gives hi hw (fun t hb => by rw [Thread.write_regPred hb, hv]; rfl) (fun t r => by rw [hf])

end

end Sys2Proof.Machine
end

section
/-! SUPPORT. What the integer words compute, in whole numbers and bits: one lemma per operation of R335-R342. -/

namespace Sys2Proof.Machine

-- ## Wrapped arithmetic (R333, R335, R336)

theorem sub_eq_ofInt {w : Nat} (a b : BitVec w) : a - b = BitVec.ofInt w ((a.toNat : Int) - (b.toNat : Int)) := by
  rw [Int.sub_eq_add_neg, BitVec.ofInt_add, BitVec.ofInt_neg, BitVec.sub_eq_add_neg]
  simp only [BitVec.ofInt_natCast, BitVec.ofNat_toNat, BitVec.setWidth_eq]

theorem mul_eq_ofNat {w : Nat} (a b : BitVec w) : a * b = BitVec.ofNat w (a.toNat * b.toNat) := by
  simp only [BitVec.ofNat_mul, BitVec.ofNat_toNat, BitVec.setWidth_eq]

theorem shiftLeft_eq_ofNat {w : Nat} (a : BitVec w) (n : Nat) : a <<< n = BitVec.ofNat w (a.toNat * 2 ^ n) := by
  rw [← Nat.shiftLeft_eq]
  rfl

theorem ofInt_shiftLeft {w : Nat} (x : Int) (n : Nat) : BitVec.ofInt w x <<< n = BitVec.ofInt w (x * 2 ^ n) := by
  have h : BitVec.ofInt w (2 ^ n) = BitVec.twoPow w n := by
    apply BitVec.eq_of_toNat_eq
    rw [BitVec.toNat_twoPow, ← BitVec.toNat_ofNat, ← BitVec.ofInt_natCast, Int.natCast_pow]
    rfl
  rw [BitVec.shiftLeft_eq_mul_twoPow, BitVec.ofInt_mul, h]

/-- A pair plus a wrapped integer, wrapped once (R333). -/
theorem ofInt_add_toNat {w : Nat} (x : Int) (c : BitVec w) : BitVec.ofInt w x + c = BitVec.ofInt w (x + (c.toNat : Int)) := by
  rw [BitVec.ofInt_add, BitVec.ofInt_natCast, BitVec.ofNat_toNat, BitVec.setWidth_eq]

@[simp] theorem readInt_signed {w : Nat} (x : BitVec w) : readInt true x = x.toInt := rfl
@[simp] theorem readInt_unsigned {w : Nat} (x : BitVec w) : readInt false x = (x.toNat : Int) := rfl

theorem mulhW_unsigned (a b : Word) : mulhW false a b = BitVec.ofNat 32 (a.toNat * b.toNat / 2 ^ 32) := by
  rw [← BitVec.ofInt_natCast, mulhW, readInt_unsigned, readInt_unsigned, Int.natCast_ediv, Int.natCast_mul]
  rfl

theorem mulAdd_eq_ofNat (a b c : Word) : a * b + c = BitVec.ofNat 32 (a.toNat * b.toNat + c.toNat) := by
  rw [mul_eq_ofNat, BitVec.ofNat_add, BitVec.ofNat_toNat, BitVec.setWidth_eq]

theorem mulAddWide_unsigned (a b : Word) (c : Dword) :
    BitVec.ofInt 64 (readInt false a * readInt false b) + c = BitVec.ofNat 64 (a.toNat * b.toNat + c.toNat) := by
  rw [ofInt_add_toNat, ← BitVec.ofInt_natCast, readInt_unsigned, readInt_unsigned, Int.natCast_add, Int.natCast_mul]

-- ## Minimum, maximum and absolute value (R337)

theorem pickInt_decide (sg : Bool) (r : Int → Int → Prop) [∀ x y, Decidable (r x y)] (a b : Word) :
    pickInt sg (fun x y => decide (r x y)) a b = if r (readInt sg a) (readInt sg b) then a else b := by
  simp only [pickInt, decide_eq_true_eq]

theorem Thread.write_absOut {t : Thread} (hb : t.badV = []) (sat : Bool) (d : VReg) (a : Word) :
    t.write (absOut sat d a)
      = if 0 ≤ a.toInt then t.setReg d.toNat a
        else if a = 0x80000000 then
          (t.setReg d.toNat (if sat then 0x7FFFFFFF else 0x80000000)).raise (if sat then 0x20 else 0)
        else t.setInt d (-a.toInt) := by
  unfold absOut
  split
  · exact Thread.write_out1 hb d a
  · split
    next hmin =>
      rw [t.write_noDraw hb, hmin]
      rfl
    next =>
      rw [Thread.write_out1 hb, Thread.setInt, BitVec.ofInt_neg, BitVec.ofInt_toInt]

-- ## Shifts (R338)

theorem shlW_eq_ofNat (a : Word) (n : Nat) : shlW a n = BitVec.ofNat 32 (if 32 ≤ n then 0 else a.toNat * 2 ^ n) := by
  unfold shlW
  split
  · rfl
  · exact shiftLeft_eq_ofNat a n

theorem shrW_eq_ofNat (a : Word) (n : Nat) : shrW a n = BitVec.ofNat 32 (if 32 ≤ n then 0 else a.toNat / 2 ^ n) := by
  unfold shrW
  split
  · rfl
  · rw [← Nat.shiftRight_eq_div_pow, ← BitVec.toNat_ushiftRight, BitVec.ofNat_toNat, BitVec.setWidth_eq]

theorem sarW_eq_ofInt (a : Word) (n : Nat) : sarW a n = BitVec.ofInt 32 (a.toInt / 2 ^ min n 31) := by
  rw [sarW, BitVec.sshiftRight_eq, Int.shiftRight_eq_div_pow, Int.natCast_pow]
  rfl

-- ## Bit counts (R339)

/-- The members of a list that meet a test, counted one by one. -/
theorem length_filter_eq_sum {α : Type} (p : α → Bool) (l : List α) :
    (l.filter p).length = (l.map (fun k => (p k).toNat)).sum := by
  induction l with
  | nil => rfl
  | cons a l ih => cases hp : p a <;> simp [hp, ih, Nat.add_comm]

/-- How many of the first numbers meet a test, before the first that does not. -/
theorem length_takeWhile_range (p : Nat → Bool) (m : Nat) :
    let n := ((List.range m).takeWhile p).length
    n ≤ m ∧ (∀ k, k < n → p k = true) ∧ (n < m → p n = false) := by
  have hn : ((List.range m).takeWhile p).length = (List.range m).findIdx (fun a => !p a) := by
    rw [List.takeWhile_eq_take_findIdx_not, List.length_take]
    exact Nat.min_eq_left List.findIdx_le_length
  dsimp only
  rw [hn]
  refine ⟨?_, ?_, ?_⟩
  · simpa using List.findIdx_le_length (xs := List.range m) (p := fun a => !p a)
  · intro k hk
    simpa using List.not_of_lt_findIdx hk
  · intro hlt
    have h := List.findIdx_getElem (xs := List.range m) (p := fun a => !p a) (w := by simpa using hlt)
    simpa using h

theorem clzW_spec (x : Word) :
    clzW x ≤ 32 ∧ (∀ k, k < clzW x → x.getLsbD (31 - k) = false) ∧ (clzW x < 32 → x.getLsbD (31 - clzW x) = true) := by
  simpa [clzW] using length_takeWhile_range (fun k => !x.getLsbD (31 - k)) 32

theorem ctzW_spec (x : Word) :
    ctzW x ≤ 32 ∧ (∀ k, k < ctzW x → x.getLsbD k = false) ∧ (ctzW x < 32 → x.getLsbD (ctzW x) = true) := by
  simpa [ctzW] using length_takeWhile_range (fun k => !x.getLsbD k) 32

theorem getLsbD_brevW (x : Word) {k : Nat} (hk : k < 32) : (brevW x).getLsbD (31 - k) = x.getLsbD k := by
  have h : 31 - (31 - k) = k := by omega
  have h' : 31 - k < 32 := by omega
  rw [brevW, BitVec.getLsbD_reverse, BitVec.getMsbD]
  simp [h, h']

-- ## Bit fields (R340)

theorem fieldOf_eq (b : Word) :
    fieldOf b = (min (b.toNat % 256) 32, min (b.toNat / 256 % 256) (32 - min (b.toNat % 256) 32)) := by
  simp only [fieldOf, BitVec.extractLsb'_toNat, Nat.shiftRight_eq_div_pow, Nat.pow_zero, Nat.div_one]

theorem bfeW_unsigned (a b : Word) :
    bfeW false a b =
      let p := min (b.toNat % 256) 32
      BitVec.ofNat 32 (a.toNat / 2 ^ p % 2 ^ min (b.toNat / 256 % 256) (32 - p)) := by
  unfold bfeW
  rw [fieldOf_eq]
  dsimp only
  split
  · rename_i hl
    rw [hl, Nat.pow_zero, Nat.mod_one]
    rfl
  · rw [if_neg]
    exact fun h => absurd h.1 Bool.false_ne_true

theorem bfeW_signed (a b : Word) :
    bfeW true a b =
      let p := min (b.toNat % 256) 32
      let l := min (b.toNat / 256 % 256) (32 - p)
      let f := a.toNat / 2 ^ p % 2 ^ l
      BitVec.ofInt 32 (if l = 0 then 0 else if 2 ^ (l - 1) ≤ f then (f : Int) - 2 ^ l else f) := by
  unfold bfeW
  rw [fieldOf_eq]
  dsimp only
  generalize a.toNat / 2 ^ min (b.toNat % 256) 32 % _ = f
  simp only [true_and]
  split
  · rfl
  · split
    · rfl
    · exact (BitVec.ofInt_natCast 32 f).symm

theorem bfiW_eq (a b c : Word) :
    bfiW a b c =
      let p := min (b.toNat % 256) 32
      let l := min (b.toNat / 256 % 256) (32 - p)
      (c &&& ~~~BitVec.ofNat 32 ((2 ^ l - 1) * 2 ^ p)) ||| BitVec.ofNat 32 (a.toNat % 2 ^ l * 2 ^ p) := by
  rw [bfiW, fieldOf_eq]

-- ## Bytes (R341)

theorem extractLsb'_bytexW (a b c : Word) {k : Nat} (hk : k < 4) :
    (bytexW a b c).extractLsb' (8 * k) 8 = bytexByte a b (c.extractLsb' (8 * k) 8) := by
  unfold bytexW
  match k, hk with
  | 0, _ => exact BitVec.extractLsb'_append_eq_right
  | 1, _ =>
    rw [BitVec.extractLsb'_append_eq_of_le (by decide)]
    exact BitVec.extractLsb'_append_eq_right
  | 2, _ =>
    rw [BitVec.extractLsb'_append_eq_of_le (by decide), BitVec.extractLsb'_append_eq_of_le (by decide)]
    exact BitVec.extractLsb'_append_eq_right
  | 3, _ =>
    rw [BitVec.extractLsb'_append_eq_of_le (by decide), BitVec.extractLsb'_append_eq_of_le (by decide)]
    exact BitVec.extractLsb'_append_eq_left

theorem bytexByte_eq (a b c : Word) (k : Nat) :
    bytexByte a b (c.extractLsb' (8 * k) 8) =
      let j := c.toNat / 2 ^ (8 * k) % 8
      let x := if j < 4 then a.extractLsb' (8 * j) 8 else b.extractLsb' (8 * (j - 4)) 8
      let act := c.toNat / 2 ^ (8 * k + 3) % 4
      if act = 0 then x else if act = 1 then 0 else if act = 2 then (if x.getLsbD 7 then 0xFF else 0) else 0xFF := by
  have hj : ((c.extractLsb' (8 * k) 8).extractLsb' 0 3).toNat = c.toNat / 2 ^ (8 * k) % 8 := by
    simp only [BitVec.extractLsb'_toNat, Nat.shiftRight_eq_div_pow]
    generalize c.toNat / 2 ^ (8 * k) = n
    omega
  have hact : ((c.extractLsb' (8 * k) 8).extractLsb' 3 2).toNat = c.toNat / 2 ^ (8 * k + 3) % 4 := by
    rw [Nat.pow_add, ← Nat.div_div_eq_div_mul]
    simp only [BitVec.extractLsb'_toNat, Nat.shiftRight_eq_div_pow]
    generalize c.toNat / 2 ^ (8 * k) = n
    omega
  unfold bytexByte
  rw [hj, hact]
  generalize c.toNat / 2 ^ (8 * k + 3) % 4 = act
  rcases act with _ | _ | _ | act
  · rfl
  · rfl
  · rfl
  · simp

-- ## Select and address arithmetic (R342)

theorem lea_eq_ofNat (a b : Word) (n : Nat) : a + (b <<< n) = BitVec.ofNat 32 (a.toNat + b.toNat * 2 ^ n) := by
  rw [shiftLeft_eq_ofNat, BitVec.ofNat_add, BitVec.ofNat_toNat, BitVec.setWidth_eq]

theorem leaWide_signed (c : Dword) (b : Word) (n : Nat) :
    c + (BitVec.ofInt 64 (readInt true b) <<< n) = BitVec.ofInt 64 ((c.toNat : Int) + b.toInt * 2 ^ n) := by
  rw [ofInt_shiftLeft, BitVec.add_comm, ofInt_add_toNat, Int.add_comm, readInt_signed]

theorem leaWide_unsigned (c : Dword) (b : Word) (n : Nat) :
    c + (BitVec.ofInt 64 (readInt false b) <<< n) = BitVec.ofNat 64 (c.toNat + b.toNat * 2 ^ n) := by
  rw [ofInt_shiftLeft, BitVec.add_comm, ofInt_add_toNat, Int.add_comm, readInt_unsigned, ← BitVec.ofInt_natCast,
    Int.natCast_add, Int.natCast_mul, Int.natCast_pow]
  rfl

end Sys2Proof.Machine
end

section
/-! CERTIFICATES. The integer, logic and address words in a lane (R335-R342). -/

namespace Sys2Proof.Machine

/-- Settles O10: the model's results are the rule's sum or difference, wrapped or clamped, and for `iaddx` the carry. -/
theorem addSubtract : Obligations.AddSubtract := by
  unfold Obligations.AddSubtract
  intro h vd va vb pci pco sgn
  refine ⟨?_, ?_, ?_, ?_, ?_, ?_, ?_, ?_⟩
  · exact setReg_gives (fun t => BitVec.add_def (t.rv va) (t.rv vb))
  · exact setReg_gives (fun t => sub_eq_ofInt (t.rv va) (t.rv vb))
  · exact setSat_gives (by decide)
  · exact setSat_gives (by decide)
  · exact setSat_gives (by decide)
  · exact setSat_gives (by decide)
  · exact setSum_gives (fun _ => rfl)
  · exact setSum_gives (fun t => congrArg (t.u va + t.u vb + ·) (Bool.cond_eq_ite ..))

/-- Settles O11: wrapping commutes with sums and products, so the model's word operations give the narrowed exact value. -/
theorem multiply : Obligations.Multiply := by
  unfold Obligations.Multiply
  intro h vd va vb vc
  refine ⟨?_, ?_, ?_, ?_, ?_, ?_⟩
  · exact setReg_gives (fun t => mul_eq_ofNat (t.rv va) (t.rv vb))
  · exact setReg_gives (f := fun t => mulhW true (t.rv va) (t.rv vb)) (fun _ => rfl)
  · exact setReg_gives (fun t => mulhW_unsigned (t.rv va) (t.rv vb))
  · exact setReg_gives (fun t => mulAdd_eq_ofNat (t.rv va) (t.rv vb) (t.rv vc))
  · exact setPair_gives (fun t => ofInt_add_toNat (t.i va * t.i vb) (t.pair vc))
  · exact setPair_gives (fun t => mulAddWide_unsigned (t.rv va) (t.rv vb) (t.pair vc))

/-- Settles O12, rule by rule: R337 by the order of the operands' readings, R338 by shifts as products and quotients, R339 by
counting over the bit numbers. -/
theorem minMaxLogicCounts : Obligations.MinMaxLogicCounts := by
  unfold Obligations.MinMaxLogicCounts
  refine ⟨?_, ?_, ?_⟩
  · intro h vd va vb sat
    refine ⟨?_, ?_, ?_, ?_, ?_⟩
    · exact setReg_gives (fun t => pickInt_decide true (fun x y => x < y) (t.rv va) (t.rv vb))
    · exact setReg_gives (fun t =>
        (pickInt_decide false (fun x y => x < y) (t.rv va) (t.rv vb)).trans (ite_congr (propext Int.ofNat_lt) (fun _ => rfl) (fun _ => rfl)))
    · exact setReg_gives (fun t => pickInt_decide true (fun x y => y < x) (t.rv va) (t.rv vb))
    · exact setReg_gives (fun t =>
        (pickInt_decide false (fun x y => y < x) (t.rv va) (t.rv vb)).trans (ite_congr (propext Int.ofNat_lt) (fun _ => rfl) (fun _ => rfl)))
    · exact laneWord_gives rfl (fun _ => rfl) (fun t hb => Thread.write_absOut hb sat vd (t.rv va)) (fun _ _ => rfl)
  · intro h vd va vb
    refine ⟨?_, ?_, ?_, ?_, ?_, ?_, ?_, ?_, ?_, ?_⟩
    · exact setReg_gives (fun _ => rfl)
    · exact setReg_gives (fun _ => rfl)
    · exact setReg_gives (fun _ => rfl)
    · exact setReg_gives (fun _ => rfl)
    · exact setReg_gives (fun _ => rfl)
    · exact setReg_gives (fun _ => rfl)
    · exact setReg_gives (fun t => shlW_eq_ofNat (t.rv va) (t.u vb))
    · exact setReg_gives (fun t => shrW_eq_ofNat (t.rv va) (t.u vb))
    · exact setReg_gives (fun t => sarW_eq_ofInt (t.rv va) (t.u vb))
    · exact setReg_gives (fun _ => rfl)
  · intro h vd va
    refine ⟨?_, ?_, ?_, ?_⟩
    · exact ⟨popcW, setReg_gives (fun _ => rfl), fun _ => length_filter_eq_sum _ _⟩
    · exact ⟨clzW, setReg_gives (fun _ => rfl), clzW_spec⟩
    · exact ⟨ctzW, setReg_gives (fun _ => rfl), ctzW_spec⟩
    · exact ⟨brevW, setReg_gives (fun _ => rfl), fun x _ hk => getLsbD_brevW x hk⟩

/-- Settles O13: R340 by the position and length that the model reads, R341 byte by byte, R342 by wrapped sums. -/
theorem fieldsBytesSelects : Obligations.FieldsBytesSelects := by
  unfold Obligations.FieldsBytesSelects
  refine ⟨?_, ?_⟩
  · intro h vd va vb vc
    refine ⟨?_, ?_, ?_, ?_⟩
    · exact setReg_gives (fun t => bfeW_unsigned (t.rv va) (t.rv vb))
    · exact setReg_gives (fun t => bfeW_signed (t.rv va) (t.rv vb))
    · exact setReg_gives (fun t => bfiW_eq (t.rv va) (t.rv vb) (t.rv vc))
    · refine ⟨bytexW, setReg_gives (fun _ => rfl), fun a b c k hk => ?_⟩
      exact (extractLsb'_bytexW a b c hk).trans (bytexByte_eq a b c k)
  · intro h vd va vb pn ng sgn sh
    refine ⟨?_, ?_, ?_, ?_, ?_, ?_⟩
    · exact setReg_gives (f := fun t => if t.pred pn.toNat != ng then t.rv va else t.rv vb) (fun _ => rfl)
    · exact setReg_gives (fun _ => rfl)
    · exact setPair_gives (fun _ => rfl)
    · exact setReg_gives (fun t => lea_eq_ofNat (t.rv va) (t.rv vb) sh.toNat)
    · exact setPair_gives (fun t => leaWide_signed (t.pair va) (t.rv vb) sh.toNat)
    · exact setPair_gives (fun t => leaWide_unsigned (t.pair va) (t.rv vb) sh.toNat)

end Sys2Proof.Machine
end
